-- ==== Sys2Proof/Word.lean ====
section
/-! DEFINITION. The word types of the machine (02 R45) and their plainest arithmetic. -/
namespace Sys2Proof

/-- A byte of memory. -/
abbrev Byte := BitVec 8
/-- A 64-bit scalar register (02 R45). -/
abbrev Word := BitVec 64
/-- A 2,048-bit vector register (02 R45). -/
abbrev Vec := BitVec 2048
/-- A 512-bit bundle (04 R88). -/
abbrev Bundle := BitVec 512
/-- A 60-bit slot word (04 R90). -/
abbrev SlotWord := BitVec 60
/-- The five exception flags of STICKY, in its bit order NV, OF, UF, NX, DZ (02 R55). -/
abbrev Flags := BitVec 5

/-- Bits `hi` down to `lo` of a number. -/
def bitsOf (x hi lo : Nat) : Nat := (x >>> lo) % 2 ^ (hi + 1 - lo)

/-- Sign-extension of the `w`-bit value `v` to an integer. -/
def signedOf (w v : Nat) : Int :=
  let u := v % 2 ^ w
  if u < 2 ^ (w - 1) then (u : Int) else (u : Int) - (2 ^ w : Nat)

/-- An integer modulo `2 ^ w`, as a bit pattern. -/
def wrapInt (w : Nat) (x : Int) : Nat := (x % ((2 ^ w : Nat) : Int)).toNat

end Sys2Proof
end

