-- ==== Sys2Proof/Machine/Memory.lean ====
section
/-! DEFINITION. Memory: bytes at addresses, in one canonical form (addresses rising, no entry that holds what an
unlisted address reads as), and the sets of poisoned units (18 R410, R411, R414). -/
namespace Sys2Proof.Machine

/-- Memory as a list of cells. -/
abbrev Memory := List Host.Cell

/-- What an unlisted address reads as (log entry 5). -/
def unlisted : Byte := 0

/-- The byte at an address. -/
def readByte (m : Memory) (a : Nat) : Byte :=
  match m with
  | [] => unlisted
  | (k, v) :: r => if a == k then v else readByte r a

/-- Memory with one byte written; the canonical form is kept. -/
def writeByte (m : Memory) (a : Nat) (b : Byte) : Memory :=
  match m with
  | [] => if b == unlisted then [] else [(a, b)]
  | (k, v) :: r =>
    if a < k then (if b == unlisted then (k, v) :: r else (a, b) :: (k, v) :: r)
    else if a == k then (if b == unlisted then r else (a, b) :: r)
    else (k, v) :: writeByte r a b

/-- The canonical form from an address on. -/
def Memory.wfFrom (lo : Nat) : Memory → Bool
  | [] => true
  | (k, v) :: r => decide (lo ≤ k) && v != unlisted && Memory.wfFrom (k + 1) r

/-- The canonical form. -/
def Memory.wf (m : Memory) : Bool := Memory.wfFrom 0 m

/-- `n` bytes from address `a`. -/
def readBytes (m : Memory) (a : Nat) : Nat → List Byte
  | 0 => []
  | n + 1 => readByte m a :: readBytes m (a + 1) n

/-- A list of bytes stored from address `a`. -/
def writeBytes (m : Memory) (a : Nat) : List Byte → Memory
  | [] => m
  | b :: r => writeBytes (writeByte m a b) (a + 1) r

/-- 00 R3: the number that bytes hold, little-endian. -/
def natOfBytes : List Byte → Nat
  | [] => 0
  | b :: r => b.toNat + 256 * natOfBytes r

/-- The `n` low bytes of a number, little-endian. -/
def bytesOfNat (x : Nat) : Nat → List Byte
  | 0 => []
  | n + 1 => BitVec.ofNat 8 x :: bytesOfNat (x / 256) n

/-- A number of `n` bytes in memory. -/
def readNat (m : Memory) (a n : Nat) : Nat := natOfBytes (readBytes m a n)

/-- A number stored in `n` bytes. -/
def writeNat (m : Memory) (a n x : Nat) : Memory := writeBytes m a (bytesOfNat x n)

/-- All `n` bytes from `a` on set to what an unlisted address reads as. -/
def clearBytes (m : Memory) (a n : Nat) : Memory := m.filter fun c => !(decide (a ≤ c.1) && decide (c.1 < a + n))

/-- `n` bytes copied from `src` to `dst`, two ranges that do not overlap. -/
def copyBytes (m : Memory) (src dst n : Nat) : Memory :=
  (m.filter fun c => decide (src ≤ c.1) && decide (c.1 < src + n)).foldl
    (fun r c => writeByte r (dst + (c.1 - src)) c.2) (clearBytes m dst n)

/-- One region of physical memory for each die, for the host and for each scratchpad. -/
def regionSize : Nat := 2 ^ 64
/-- 18 R395: a byte of a die's HBM. -/
def hbmKey (d : BitVec 2) (a : Nat) : Nat := d.toNat * regionSize + a
/-- 18 R392: a byte of host memory. -/
def hostKey (a : Nat) : Nat := 4 * regionSize + a
/-- 08 R178: a byte of a core's scratchpad. -/
def spadKey (d : BitVec 2) (c : BitVec 8) (a : Nat) : Nat := (16 + d.toNat * 256 + c.toNat) * regionSize + a

/-- The unit of poison at a key: 32 bytes of device memory (18 R410), 8 bytes of scratchpad (18 R414). -/
def poisonUnit (k : Nat) : Nat := if k < 4 * regionSize then 32 else 8

/-- The key of the unit of poison that holds a byte. -/
def poisonBase (k : Nat) : Nat := k / poisonUnit k * poisonUnit k

/-- The keys of the units that `n` bytes from `k` touch. -/
def poisonUnits (k n : Nat) : List Nat :=
  let u := poisonUnit k
  (List.range ((k % u + n + u - 1) / u)).map fun i => k / u * u + i * u

/-- A key put into a rising list. -/
def insertKey (k : Nat) : List Nat → List Nat
  | [] => [k]
  | x :: r => if k < x then k :: x :: r else if k == x then x :: r else x :: insertKey k r

/-- Some of the `n` bytes from `k` are poisoned. -/
def isPoisoned (p : List Nat) (k n : Nat) : Bool := (poisonUnits k n).any p.contains

/-- Every unit that `n` bytes from `k` touch becomes poisoned. -/
def addPoison (p : List Nat) (k n : Nat) : List Nat := (poisonUnits k n).foldl (fun l x => insertKey x l) p

/-- 18 R411: a write clears the poison of the units it covers whole. -/
def coverPoison (p : List Nat) (k n : Nat) : List Nat :=
  p.filter fun x => !(decide (k ≤ x) && decide (x + poisonUnit x ≤ k + n))

end Sys2Proof.Machine
end

