-- ==== Sys2Proof/Machine/Digest.lean ====
section
/-! DEFINITION. SHA3-256, the hash that the boot ROM, the journal and the Postmaster use (17 R378, 19 R416, R417). The
spec names it and does not give it; this is the function of FIPS 202 (log entry 9), with its rotations and round constants
computed as that standard derives them. -/
namespace Sys2Proof.Machine

/-- A sponge: 25 words of 64 bits, the word of column x and row y at bit 64 (x + 5 y). -/
abbrev Sponge := BitVec 1600

def Sponge.word (a : Sponge) (x y : Nat) : Word := a.extractLsb' (64 * (x % 5 + 5 * (y % 5))) 64
def Sponge.put (a : Sponge) (x y : Nat) (w : Word) : Sponge := a ||| w.setWidth 1600 <<< (64 * (x % 5 + 5 * (y % 5)))

/-- A sponge from its words. -/
def spongeOf (f : Nat → Nat → Word) : Sponge :=
  (List.range 25).foldl (fun a i => a.put (i % 5) (i / 5) (f (i % 5) (i / 5))) 0

/-- The parity of a column. -/
def Sponge.column (a : Sponge) (x : Nat) : Word := (List.range 5).foldl (fun w y => w ^^^ a.word x y) 0

/-- The walk over the 24 words other than (0, 0): word `t` of it turns left by a triangular number and moves on to the
place of the next. -/
def spongeWalk (a : Sponge) : Nat → Nat → Nat → Nat → Sponge → Sponge
  | 0, _, _, _, b => b
  | n + 1, t, x, y, b =>
    spongeWalk a n (t + 1) (y % 5) ((2 * x + 3 * y) % 5)
      (b.put y (2 * x + 3 * y) ((a.word x y).rotateLeft ((t + 1) * (t + 2) / 2 % 64)))

/-- The shift register behind the round constants, after `t` steps. -/
def roundRegister : Nat → BitVec 8
  | 0 => 1
  | t + 1 => let r := roundRegister t; r <<< 1 ^^^ (if r.msb then 0x71 else 0)

/-- The constant of a round: bits 0, 1, 3, 7, 15, 31 and 63 come from the shift register. -/
def roundWord (i : Nat) : Word :=
  (List.range 7).foldl (fun w j => w ||| ((roundRegister (7 * i + j)).setWidth 1).setWidth 64 <<< (2 ^ j - 1)) 0

/-- One round. -/
def spongeRound (a : Sponge) (i : Nat) : Sponge :=
  let t := spongeOf fun x y => a.word x y ^^^ a.column (x + 4) ^^^ (a.column (x + 1)).rotateLeft 1
  let b := spongeWalk t 24 0 1 0 (Sponge.put 0 0 0 (t.word 0 0))
  spongeOf (fun x y => b.word x y ^^^ (~~~(b.word (x + 1) y) &&& b.word (x + 2) y)) ^^^ (roundWord i).setWidth 1600

/-- The 24 rounds. -/
def spongeMix (a : Sponge) : Sponge := (List.range 24).foldl spongeRound a

/-- Blocks of 136 bytes taken in. -/
def spongeTake : Nat → Sponge → List Byte → Sponge
  | 0, a, _ => a
  | n + 1, a, b => spongeTake n (spongeMix (a ^^^ BitVec.ofNat 1600 (natOfBytes (b.take 136)))) (b.drop 136)

/-- SHA3-256 of bytes; byte 0 of the digest is bits 7 to 0. The message is padded with the bits 01, 1, 0s and 1. -/
def sha3 (m : List Byte) : BitVec 256 :=
  let blocks := m.length / 136 + 1
  let room := 136 * blocks - m.length
  let tail := bytesOfNat (6 + 2 ^ (8 * room - 1)) room
  (spongeTake blocks 0 (m ++ tail)).setWidth 256

/-- 19 R417: a measurement register extended. -/
def extendMr (mr d : BitVec 256) : BitVec 256 := sha3 (bytesOfNat mr.toNat 32 ++ bytesOfNat d.toNat 32)

end Sys2Proof.Machine
end

