-- ==== Sys2Proof/Syntax.lean ====
section
/-! DEFINITION. Syntax: one constructor for each row of the opcode table. The operations of a bundle slot carry
their head (slot, access mark, iteration condition, guard, modifier) and the operands of their format (04 R90 to
R95); the machine's own events, the queue, mailbox and management commands carry what the spec names for them. -/
namespace Sys2Proof

/-- The effect of a modifier word (04 R93). -/
structure ModOp where
  sat : Bool
  clamp : BitVec 2
  neg : Bool
  abs : Bool
  scale : BitVec 6
  hi : BitVec 16
  lo : BitVec 16
  deriving DecidableEq, Repr

/-- What a slot word and its header bits say besides opcode and operands (04 R89 to R91): the slot, the access
mark, the iteration condition, the guard, and the modifier that targets the slot. -/
structure Head where
  slot : BitVec 3
  acc : BitVec 1
  iter : BitVec 2
  gneg : BitVec 1
  gpred : BitVec 4
  md : Option ModOp
  deriving DecidableEq, Repr

/-- Format F3 (04 R95). -/
structure F3 where
  d : BitVec 6
  a : BitVec 6
  b : BitVec 6
  ty : BitVec 4
  sub : BitVec 4
  deriving DecidableEq, Repr

/-- Format F4 (04 R95). -/
structure F4 where
  d : BitVec 6
  a : BitVec 6
  b : BitVec 6
  c : BitVec 6
  ty : BitVec 4
  k : BitVec 3
  sub : BitVec 4
  rnd : BitVec 2
  deriving DecidableEq, Repr

/-- Format FI (04 R95). -/
structure FI where
  d : BitVec 6
  a : BitVec 6
  imm : BitVec 34
  deriving DecidableEq, Repr

/-- Format FL (04 R95). -/
structure FL where
  d : BitVec 6
  imm : BitVec 40
  deriving DecidableEq, Repr

/-- Format FM (04 R95). -/
structure FM where
  data : BitVec 6
  base : BitVec 6
  kind : BitVec 1
  space : BitVec 2
  ty : BitVec 4
  scope : BitVec 4
  order : BitVec 2
  offs : BitVec 21
  deriving DecidableEq, Repr

/-- Format FC (04 R95). -/
structure FC where
  desc : BitVec 6
  a : BitVec 6
  b : BitVec 6
  tgt : BitVec 5
  eng : BitVec 3
  tag : BitVec 4
  path : BitVec 8
  sub : BitVec 8
  deriving DecidableEq, Repr

/-- Format FX (04 R95). -/
structure FX where
  mp : BitVec 3
  vec : BitVec 6
  cnt : BitVec 6
  imm : BitVec 31
  deriving DecidableEq, Repr

/-- A core: its die and its physical number there. -/
structure CoreRef where
  die : BitVec 2
  core : BitVec 8
  deriving DecidableEq, Repr

/-- A context of a core. -/
structure CtxRef where
  die : BitVec 2
  core : BitVec 8
  ctx : BitVec 2
  deriving DecidableEq, Repr

/-- 19 R421: who asks over SPDM: a function over its DOE, or the management port over MCTP. -/
inductive Asker where
  | doe (fn : BitVec 5)
  | mctp
  deriving DecidableEq, Repr

/-- 19 R416: a signature: what it was made over, and the public key of its maker. Only that maker could have made it (log entry
9). -/
structure SignedBy where
  key : List Byte
  digest : BitVec 256
  svn : Nat
  deriving DecidableEq, Repr

/-- 19 R416, R424: a firmware image: its bytes, and its header: its digest, its SVN and the signature over both; the rollback
value that its activation sets; and the public key that comes with it. -/
structure FirmwareImage where
  content : List Byte
  digest : BitVec 256
  svn : Nat
  signature : SignedBy
  setsRollback : Nat
  key : List Byte
  deriving DecidableEq, Repr

/-- 19 R416, R424: what a firmware image is trusted by: its header's signature, the rollback value that its activation sets, and the
key that comes with it. -/
structure ImageTrust where
  signature : SignedBy
  setsRollback : Nat
  key : List Byte
  deriving DecidableEq, Repr

/-- 20 R431: a torus link that hears nothing: the port, the cycles since its last flit, and the retries made. -/
structure LinkSilence where
  port : BitVec 3
  idle : Nat
  retries : Nat
  deriving DecidableEq, Repr

/-- A command in progress: of an engine of a core (09 R229), or of a die's queues (17 R375). -/
inductive CmdRef where
  | engine (c : CoreRef) (id : Nat)
  | queue (die : BitVec 2) (id : Nat)
  deriving DecidableEq, Repr

/-- A place in the BAR2 window of a function (17 R363, 18 R394): its offset, and the size to which the host has resized the
window before the access, as the exponent of 2. -/
structure WindowAt where
  size : BitVec 6
  off : Word
  deriving DecidableEq, Repr

/-- A link-stream packet as it arrives (09 R238): 256 bytes, their number before padding, and the tag. -/
structure LinkPacket where
  data : Vec
  poison : Bool
  bytes : Nat
  tagw : Bool
  perbyte : Bool
  tag : BitVec 8
  deriving DecidableEq, Repr

/-- Where an uncorrectable on-chip error falls (18 R414). -/
inductive ErrorSite where
  | scratch (c : CoreRef) (unit : Nat)
  | msc (die : BitVec 2) (granule : Nat)
  | registers (x : CtxRef)
  deriving DecidableEq, Repr


/-- The instructions: one constructor for each row of the opcode table. -/
inductive Instr where
  /-- NOP (04 R90) -/
  | nop
  | add (h : Head) (f : F3)
  | sub (h : Head) (f : F3)
  | mul (h : Head) (f : F3)
  | mulh (h : Head) (f : F3)
  | mulhn (h : Head) (f : F3)
  | div (h : Head) (f : F3)
  | divn (h : Head) (f : F3)
  | rem (h : Head) (f : F3)
  | remn (h : Head) (f : F3)
  | and (h : Head) (f : F3)
  | or (h : Head) (f : F3)
  | xor (h : Head) (f : F3)
  | andn (h : Head) (f : F3)
  | shl (h : Head) (f : F3)
  | shr (h : Head) (f : F3)
  | sra (h : Head) (f : F3)
  | rotl (h : Head) (f : F3)
  | min (h : Head) (f : F3)
  | max (h : Head) (f : F3)
  | minn (h : Head) (f : F3)
  | maxn (h : Head) (f : F3)
  | clz (h : Head) (f : F3)
  | popc (h : Head) (f : F3)
  | sel (h : Head) (f : F3)
  | ext (h : Head) (f : F3)
  | ins (h : Head) (f : F3)
  | lea (h : Head) (f : F3)
  | addi (h : Head) (f : FI)
  | subi (h : Head) (f : FI)
  | muli (h : Head) (f : FI)
  | mulhi (h : Head) (f : FI)
  | mulhni (h : Head) (f : FI)
  | divi (h : Head) (f : FI)
  | divni (h : Head) (f : FI)
  | remi (h : Head) (f : FI)
  | remni (h : Head) (f : FI)
  | andi (h : Head) (f : FI)
  | ori (h : Head) (f : FI)
  | xori (h : Head) (f : FI)
  | andni (h : Head) (f : FI)
  | shli (h : Head) (f : FI)
  | shri (h : Head) (f : FI)
  | srai (h : Head) (f : FI)
  | rotli (h : Head) (f : FI)
  | mini (h : Head) (f : FI)
  | maxi (h : Head) (f : FI)
  | minni (h : Head) (f : FI)
  | maxni (h : Head) (f : FI)
  | seli (h : Head) (f : FI)
  | exti (h : Head) (f : FI)
  | insi (h : Head) (f : FI)
  | leai (h : Head) (f : FI)
  | movi (h : Head) (f : FL)
  | movhi (h : Head) (f : FL)
  | mov (h : Head) (f : F3)
  | cmp (h : Head) (f : F4)
  | cmpi (h : Head) (f : FI)
  | fcmp (h : Head) (f : F4)
  | plog (h : Head) (f : F3)
  | fadd (h : Head) (f : F3)
  | fsub (h : Head) (f : F3)
  | fmul (h : Head) (f : F3)
  | fma (h : Head) (f : F4)
  | fmin (h : Head) (f : F3)
  | fmax (h : Head) (f : F3)
  | fdiv (h : Head) (f : F3)
  | fcvt (h : Head) (f : F3)
  | pbr (h : Head) (f : FI)
  | pbri (h : Head) (f : F3)
  | br (h : Head) (f : F3)
  | call (h : Head) (f : F3)
  | ret (h : Head) (f : F3)
  | loop (h : Head) (f : FL)
  | loopbrk (h : Head) (f : F3)
  | setlc (h : Head) (f : FI)
  | setg (h : Head) (f : F3)
  | getg (h : Head) (f : F3)
  | getsr (h : Head) (f : FI)
  | setsr (h : Head) (f : FI)
  | setfmt (h : Head) (f : FL)
  | setx (h : Head) (f : F3)
  | safept (h : Head) (f : F3)
  | trap (h : Head) (f : FI)
  | rft (h : Head) (f : F3)
  | halt (h : Head) (f : F3)
  | yield (h : Head) (f : F3)
  | time (h : Head) (f : F3)
  | vadd (h : Head) (f : F4)
  | vsub (h : Head) (f : F4)
  | vmul (h : Head) (f : F4)
  | vfma (h : Head) (f : F4)
  | vmin (h : Head) (f : F4)
  | vmax (h : Head) (f : F4)
  | vand (h : Head) (f : F4)
  | vor (h : Head) (f : F4)
  | vxor (h : Head) (f : F4)
  | vshl (h : Head) (f : F4)
  | vshr (h : Head) (f : F4)
  | vsra (h : Head) (f : F4)
  | vcmp (h : Head) (f : F4)
  | vsel (h : Head) (f : F4)
  | vmov (h : Head) (f : F4)
  | vbcast (h : Head) (f : F4)
  | viota (h : Head) (f : F4)
  | vcvt (h : Head) (f : F4)
  | vperm (h : Head) (f : F4)
  | vslide (h : Head) (f : F4)
  | vdot4 (h : Head) (f : F4)
  | vexp2 (h : Head) (f : F4)
  | vlog2 (h : Head) (f : F4)
  | vrcp (h : Head) (f : F4)
  | vrsq (h : Head) (f : F4)
  | vdiv (h : Head) (f : F4)
  | vsqrt (h : Head) (f : F4)
  | vred (h : Head) (f : F4)
  | vscan (h : Head) (f : F4)
  | vamax (h : Head) (f : F4)
  | vquant (h : Head) (f : F4)
  | vcmpr (h : Head) (f : F4)
  | vtopk (h : Head) (f : F4)
  | vmergek (h : Head) (f : F4)
  | vdesc (h : Head) (f : F4)
  | vrand (h : Head) (f : F4)
  | vkop (h : Head) (f : F4)
  | vkmovAny (h : Head) (f : F4)
  | vkmovAll (h : Head) (f : F4)
  | vkmovFroms (h : Head) (f : F4)
  | vkmovTos (h : Head) (f : F4)
  | vkmovTov (h : Head) (f : F4)
  | vgetl (h : Head) (f : F4)
  | vsetl (h : Head) (f : F4)
  | ld (h : Head) (f : FM)
  | ldv (h : Head) (f : FM)
  | ldvs (h : Head) (f : FM)
  | ldx (h : Head) (f : FM)
  | ldg (h : Head) (f : FM)
  | ldgv (h : Head) (f : FM)
  | gath (h : Head) (f : F4)
  | ldw (h : Head) (f : FM)
  | ldc (h : Head) (f : FM)
  | ldt (h : Head) (f : FM)
  | probe (h : Head) (f : F4)
  | st (h : Head) (f : FM)
  | stv (h : Head) (f : FM)
  | stvs (h : Head) (f : FM)
  | stg (h : Head) (f : FM)
  | stgv (h : Head) (f : FM)
  | scat (h : Head) (f : F4)
  | stf (h : Head) (f : FM)
  | sts (h : Head) (f : FM)
  | tage (h : Head) (f : FM)
  | mpset (h : Head) (f : FX)
  | mlds (h : Head) (f : FX)
  | mms (h : Head) (f : FX)
  | mmsp (h : Head) (f : FX)
  | mmv (h : Head) (f : FX)
  | accrd (h : Head) (f : FX)
  | accclr (h : Head) (f : FX)
  | accscl (h : Head) (f : FX)
  | txbind (h : Head) (f : FX)
  | txstep (h : Head) (f : FX)
  | txfin (h : Head) (f : FX)
  | txsave (h : Head) (f : FX)
  | txrest (h : Head) (f : FX)
  | txabort (h : Head) (f : FX)
  | cp (h : Head) (f : FC)
  | cpq (h : Head) (f : FC)
  | wstr (h : Head) (f : FC)
  | lsend (h : Head) (f : FC)
  | pgreq (h : Head) (f : FC)
  | enq (h : Head) (f : FC)
  | frank (h : Head) (f : FC)
  | kvwalk (h : Head) (f : FC)
  | kvappend (h : Head) (f : FC)
  | kvseal (h : Head) (f : FC)
  | kvtrunc (h : Head) (f : FC)
  | bmap (h : Head) (f : FC)
  | strmrd (h : Head) (f : FC)
  | strmcommit (h : Head) (f : FC)
  | strmin (h : Head) (f : FC)
  | fwait (h : Head) (f : FC)
  | fpost (h : Head) (f : FC)
  | aarm (h : Head) (f : FC)
  | await (h : Head) (f : FC)
  | barr (h : Head) (f : FM)
  | bwait (h : Head) (f : FM)
  | hbar (h : Head) (f : F3)
  | fence (h : Head) (f : FM)
  | fencex (h : Head) (f : FC)
  | park (h : Head) (f : FM)
  | wake (h : Head) (f : FM)
  | qeos (h : Head) (f : F3)
  | qdrain (h : Head) (f : F3)
  | amo (h : Head) (f : FM)
  | cas (h : Head) (f : FM)
  | bundleIssue (c : CoreRef)
  | yieldQuantum (c : CoreRef)
  | contextStart (x : CtxRef)
  | contextLeave (x : CtxRef)
  | slotTableRound (die : BitVec 2)
  | slotTurn (die : BitVec 2)
  | scoreboardArrival (id : Nat)
  | attributedTrap (x : CtxRef)
  | feRetry (id : Nat)
  | reservationExpiry (die : BitVec 2) (asid : BitVec 12) (word : Word)
  | arrivalWordUpdate (c : CoreRef)
  | arrayOpExecute (c : CoreRef)
  | chainBlockCommit (c : CoreRef)
  | engineCommandStart (r : CmdRef)
  | engineCommandComplete (r : CmdRef)
  | deviceMemoryRequest (id : Nat)
  | tlbLeaseExpiry (die : BitVec 2) (asid : BitVec 12) (page : Nat)
  | migrationComplete (die : BitVec 2) (asid : BitVec 12) (page : Nat)
  | faultwaitExpiry (id : Nat)
  | contextSave (x : CtxRef)
  | preemptTimeout (stream : Nat)
  | contextRestore (x : CtxRef)
  | postmasterFrame (die : BitVec 2)
  | idleSlot (die : BitVec 2)
  | doorbellSlot (die : BitVec 2)
  | mtuFaultSlot (die : BitVec 2)
  | retirementSlot (die : BitVec 2)
  | frankingSlot (die : BitVec 2)
  | telemetrySlot (die : BitVec 2)
  | mailboxSlot (die : BitVec 2)
  | dispatchStep (die : BitVec 2)
  | streamCharge (stream : Nat)
  | queueDrainComplete (die : BitVec 2) (q : BitVec 8)
  | queueCommandComplete (die : BitVec 2) (id : Nat)
  | frankEnqueue (die : BitVec 2)
  | freezeEnd (c : CoreRef)
  | packetHop (id : Nat)
  | routeHoldExpiry (id : Nat)
  | splitQuiesceEnd (die : BitVec 2) (stack : BitVec 1)
  | bootStart
  | engineBurst (r : CmdRef)
  | linkPacketArrive (die : BitVec 2) (port : BitVec 3) (vc : BitVec 2) (pkt : LinkPacket)
  | doorbellWrite (fn : BitVec 5) (die : BitVec 2) (q : BitVec 8) (value : BitVec 32)
  | queueEnable (fn : BitVec 5) (die : BitVec 2) (q : BitVec 8)
  | queueDestroy (fn : BitVec 5) (die : BitVec 2) (q : BitVec 8)
  | queueKill (fn : BitVec 5) (die : BitVec 2) (q : BitVec 8)
  | tenancyTableWrite (fn : BitVec 5) (die : BitVec 2) (off : BitVec 12) (value : BitVec 8)
  | queueAssignmentWrite (fn : BitVec 5) (die : BitVec 2) (q : BitVec 8) (value : Word)
  | asidOwnerWrite (fn : BitVec 5) (die : BitVec 2) (asid : BitVec 12) (value : BitVec 8)
  | funcerrClear (fn : BitVec 5) (value : BitVec 3)
  | registerWrite (fn : BitVec 5) (off : BitVec 19) (value : Word)
  | bar2Access (fn : BitVec 5) (write : Bool) (off : WindowAt) (data : List Byte)
  | launch (die : BitVec 2) (q : BitVec 8) (cmd : Bundle)
  | copy (die : BitVec 2) (q : BitVec 8) (cmd : Bundle)
  | signal (die : BitVec 2) (q : BitVec 8) (cmd : Bundle)
  | hold (die : BitVec 2) (q : BitVec 8) (cmd : Bundle)
  | arm (die : BitVec 2) (q : BitVec 8) (cmd : Bundle)
  | tagfill (die : BitVec 2) (q : BitVec 8) (cmd : Bundle)
  | map (die : BitVec 2) (q : BitVec 8) (cmd : Bundle)
  | unmap (die : BitVec 2) (q : BitVec 8) (cmd : Bundle)
  | postmarkIncrement (die : BitVec 2) (ctr : BitVec 8) (store : Bool) (value : Word)
  | functionReset (fn : BitVec 5)
  | correctableErrorFreeze (c : CoreRef)
  | uncorrectableOnchipError (site : ErrorSite)
  | thermalShutdown (die : BitVec 2)
  | linkDown (die : BitVec 2) (silent : LinkSilence)
  | lease (fn : BitVec 5) (die : BitVec 2) (args : List Word)
  | hwin (fn : BitVec 5) (die : BitVec 2) (args : List Word)
  | tagpool (fn : BitVec 5) (die : BitVec 2) (args : List Word)
  | split (fn : BitVec 5) (die : BitVec 2) (args : List Word)
  | faultring (fn : BitVec 5) (die : BitVec 2) (args : List Word)
  | faultwait (fn : BitVec 5) (die : BitVec 2) (args : List Word)
  | migrate (fn : BitVec 5) (die : BitVec 2) (args : List Word)
  | extend (fn : BitVec 5) (die : BitVec 2) (args : List Word)
  | journal (fn : BitVec 5) (die : BitVec 2) (args : List Word)
  | telem (fn : BitVec 5) (die : BitVec 2) (args : List Word)
  | routeset (fn : BitVec 5) (die : BitVec 2) (args : List Word)
  | linkto (fn : BitVec 5) (die : BitVec 2) (args : List Word)
  | spdmGetVersion
  | spdmNegotiateAlgorithms (mldsa : Bool) (sha3 : Bool)
  | spdmGetMeasurements (sign : Bool) (nonce : BitVec 256)
  | mgmtHold
  | reset
  | funcreset (f : BitVec 8)
  | bootsel (slot : BitVec 1)
  | clear (k : BitVec 8) (u : BitVec 8)
  | powercap (w : BitVec 16)
  | pldmFirmwareUpdate (content : List Byte) (digest : BitVec 256) (svn : Nat) (trust : ImageTrust)
  | mailboxDoorbellWrite (fn : BitVec 5) (value : Word)
  | refusedRead (fn : BitVec 5) (off : BitVec 19)
  deriving DecidableEq, Repr

end Sys2Proof
end

