-- ==== Sys2Proof/Machine/Encoding.lean ====
section
/-! DEFINITION. The encodings of the slot operations (04 R88 to R98, 05 R112 to R124): where each field lies, the
opcode of each operation, and the encodings that are illegal, with their reasons. -/
namespace Sys2Proof.Machine

/-- The opcode spaces (05 R112): S, V, M, L, W, C and Y. -/
inductive SlotCls where
  | s | v | m | l | w | c | y
  deriving DecidableEq, Repr

/-- 04 R89: the opcode space of each slot. -/
def slotCls (k : Nat) : SlotCls :=
  match k with
  | 0 => .s | 1 => .v | 2 => .v | 3 => .m | 4 => .l | 5 => .w | 6 => .c | _ => .y

def F3.toOps (f : F3) : BitVec 46 := f.d ++ f.a ++ f.b ++ f.ty ++ f.sub ++ 0#20
def F3.ofOps (x : BitVec 46) : F3 :=
  ⟨x.extractLsb' 40 6, x.extractLsb' 34 6, x.extractLsb' 28 6, x.extractLsb' 24 4, x.extractLsb' 20 4⟩
def F4.toOps (f : F4) : BitVec 46 := f.d ++ f.a ++ f.b ++ f.c ++ f.ty ++ f.k ++ f.sub ++ f.rnd ++ 0#9
def F4.ofOps (x : BitVec 46) : F4 :=
  ⟨x.extractLsb' 40 6, x.extractLsb' 34 6, x.extractLsb' 28 6, x.extractLsb' 22 6, x.extractLsb' 18 4,
    x.extractLsb' 15 3, x.extractLsb' 11 4, x.extractLsb' 9 2⟩
def FI.toOps (f : FI) : BitVec 46 := f.d ++ f.a ++ f.imm
def FI.ofOps (x : BitVec 46) : FI := ⟨x.extractLsb' 40 6, x.extractLsb' 34 6, x.extractLsb' 0 34⟩
def FL.toOps (f : FL) : BitVec 46 := f.d ++ f.imm
def FL.ofOps (x : BitVec 46) : FL := ⟨x.extractLsb' 40 6, x.extractLsb' 0 40⟩
def FM.toOps (f : FM) : BitVec 46 :=
  f.data ++ f.base ++ f.kind ++ f.space ++ f.ty ++ f.scope ++ f.order ++ f.offs
def FM.ofOps (x : BitVec 46) : FM :=
  ⟨x.extractLsb' 40 6, x.extractLsb' 34 6, x.extractLsb' 33 1, x.extractLsb' 31 2, x.extractLsb' 27 4,
    x.extractLsb' 23 4, x.extractLsb' 21 2, x.extractLsb' 0 21⟩
def FC.toOps (f : FC) : BitVec 46 :=
  f.desc ++ f.a ++ f.b ++ f.tgt ++ f.eng ++ f.tag ++ f.path ++ f.sub
def FC.ofOps (x : BitVec 46) : FC :=
  ⟨x.extractLsb' 40 6, x.extractLsb' 34 6, x.extractLsb' 28 6, x.extractLsb' 23 5, x.extractLsb' 20 3,
    x.extractLsb' 16 4, x.extractLsb' 8 8, x.extractLsb' 0 8⟩
def FX.toOps (f : FX) : BitVec 46 := f.mp ++ f.vec ++ f.cnt ++ f.imm
def FX.ofOps (x : BitVec 46) : FX :=
  ⟨x.extractLsb' 43 3, x.extractLsb' 37 6, x.extractLsb' 31 6, x.extractLsb' 0 31⟩

/-- A slot operation as its encoding shows it (04 R90): its opcode space, opcode, head and operand bits. -/
structure SlotView where
  cls : SlotCls
  opc : BitVec 9
  h : Head
  ops : BitVec 46
  deriving DecidableEq, Repr

/-- The opcode and operand bits of a slot operation (05 R114 to R122); an event has none. -/
def slotView (i : Instr) : Option SlotView :=
  match i with
  | .nop => none
  | .add h f => some ⟨.s, 1, h, F3.toOps f⟩
  | .sub h f => some ⟨.s, 2, h, F3.toOps f⟩
  | .mul h f => some ⟨.s, 3, h, F3.toOps f⟩
  | .mulh h f => some ⟨.s, 4, h, F3.toOps f⟩
  | .mulhn h f => some ⟨.s, 5, h, F3.toOps f⟩
  | .div h f => some ⟨.s, 6, h, F3.toOps f⟩
  | .divn h f => some ⟨.s, 7, h, F3.toOps f⟩
  | .rem h f => some ⟨.s, 8, h, F3.toOps f⟩
  | .remn h f => some ⟨.s, 9, h, F3.toOps f⟩
  | .and h f => some ⟨.s, 10, h, F3.toOps f⟩
  | .or h f => some ⟨.s, 11, h, F3.toOps f⟩
  | .xor h f => some ⟨.s, 12, h, F3.toOps f⟩
  | .andn h f => some ⟨.s, 13, h, F3.toOps f⟩
  | .shl h f => some ⟨.s, 14, h, F3.toOps f⟩
  | .shr h f => some ⟨.s, 15, h, F3.toOps f⟩
  | .sra h f => some ⟨.s, 16, h, F3.toOps f⟩
  | .rotl h f => some ⟨.s, 17, h, F3.toOps f⟩
  | .min h f => some ⟨.s, 18, h, F3.toOps f⟩
  | .max h f => some ⟨.s, 19, h, F3.toOps f⟩
  | .minn h f => some ⟨.s, 20, h, F3.toOps f⟩
  | .maxn h f => some ⟨.s, 21, h, F3.toOps f⟩
  | .clz h f => some ⟨.s, 22, h, F3.toOps f⟩
  | .popc h f => some ⟨.s, 23, h, F3.toOps f⟩
  | .sel h f => some ⟨.s, 24, h, F3.toOps f⟩
  | .ext h f => some ⟨.s, 25, h, F3.toOps f⟩
  | .ins h f => some ⟨.s, 26, h, F3.toOps f⟩
  | .lea h f => some ⟨.s, 27, h, F3.toOps f⟩
  | .addi h f => some ⟨.s, 33, h, FI.toOps f⟩
  | .subi h f => some ⟨.s, 34, h, FI.toOps f⟩
  | .muli h f => some ⟨.s, 35, h, FI.toOps f⟩
  | .mulhi h f => some ⟨.s, 36, h, FI.toOps f⟩
  | .mulhni h f => some ⟨.s, 37, h, FI.toOps f⟩
  | .divi h f => some ⟨.s, 38, h, FI.toOps f⟩
  | .divni h f => some ⟨.s, 39, h, FI.toOps f⟩
  | .remi h f => some ⟨.s, 40, h, FI.toOps f⟩
  | .remni h f => some ⟨.s, 41, h, FI.toOps f⟩
  | .andi h f => some ⟨.s, 42, h, FI.toOps f⟩
  | .ori h f => some ⟨.s, 43, h, FI.toOps f⟩
  | .xori h f => some ⟨.s, 44, h, FI.toOps f⟩
  | .andni h f => some ⟨.s, 45, h, FI.toOps f⟩
  | .shli h f => some ⟨.s, 46, h, FI.toOps f⟩
  | .shri h f => some ⟨.s, 47, h, FI.toOps f⟩
  | .srai h f => some ⟨.s, 48, h, FI.toOps f⟩
  | .rotli h f => some ⟨.s, 49, h, FI.toOps f⟩
  | .mini h f => some ⟨.s, 50, h, FI.toOps f⟩
  | .maxi h f => some ⟨.s, 51, h, FI.toOps f⟩
  | .minni h f => some ⟨.s, 52, h, FI.toOps f⟩
  | .maxni h f => some ⟨.s, 53, h, FI.toOps f⟩
  | .seli h f => some ⟨.s, 56, h, FI.toOps f⟩
  | .exti h f => some ⟨.s, 57, h, FI.toOps f⟩
  | .insi h f => some ⟨.s, 58, h, FI.toOps f⟩
  | .leai h f => some ⟨.s, 59, h, FI.toOps f⟩
  | .movi h f => some ⟨.s, 64, h, FL.toOps f⟩
  | .movhi h f => some ⟨.s, 65, h, FL.toOps f⟩
  | .mov h f => some ⟨.s, 66, h, F3.toOps f⟩
  | .cmp h f => some ⟨.s, 72, h, F4.toOps f⟩
  | .cmpi h f => some ⟨.s, 73, h, FI.toOps f⟩
  | .fcmp h f => some ⟨.s, 74, h, F4.toOps f⟩
  | .plog h f => some ⟨.s, 75, h, F3.toOps f⟩
  | .fadd h f => some ⟨.s, 80, h, F3.toOps f⟩
  | .fsub h f => some ⟨.s, 81, h, F3.toOps f⟩
  | .fmul h f => some ⟨.s, 82, h, F3.toOps f⟩
  | .fma h f => some ⟨.s, 83, h, F4.toOps f⟩
  | .fmin h f => some ⟨.s, 84, h, F3.toOps f⟩
  | .fmax h f => some ⟨.s, 85, h, F3.toOps f⟩
  | .fdiv h f => some ⟨.s, 86, h, F3.toOps f⟩
  | .fcvt h f => some ⟨.s, 87, h, F3.toOps f⟩
  | .pbr h f => some ⟨.s, 128, h, FI.toOps f⟩
  | .pbri h f => some ⟨.s, 129, h, F3.toOps f⟩
  | .br h f => some ⟨.s, 130, h, F3.toOps f⟩
  | .call h f => some ⟨.s, 131, h, F3.toOps f⟩
  | .ret h f => some ⟨.s, 132, h, F3.toOps f⟩
  | .loop h f => some ⟨.s, 136, h, FL.toOps f⟩
  | .loopbrk h f => some ⟨.s, 137, h, F3.toOps f⟩
  | .setlc h f => some ⟨.s, 138, h, FI.toOps f⟩
  | .setg h f => some ⟨.s, 139, h, F3.toOps f⟩
  | .getg h f => some ⟨.s, 140, h, F3.toOps f⟩
  | .getsr h f => some ⟨.s, 192, h, FI.toOps f⟩
  | .setsr h f => some ⟨.s, 193, h, FI.toOps f⟩
  | .setfmt h f => some ⟨.s, 194, h, FL.toOps f⟩
  | .setx h f => some ⟨.s, 195, h, F3.toOps f⟩
  | .safept h f => some ⟨.s, 196, h, F3.toOps f⟩
  | .trap h f => some ⟨.s, 197, h, FI.toOps f⟩
  | .rft h f => some ⟨.s, 198, h, F3.toOps f⟩
  | .halt h f => some ⟨.s, 199, h, F3.toOps f⟩
  | .yield h f => some ⟨.s, 200, h, F3.toOps f⟩
  | .time h f => some ⟨.s, 201, h, F3.toOps f⟩
  | .vadd h f => some ⟨.v, 1, h, F4.toOps f⟩
  | .vsub h f => some ⟨.v, 2, h, F4.toOps f⟩
  | .vmul h f => some ⟨.v, 3, h, F4.toOps f⟩
  | .vfma h f => some ⟨.v, 4, h, F4.toOps f⟩
  | .vmin h f => some ⟨.v, 5, h, F4.toOps f⟩
  | .vmax h f => some ⟨.v, 6, h, F4.toOps f⟩
  | .vand h f => some ⟨.v, 7, h, F4.toOps f⟩
  | .vor h f => some ⟨.v, 8, h, F4.toOps f⟩
  | .vxor h f => some ⟨.v, 9, h, F4.toOps f⟩
  | .vshl h f => some ⟨.v, 10, h, F4.toOps f⟩
  | .vshr h f => some ⟨.v, 11, h, F4.toOps f⟩
  | .vsra h f => some ⟨.v, 12, h, F4.toOps f⟩
  | .vcmp h f => some ⟨.v, 16, h, F4.toOps f⟩
  | .vsel h f => some ⟨.v, 17, h, F4.toOps f⟩
  | .vmov h f => some ⟨.v, 18, h, F4.toOps f⟩
  | .vbcast h f => some ⟨.v, 19, h, F4.toOps f⟩
  | .viota h f => some ⟨.v, 20, h, F4.toOps f⟩
  | .vcvt h f => some ⟨.v, 21, h, F4.toOps f⟩
  | .vperm h f => some ⟨.v, 22, h, F4.toOps f⟩
  | .vslide h f => some ⟨.v, 23, h, F4.toOps f⟩
  | .vdot4 h f => some ⟨.v, 24, h, F4.toOps f⟩
  | .vexp2 h f => some ⟨.v, 32, h, F4.toOps f⟩
  | .vlog2 h f => some ⟨.v, 33, h, F4.toOps f⟩
  | .vrcp h f => some ⟨.v, 34, h, F4.toOps f⟩
  | .vrsq h f => some ⟨.v, 35, h, F4.toOps f⟩
  | .vdiv h f => some ⟨.v, 36, h, F4.toOps f⟩
  | .vsqrt h f => some ⟨.v, 37, h, F4.toOps f⟩
  | .vred h f => some ⟨.v, 48, h, F4.toOps f⟩
  | .vscan h f => some ⟨.v, 49, h, F4.toOps f⟩
  | .vamax h f => some ⟨.v, 50, h, F4.toOps f⟩
  | .vquant h f => some ⟨.v, 51, h, F4.toOps f⟩
  | .vcmpr h f => some ⟨.v, 52, h, F4.toOps f⟩
  | .vtopk h f => some ⟨.v, 53, h, F4.toOps f⟩
  | .vmergek h f => some ⟨.v, 54, h, F4.toOps f⟩
  | .vdesc h f => some ⟨.v, 55, h, F4.toOps f⟩
  | .vrand h f => some ⟨.v, 56, h, F4.toOps f⟩
  | .vkop h f => some ⟨.v, 64, h, F4.toOps f⟩
  | .vkmovAny h f => some ⟨.v, 65, h, F4.toOps f⟩
  | .vkmovAll h f => some ⟨.v, 65, h, F4.toOps f⟩
  | .vkmovFroms h f => some ⟨.v, 65, h, F4.toOps f⟩
  | .vkmovTos h f => some ⟨.v, 65, h, F4.toOps f⟩
  | .vkmovTov h f => some ⟨.v, 65, h, F4.toOps f⟩
  | .vgetl h f => some ⟨.v, 66, h, F4.toOps f⟩
  | .vsetl h f => some ⟨.v, 67, h, F4.toOps f⟩
  | .ld h f => some ⟨.l, 1, h, FM.toOps f⟩
  | .ldv h f => some ⟨.l, 2, h, FM.toOps f⟩
  | .ldvs h f => some ⟨.l, 3, h, FM.toOps f⟩
  | .ldx h f => some ⟨.l, 4, h, FM.toOps f⟩
  | .ldg h f => some ⟨.l, 5, h, FM.toOps f⟩
  | .ldgv h f => some ⟨.l, 6, h, FM.toOps f⟩
  | .gath h f => some ⟨.l, 7, h, F4.toOps f⟩
  | .ldw h f => some ⟨.l, 8, h, FM.toOps f⟩
  | .ldc h f => some ⟨.l, 9, h, FM.toOps f⟩
  | .ldt h f => some ⟨.l, 10, h, FM.toOps f⟩
  | .probe h f => some ⟨.l, 11, h, F4.toOps f⟩
  | .st h f => some ⟨.w, 1, h, FM.toOps f⟩
  | .stv h f => some ⟨.w, 2, h, FM.toOps f⟩
  | .stvs h f => some ⟨.w, 3, h, FM.toOps f⟩
  | .stg h f => some ⟨.w, 4, h, FM.toOps f⟩
  | .stgv h f => some ⟨.w, 5, h, FM.toOps f⟩
  | .scat h f => some ⟨.w, 6, h, F4.toOps f⟩
  | .stf h f => some ⟨.w, 7, h, FM.toOps f⟩
  | .sts h f => some ⟨.w, 8, h, FM.toOps f⟩
  | .tage h f => some ⟨.w, 9, h, FM.toOps f⟩
  | .mpset h f => some ⟨.m, 1, h, FX.toOps f⟩
  | .mlds h f => some ⟨.m, 2, h, FX.toOps f⟩
  | .mms h f => some ⟨.m, 3, h, FX.toOps f⟩
  | .mmsp h f => some ⟨.m, 4, h, FX.toOps f⟩
  | .mmv h f => some ⟨.m, 5, h, FX.toOps f⟩
  | .accrd h f => some ⟨.m, 6, h, FX.toOps f⟩
  | .accclr h f => some ⟨.m, 7, h, FX.toOps f⟩
  | .accscl h f => some ⟨.m, 8, h, FX.toOps f⟩
  | .txbind h f => some ⟨.m, 16, h, FX.toOps f⟩
  | .txstep h f => some ⟨.m, 17, h, FX.toOps f⟩
  | .txfin h f => some ⟨.m, 18, h, FX.toOps f⟩
  | .txsave h f => some ⟨.m, 19, h, FX.toOps f⟩
  | .txrest h f => some ⟨.m, 20, h, FX.toOps f⟩
  | .txabort h f => some ⟨.m, 21, h, FX.toOps f⟩
  | .cp h f => some ⟨.c, 1, h, FC.toOps f⟩
  | .cpq h f => some ⟨.c, 2, h, FC.toOps f⟩
  | .wstr h f => some ⟨.c, 3, h, FC.toOps f⟩
  | .lsend h f => some ⟨.c, 4, h, FC.toOps f⟩
  | .pgreq h f => some ⟨.c, 5, h, FC.toOps f⟩
  | .enq h f => some ⟨.c, 6, h, FC.toOps f⟩
  | .frank h f => some ⟨.c, 7, h, FC.toOps f⟩
  | .kvwalk h f => some ⟨.c, 16, h, FC.toOps f⟩
  | .kvappend h f => some ⟨.c, 17, h, FC.toOps f⟩
  | .kvseal h f => some ⟨.c, 18, h, FC.toOps f⟩
  | .kvtrunc h f => some ⟨.c, 19, h, FC.toOps f⟩
  | .bmap h f => some ⟨.c, 20, h, FC.toOps f⟩
  | .strmrd h f => some ⟨.c, 24, h, FC.toOps f⟩
  | .strmcommit h f => some ⟨.c, 25, h, FC.toOps f⟩
  | .strmin h f => some ⟨.c, 26, h, FC.toOps f⟩
  | .fwait h f => some ⟨.y, 1, h, FC.toOps f⟩
  | .fpost h f => some ⟨.y, 2, h, FC.toOps f⟩
  | .aarm h f => some ⟨.y, 3, h, FC.toOps f⟩
  | .await h f => some ⟨.y, 4, h, FC.toOps f⟩
  | .barr h f => some ⟨.y, 5, h, FM.toOps f⟩
  | .bwait h f => some ⟨.y, 6, h, FM.toOps f⟩
  | .hbar h f => some ⟨.y, 7, h, F3.toOps f⟩
  | .fence h f => some ⟨.y, 8, h, FM.toOps f⟩
  | .fencex h f => some ⟨.y, 9, h, FC.toOps f⟩
  | .park h f => some ⟨.y, 10, h, FM.toOps f⟩
  | .wake h f => some ⟨.y, 11, h, FM.toOps f⟩
  | .qeos h f => some ⟨.y, 12, h, F3.toOps f⟩
  | .qdrain h f => some ⟨.y, 13, h, F3.toOps f⟩
  | .amo h f => some ⟨.y, 32, h, FM.toOps f⟩
  | .cas h f => some ⟨.y, 33, h, FM.toOps f⟩
  | .bundleIssue _ => none
  | .yieldQuantum _ => none
  | .contextStart _ => none
  | .contextLeave _ => none
  | .slotTableRound _ => none
  | .slotTurn _ => none
  | .scoreboardArrival _ => none
  | .attributedTrap _ => none
  | .feRetry _ => none
  | .reservationExpiry _ _ _ => none
  | .arrivalWordUpdate _ => none
  | .arrayOpExecute _ => none
  | .chainBlockCommit _ => none
  | .engineCommandStart _ => none
  | .engineCommandComplete _ => none
  | .linkPacketArrive _ _ _ _ => none
  | .deviceMemoryRequest _ => none
  | .tlbLeaseExpiry _ _ _ => none
  | .migrationComplete _ _ _ => none
  | .faultwaitExpiry _ => none
  | .contextSave _ => none
  | .preemptTimeout _ => none
  | .contextRestore _ => none
  | .postmasterFrame _ => none
  | .idleSlot _ => none
  | .doorbellSlot _ => none
  | .mtuFaultSlot _ => none
  | .retirementSlot _ => none
  | .frankingSlot _ => none
  | .telemetrySlot _ => none
  | .mailboxSlot _ => none
  | .dispatchStep _ => none
  | .streamCharge _ => none
  | .doorbellWrite _ _ _ _ => none
  | .queueEnable _ _ _ => none
  | .queueDestroy _ _ _ => none
  | .queueKill _ _ _ => none
  | .queueDrainComplete _ _ => none
  | .tenancyTableWrite _ _ _ _ => none
  | .queueAssignmentWrite _ _ _ _ => none
  | .asidOwnerWrite _ _ _ _ => none
  | .funcerrClear _ _ => none
  | .registerWrite _ _ _ => none
  | .bar2Access _ _ _ _ => none
  | .launch _ _ _ => none
  | .copy _ _ _ => none
  | .signal _ _ _ => none
  | .hold _ _ _ => none
  | .arm _ _ _ => none
  | .tagfill _ _ _ => none
  | .map _ _ _ => none
  | .unmap _ _ _ => none
  | .queueCommandComplete _ _ => none
  | .postmarkIncrement _ _ _ _ => none
  | .frankEnqueue _ => none
  | .functionReset _ => none
  | .correctableErrorFreeze _ => none
  | .freezeEnd _ => none
  | .uncorrectableOnchipError _ => none
  | .thermalShutdown _ => none
  | .packetHop _ => none
  | .linkDown _ _ => none
  | .routeHoldExpiry _ => none
  | .lease _ _ _ => none
  | .hwin _ _ _ => none
  | .tagpool _ _ _ => none
  | .split _ _ _ => none
  | .splitQuiesceEnd _ _ => none
  | .faultring _ _ _ => none
  | .faultwait _ _ _ => none
  | .migrate _ _ _ => none
  | .extend _ _ _ => none
  | .journal _ _ _ => none
  | .telem _ _ _ => none
  | .routeset _ _ _ => none
  | .linkto _ _ _ => none
  | .bootStart => none
  | .spdmGetVersion => none
  | .spdmNegotiateAlgorithms _ _ => none
  | .spdmGetMeasurements _ _ => none
  | .mgmtHold => none
  | .reset => none
  | .funcreset _ => none
  | .bootsel _ => none
  | .clear _ _ => none
  | .powercap _ => none
  | .pldmFirmwareUpdate _ _ _ _ => none
  | .mailboxDoorbellWrite _ _ => none
  | .refusedRead _ _ => none
  | .engineBurst _ => none

/-- The operation at an opcode of the S space (05 R114); a reserved value answers none. -/
def decodeS (opc : Nat) (h : Head) (x : BitVec 46) : Option Instr :=
  match opc with
  | 1 => some (.add h (F3.ofOps x))
  | 2 => some (.sub h (F3.ofOps x))
  | 3 => some (.mul h (F3.ofOps x))
  | 4 => some (.mulh h (F3.ofOps x))
  | 5 => some (.mulhn h (F3.ofOps x))
  | 6 => some (.div h (F3.ofOps x))
  | 7 => some (.divn h (F3.ofOps x))
  | 8 => some (.rem h (F3.ofOps x))
  | 9 => some (.remn h (F3.ofOps x))
  | 10 => some (.and h (F3.ofOps x))
  | 11 => some (.or h (F3.ofOps x))
  | 12 => some (.xor h (F3.ofOps x))
  | 13 => some (.andn h (F3.ofOps x))
  | 14 => some (.shl h (F3.ofOps x))
  | 15 => some (.shr h (F3.ofOps x))
  | 16 => some (.sra h (F3.ofOps x))
  | 17 => some (.rotl h (F3.ofOps x))
  | 18 => some (.min h (F3.ofOps x))
  | 19 => some (.max h (F3.ofOps x))
  | 20 => some (.minn h (F3.ofOps x))
  | 21 => some (.maxn h (F3.ofOps x))
  | 22 => some (.clz h (F3.ofOps x))
  | 23 => some (.popc h (F3.ofOps x))
  | 24 => some (.sel h (F3.ofOps x))
  | 25 => some (.ext h (F3.ofOps x))
  | 26 => some (.ins h (F3.ofOps x))
  | 27 => some (.lea h (F3.ofOps x))
  | 33 => some (.addi h (FI.ofOps x))
  | 34 => some (.subi h (FI.ofOps x))
  | 35 => some (.muli h (FI.ofOps x))
  | 36 => some (.mulhi h (FI.ofOps x))
  | 37 => some (.mulhni h (FI.ofOps x))
  | 38 => some (.divi h (FI.ofOps x))
  | 39 => some (.divni h (FI.ofOps x))
  | 40 => some (.remi h (FI.ofOps x))
  | 41 => some (.remni h (FI.ofOps x))
  | 42 => some (.andi h (FI.ofOps x))
  | 43 => some (.ori h (FI.ofOps x))
  | 44 => some (.xori h (FI.ofOps x))
  | 45 => some (.andni h (FI.ofOps x))
  | 46 => some (.shli h (FI.ofOps x))
  | 47 => some (.shri h (FI.ofOps x))
  | 48 => some (.srai h (FI.ofOps x))
  | 49 => some (.rotli h (FI.ofOps x))
  | 50 => some (.mini h (FI.ofOps x))
  | 51 => some (.maxi h (FI.ofOps x))
  | 52 => some (.minni h (FI.ofOps x))
  | 53 => some (.maxni h (FI.ofOps x))
  | 56 => some (.seli h (FI.ofOps x))
  | 57 => some (.exti h (FI.ofOps x))
  | 58 => some (.insi h (FI.ofOps x))
  | 59 => some (.leai h (FI.ofOps x))
  | 64 => some (.movi h (FL.ofOps x))
  | 65 => some (.movhi h (FL.ofOps x))
  | 66 => some (.mov h (F3.ofOps x))
  | 72 => some (.cmp h (F4.ofOps x))
  | 73 => some (.cmpi h (FI.ofOps x))
  | 74 => some (.fcmp h (F4.ofOps x))
  | 75 => some (.plog h (F3.ofOps x))
  | 80 => some (.fadd h (F3.ofOps x))
  | 81 => some (.fsub h (F3.ofOps x))
  | 82 => some (.fmul h (F3.ofOps x))
  | 83 => some (.fma h (F4.ofOps x))
  | 84 => some (.fmin h (F3.ofOps x))
  | 85 => some (.fmax h (F3.ofOps x))
  | 86 => some (.fdiv h (F3.ofOps x))
  | 87 => some (.fcvt h (F3.ofOps x))
  | 128 => some (.pbr h (FI.ofOps x))
  | 129 => some (.pbri h (F3.ofOps x))
  | 130 => some (.br h (F3.ofOps x))
  | 131 => some (.call h (F3.ofOps x))
  | 132 => some (.ret h (F3.ofOps x))
  | 136 => some (.loop h (FL.ofOps x))
  | 137 => some (.loopbrk h (F3.ofOps x))
  | 138 => some (.setlc h (FI.ofOps x))
  | 139 => some (.setg h (F3.ofOps x))
  | 140 => some (.getg h (F3.ofOps x))
  | 192 => some (.getsr h (FI.ofOps x))
  | 193 => some (.setsr h (FI.ofOps x))
  | 194 => some (.setfmt h (FL.ofOps x))
  | 195 => some (.setx h (F3.ofOps x))
  | 196 => some (.safept h (F3.ofOps x))
  | 197 => some (.trap h (FI.ofOps x))
  | 198 => some (.rft h (F3.ofOps x))
  | 199 => some (.halt h (F3.ofOps x))
  | 200 => some (.yield h (F3.ofOps x))
  | 201 => some (.time h (F3.ofOps x))
  | _ => none

/-- The operation at an opcode of the V spaces (05 R116). -/
def decodeV (opc : Nat) (h : Head) (x : BitVec 46) : Option Instr :=
  match opc with
  | 1 => some (.vadd h (F4.ofOps x))
  | 2 => some (.vsub h (F4.ofOps x))
  | 3 => some (.vmul h (F4.ofOps x))
  | 4 => some (.vfma h (F4.ofOps x))
  | 5 => some (.vmin h (F4.ofOps x))
  | 6 => some (.vmax h (F4.ofOps x))
  | 7 => some (.vand h (F4.ofOps x))
  | 8 => some (.vor h (F4.ofOps x))
  | 9 => some (.vxor h (F4.ofOps x))
  | 10 => some (.vshl h (F4.ofOps x))
  | 11 => some (.vshr h (F4.ofOps x))
  | 12 => some (.vsra h (F4.ofOps x))
  | 16 => some (.vcmp h (F4.ofOps x))
  | 17 => some (.vsel h (F4.ofOps x))
  | 18 => some (.vmov h (F4.ofOps x))
  | 19 => some (.vbcast h (F4.ofOps x))
  | 20 => some (.viota h (F4.ofOps x))
  | 21 => some (.vcvt h (F4.ofOps x))
  | 22 => some (.vperm h (F4.ofOps x))
  | 23 => some (.vslide h (F4.ofOps x))
  | 24 => some (.vdot4 h (F4.ofOps x))
  | 32 => some (.vexp2 h (F4.ofOps x))
  | 33 => some (.vlog2 h (F4.ofOps x))
  | 34 => some (.vrcp h (F4.ofOps x))
  | 35 => some (.vrsq h (F4.ofOps x))
  | 36 => some (.vdiv h (F4.ofOps x))
  | 37 => some (.vsqrt h (F4.ofOps x))
  | 48 => some (.vred h (F4.ofOps x))
  | 49 => some (.vscan h (F4.ofOps x))
  | 50 => some (.vamax h (F4.ofOps x))
  | 51 => some (.vquant h (F4.ofOps x))
  | 52 => some (.vcmpr h (F4.ofOps x))
  | 53 => some (.vtopk h (F4.ofOps x))
  | 54 => some (.vmergek h (F4.ofOps x))
  | 55 => some (.vdesc h (F4.ofOps x))
  | 56 => some (.vrand h (F4.ofOps x))
  | 64 => some (.vkop h (F4.ofOps x))
  | 66 => some (.vgetl h (F4.ofOps x))
  | 67 => some (.vsetl h (F4.ofOps x))
  | 65 =>
    match (x.extractLsb' 11 4).toNat with
    | 0 => some (.vkmovAny h (F4.ofOps x))
    | 1 => some (.vkmovAll h (F4.ofOps x))
    | 2 => some (.vkmovFroms h (F4.ofOps x))
    | 3 => some (.vkmovTos h (F4.ofOps x))
    | _ => some (.vkmovTov h (F4.ofOps x))
  | _ => none

/-- The operation at an opcode of the M space (05 R120). -/
def decodeM (opc : Nat) (h : Head) (x : BitVec 46) : Option Instr :=
  match opc with
  | 1 => some (.mpset h (FX.ofOps x))
  | 2 => some (.mlds h (FX.ofOps x))
  | 3 => some (.mms h (FX.ofOps x))
  | 4 => some (.mmsp h (FX.ofOps x))
  | 5 => some (.mmv h (FX.ofOps x))
  | 6 => some (.accrd h (FX.ofOps x))
  | 7 => some (.accclr h (FX.ofOps x))
  | 8 => some (.accscl h (FX.ofOps x))
  | 16 => some (.txbind h (FX.ofOps x))
  | 17 => some (.txstep h (FX.ofOps x))
  | 18 => some (.txfin h (FX.ofOps x))
  | 19 => some (.txsave h (FX.ofOps x))
  | 20 => some (.txrest h (FX.ofOps x))
  | 21 => some (.txabort h (FX.ofOps x))
  | _ => none

/-- The operation at an opcode of the L space (05 R118). -/
def decodeL (opc : Nat) (h : Head) (x : BitVec 46) : Option Instr :=
  match opc with
  | 1 => some (.ld h (FM.ofOps x))
  | 2 => some (.ldv h (FM.ofOps x))
  | 3 => some (.ldvs h (FM.ofOps x))
  | 4 => some (.ldx h (FM.ofOps x))
  | 5 => some (.ldg h (FM.ofOps x))
  | 6 => some (.ldgv h (FM.ofOps x))
  | 7 => some (.gath h (F4.ofOps x))
  | 8 => some (.ldw h (FM.ofOps x))
  | 9 => some (.ldc h (FM.ofOps x))
  | 10 => some (.ldt h (FM.ofOps x))
  | 11 => some (.probe h (F4.ofOps x))
  | _ => none

/-- The operation at an opcode of the W space (05 R118). -/
def decodeW (opc : Nat) (h : Head) (x : BitVec 46) : Option Instr :=
  match opc with
  | 1 => some (.st h (FM.ofOps x))
  | 2 => some (.stv h (FM.ofOps x))
  | 3 => some (.stvs h (FM.ofOps x))
  | 4 => some (.stg h (FM.ofOps x))
  | 5 => some (.stgv h (FM.ofOps x))
  | 6 => some (.scat h (F4.ofOps x))
  | 7 => some (.stf h (FM.ofOps x))
  | 8 => some (.sts h (FM.ofOps x))
  | 9 => some (.tage h (FM.ofOps x))
  | _ => none

/-- The operation at an opcode of the C space (05 R121). -/
def decodeC (opc : Nat) (h : Head) (x : BitVec 46) : Option Instr :=
  match opc with
  | 1 => some (.cp h (FC.ofOps x))
  | 2 => some (.cpq h (FC.ofOps x))
  | 3 => some (.wstr h (FC.ofOps x))
  | 4 => some (.lsend h (FC.ofOps x))
  | 5 => some (.pgreq h (FC.ofOps x))
  | 6 => some (.enq h (FC.ofOps x))
  | 7 => some (.frank h (FC.ofOps x))
  | 16 => some (.kvwalk h (FC.ofOps x))
  | 17 => some (.kvappend h (FC.ofOps x))
  | 18 => some (.kvseal h (FC.ofOps x))
  | 19 => some (.kvtrunc h (FC.ofOps x))
  | 20 => some (.bmap h (FC.ofOps x))
  | 24 => some (.strmrd h (FC.ofOps x))
  | 25 => some (.strmcommit h (FC.ofOps x))
  | 26 => some (.strmin h (FC.ofOps x))
  | _ => none

/-- The operation at an opcode of the Y space (05 R122). -/
def decodeY (opc : Nat) (h : Head) (x : BitVec 46) : Option Instr :=
  match opc with
  | 1 => some (.fwait h (FC.ofOps x))
  | 2 => some (.fpost h (FC.ofOps x))
  | 3 => some (.aarm h (FC.ofOps x))
  | 4 => some (.await h (FC.ofOps x))
  | 5 => some (.barr h (FM.ofOps x))
  | 6 => some (.bwait h (FM.ofOps x))
  | 7 => some (.hbar h (F3.ofOps x))
  | 8 => some (.fence h (FM.ofOps x))
  | 9 => some (.fencex h (FC.ofOps x))
  | 10 => some (.park h (FM.ofOps x))
  | 11 => some (.wake h (FM.ofOps x))
  | 12 => some (.qeos h (F3.ofOps x))
  | 13 => some (.qdrain h (F3.ofOps x))
  | 32 => some (.amo h (FM.ofOps x))
  | 33 => some (.cas h (FM.ofOps x))
  | _ => none

/-- 05 R112: OPC is decoded in the opcode space of the slot that holds the word. -/
def decodeOp (cls : SlotCls) (opc : Nat) (h : Head) (x : BitVec 46) : Option Instr :=
  match cls with
  | .s => decodeS opc h x
  | .v => decodeV opc h x
  | .m => decodeM opc h x
  | .l => decodeL opc h x
  | .w => decodeW opc h x
  | .c => decodeC opc h x
  | .y => decodeY opc h x

/-- An unused field must be 0: reason 3 (04 R95, 05 R124). -/
def zero {n : Nat} (x : BitVec n) : List Nat := if x == 0 then [] else [3]
/-- A field whose values above `m` are reserved: reason 3 (05 R124). -/
def upTo (x m : Nat) : List Nat := if x ≤ m then [] else [3]
/-- A register number of `k` bits in a 6-bit field: reason 4 (04 R96, 05 R124). -/
def high (x : BitVec 6) (k : Nat) : List Nat := if x.toNat < 2 ^ k then [] else [4]
/-- A type code the operation accepts: reason 4 (04 R98). -/
def types (l : List Nat) (t : BitVec 4) : List Nat := if l.contains t.toNat then [] else [4]
def ints : List Nat := [0, 1, 2, 3, 4, 5, 6, 7]
def sInts : List Nat := [0, 1, 2, 3]
def uInts : List Nat := [4, 5, 6, 7]
def intsI4 : List Nat := [0, 1, 2, 3, 4, 5, 6, 7, 14]
def flts : List Nat := [8, 9, 10]
def arith10 : List Nat := [0, 1, 2, 3, 4, 5, 6, 7, 8, 9, 10]
def arith : List Nat := [0, 1, 2, 3, 4, 5, 6, 7, 8, 9, 10, 14]
def types0to13 : List Nat := [0, 1, 2, 3, 4, 5, 6, 7, 8, 9, 10, 11, 12, 13]
def allTypes : List Nat := [0, 1, 2, 3, 4, 5, 6, 7, 8, 9, 10, 11, 12, 13, 14]
def tyFloatCode (t : BitVec 4) : Bool := 8 ≤ t.toNat && t.toNat ≤ 13
/-- 03 R65: the width of a type code. -/
def typeWidth (t : BitVec 4) : Nat :=
  match t.toNat with
  | 0 => 8 | 1 => 16 | 2 => 32 | 3 => 64 | 4 => 8 | 5 => 16 | 6 => 32 | 7 => 64
  | 8 => 32 | 9 => 16 | 10 => 16 | 11 => 8 | 12 => 8 | 13 => 8 | 14 => 4 | _ => 16
/-- 04 R96: a vector source field; 40 to 63 are reserved. -/
def vecSrc (x : BitVec 6) : List Nat := if x.toNat < 40 then [] else [4]
/-- 04 R96: a vector destination field; 36 to 63 are reserved. -/
def vecDst (x : BitVec 6) : List Nat := if x.toNat < 36 then [] else [4]
/-- A vector field that takes no queue: reason 5 for a queue specifier, 4 for a reserved value (05 R120, R124). -/
def vecReg (x : BitVec 6) : List Nat :=
  if x.toNat < 32 then [] else if x.toNat < 40 then [5] else [4]
/-- A vector destination field that takes no queue: a destination value of 36 to 63 is reason 4 (05 R124, 04 R107). -/
def vecRegDst (x : BitVec 6) : List Nat :=
  if x.toNat < 32 then [] else if x.toNat < 36 then [5] else [4]
/-- 07 R156: a register pair. -/
def pair (x : BitVec 6) : List Nat :=
  if 32 ≤ x.toNat && x.toNat < 40 then [5] else if x.toNat % 2 == 0 && x.toNat < 32 then [] else [4]
/-- 07 R156: a destination pair; 36 to 63 are reserved values of a destination (05 R124). -/
def pairDst (x : BitVec 6) : List Nat := if 36 ≤ x.toNat then [4] else pair x
/-- 09 R243: an even register that is not a queue, all of it reason 4. -/
def evenReg (x : BitVec 6) : List Nat := if x.toNat % 2 == 0 && x.toNat < 32 then [] else [4]
/-- 05 R123, 08 R180: a data register that has a successor. -/
def not63 (x : BitVec 6) : List Nat := if x == 63 then [4] else []
/-- 05 R117: the rounding field is read when `c` holds and must be 0 otherwise. -/
def roundIf (c : Bool) (r : BitVec 2) : List Nat := if c || r == 0 then [] else [3]
/-- 05 R116: VSQRT, VTOPK, VMERGEK, VDESC and VRAND stand in V0 only. -/
def v0Only (h : Head) : List Nat := if h.slot == 2 then [2] else []
/-- 08 R179: the base kind an operation takes. -/
def baseKind (k : BitVec 1) (f : FM) : List Nat := if f.kind == k then [] else [3]
/-- 04 R97: with kind 1 the base field names g0 to g7. -/
def kindHigh (f : FM) : List Nat := if f.kind == 1 && decide (8 ≤ f.base.toNat) then [4] else []
/-- 05 R118, R122, 08 R180: the spaces an operation takes. -/
def spaces (l : List Nat) (f : FM) : List Nat := if l.contains f.space.toNat then [] else [3]
/-- 08 R180: the data field of TAGE and FENCE, whose row allows 0 only: 5 for a queue specifier, 4 for another value. -/
def noData (x : BitVec 6) : List Nat := if x == 0 then [] else if 32 ≤ x.toNat && x.toNat < 40 then [5] else [4]
/-- 05 R119: the legal combinations of order and scope. -/
def order (l : List Nat) (f : FM) : List Nat :=
  if 12 ≤ f.scope.toNat then [6]
  else if l.contains f.order.toNat && !(f.order == 0 && f.scope != 0) then [] else [3]
/-- 05 R119: LDX has no order, and its scope field is 0. -/
def ldxScope (f : FM) : List Nat := if 12 ≤ f.scope.toNat then [6] else zero f.scope
/-- 05 R124: the scope code in the tag field of FWAIT, FPOST, AWAIT and FENCEX. -/
def tagScope (f : FC) : List Nat := if 12 ≤ f.tag.toNat then [6] else []
/-- 08 R193: the KIND of PARK and WAKE. -/
def parkKind (f : FM) : List Nat := upTo (f.offs.extractLsb' 17 4).toNat 2 ++ zero (f.offs.extractLsb' 16 1)
/-- 08 R196: the types of an AMO sub-operation. -/
def aopTypes (aop : Nat) : List Nat :=
  match aop with
  | 4 => [2, 3] | 5 => [2, 3] | 6 => [6, 7] | 7 => [6, 7] | 8 => [2, 3, 6, 7, 8]
  | 9 => [8] | 10 => [8] | 11 => [8] | _ => [2, 3, 6, 7]
/-- 05 R123: the subfields of AMO. -/
def amoDefects (f : FM) : List Nat :=
  let aop := (f.offs.extractLsb' 17 4).toNat
  if aop ≤ 11 then types (aopTypes aop) f.ty else [3]
/-- 09 R230: the completion field; kinds 2 and 3 belong to the copy family, and the target is read by kind 1. -/
def completion (copy : Bool) (f : FC) : List Nat :=
  let k := (f.sub.extractLsb' 6 2).toNat
  (if k ≤ 1 || copy then [] else [3]) ++ (if k == 1 then [] else zero f.tgt)
/-- 09 R235, R238: the postmark tag is read with TAGW. PERBYTE without TAGW is accepted and has no effect: the spec does
not say that it is illegal (log entry 24). -/
def postTag (f : FC) : List Nat := if f.sub.getLsbD 5 then [] else zero f.path
/-- 07 R162: the part number and rounding field of VCVT. A conversion between equal types returns its operand: it does
not round, so that the field is 0 (03 R67, 05 R117). -/
def cvtDefects (f : F4) : List Nat :=
  if f.ty == 15 || f.sub == 15 then [4]
  else
    let ws := typeWidth f.sub
    let wd := typeWidth f.ty
    let r := max ws wd / min ws wd
    (if f.b.toNat < r then [] else [3]) ++
    roundIf (!((!tyFloatCode f.ty && !tyFloatCode f.sub) || f.ty == f.sub ||
      (tyFloatCode f.ty && tyFloatCode f.sub && decide (ws < wd)))) f.rnd
/-- 07 R168: the part number of VQUANT. Type code 15 has no width, so that no part is out of its range (log entry 24). -/
def quantPart (f : F4) : List Nat := if f.ty == 15 || decide (f.sub.toNat * typeWidth f.ty < 32) then [] else [3]
/-- 02 R52: the numbers of the system registers. -/
def sysListed (n : Nat) : Bool :=
  n ≤ 9 || (0x40 ≤ n && n ≤ 0x46) || (0x48 ≤ n && n ≤ 0x4D) || (0x50 ≤ n && n ≤ 0x55) ||
  (0x80 ≤ n && n ≤ 0x85) || (0xC0 ≤ n && n ≤ 0xC3)
/-- 06 R146: the register number of GETSR and SETSR. -/
def sysNumber (imm : BitVec 34) : List Nat := if sysListed imm.toNat then [] else [3]

/-- The illegal field values of an operation, as reasons of 05 R124; where a field can be read under two of them, as log
entry 24 says. -/
def fieldDefects (i : Instr) : List Nat :=
  match i with
  | .nop => []
  | .add _ f => types ints f.ty ++ zero f.sub
  | .sub _ f => types ints f.ty ++ zero f.sub
  | .mul _ f => types ints f.ty ++ zero f.sub
  | .mulh _ f => types [3] f.ty ++ zero f.sub
  | .mulhn _ f => types [7] f.ty ++ zero f.sub
  | .div _ f => types sInts f.ty ++ zero f.sub
  | .divn _ f => types uInts f.ty ++ zero f.sub
  | .rem _ f => types sInts f.ty ++ zero f.sub
  | .remn _ f => types uInts f.ty ++ zero f.sub
  | .and _ f => types ints f.ty ++ zero f.sub
  | .or _ f => types ints f.ty ++ zero f.sub
  | .xor _ f => types ints f.ty ++ zero f.sub
  | .andn _ f => types ints f.ty ++ zero f.sub
  | .shl _ f => types ints f.ty ++ zero f.sub
  | .shr _ f => types ints f.ty ++ zero f.sub
  | .sra _ f => types ints f.ty ++ zero f.sub
  | .rotl _ f => types ints f.ty ++ zero f.sub
  | .min _ f => types sInts f.ty ++ zero f.sub
  | .max _ f => types sInts f.ty ++ zero f.sub
  | .minn _ f => types uInts f.ty ++ zero f.sub
  | .maxn _ f => types uInts f.ty ++ zero f.sub
  | .clz _ f => zero f.b ++ types ints f.ty ++ zero f.sub
  | .popc _ f => zero f.b ++ types ints f.ty ++ zero f.sub
  | .sel _ f => types ints f.ty
  | .ext _ f => types [3, 7] f.ty ++ zero f.sub
  | .ins _ f => zero f.ty ++ zero f.sub
  | .lea _ f => zero f.ty
  | .addi _ _ => []
  | .subi _ _ => []
  | .muli _ _ => []
  | .mulhi _ _ => []
  | .mulhni _ _ => []
  | .divi _ _ => []
  | .divni _ _ => []
  | .remi _ _ => []
  | .remni _ _ => []
  | .andi _ _ => []
  | .ori _ _ => []
  | .xori _ _ => []
  | .andni _ _ => []
  | .shli _ f => zero (f.imm.extractLsb' 6 28)
  | .shri _ f => zero (f.imm.extractLsb' 6 28)
  | .srai _ f => zero (f.imm.extractLsb' 6 28)
  | .rotli _ f => zero (f.imm.extractLsb' 6 28)
  | .mini _ _ => []
  | .maxi _ _ => []
  | .minni _ _ => []
  | .maxni _ _ => []
  | .seli _ _ => []
  | .exti _ f => zero (f.imm.extractLsb' 13 21)
  | .insi _ f => zero (f.imm.extractLsb' 12 22)
  | .leai _ _ => []
  | .movi _ _ => []
  | .movhi _ f => zero (f.imm.extractLsb' 24 16)
  | .mov _ f => zero f.b ++ zero f.ty ++ zero f.sub
  | .cmp _ f => high f.d 4 ++ high f.c 4 ++ types ints f.ty ++ upTo f.sub.toNat 6 ++ zero f.k ++ zero f.rnd
  | .cmpi _ f => high f.d 4 ++ upTo (f.imm.extractLsb' 27 3).toNat 6
  | .fcmp _ f => high f.d 4 ++ high f.c 4 ++ types [8, 9, 10, 11, 12, 13] f.ty ++ upTo f.sub.toNat 6 ++ zero f.k ++ zero f.rnd
  | .plog _ f => high f.d 4 ++ high f.a 4 ++ high f.b 4 ++ zero f.ty
  | .fadd _ f => types flts f.ty ++ zero f.sub
  | .fsub _ f => types flts f.ty ++ zero f.sub
  | .fmul _ f => types flts f.ty ++ zero f.sub
  | .fma _ f => types flts f.ty ++ zero f.sub ++ zero f.k ++ zero f.rnd
  | .fmin _ f => types flts f.ty ++ zero f.sub
  | .fmax _ f => types flts f.ty ++ zero f.sub
  | .fdiv _ f => types flts f.ty ++ zero f.sub
  | .fcvt _ f => zero f.b ++ (if f.ty == 15 || f.sub == 15 || (!tyFloatCode f.ty && !tyFloatCode f.sub) then [4] else [])
  | .pbr _ f => high f.d 2 ++ zero f.a
  | .pbri _ f => high f.d 2 ++ zero f.b ++ zero f.ty ++ zero f.sub
  | .br _ f => zero f.d ++ high f.a 2 ++ zero f.b ++ zero f.ty ++ zero f.sub
  | .call _ f => zero f.d ++ high f.a 2 ++ zero f.b ++ zero f.ty ++ zero f.sub
  | .ret _ f => zero f.d ++ zero f.a ++ zero f.b ++ zero f.ty ++ zero f.sub
  | .loop _ f => zero f.d ++ zero (f.imm.extractLsb' 10 30) ++ upTo (f.imm.extractLsb' 6 3).toNat 5
  | .loopbrk _ f => zero f.d ++ zero f.a ++ zero f.b ++ zero f.ty ++ zero f.sub
  | .setlc _ f => upTo f.d.toNat 5
  | .setg _ f => high f.d 3 ++ zero f.b ++ zero f.ty ++ upTo f.sub.toNat 6
  | .getg _ f => high f.a 3 ++ zero f.b ++ zero f.ty ++ upTo f.sub.toNat 6
  | .getsr _ f => zero f.a ++ sysNumber f.imm
  | .setsr _ f => zero f.d ++ sysNumber f.imm
  | .setfmt _ f => zero f.d
  | .setx _ f => high f.d 2 ++ zero f.ty ++ zero f.sub
  | .safept _ f => zero f.d ++ zero f.a ++ zero f.b ++ zero f.ty ++ zero f.sub
  | .trap _ f => zero f.d ++ zero f.a
  | .rft _ f => zero f.d ++ zero f.a ++ zero f.b ++ zero f.ty ++ zero f.sub
  | .halt _ f => zero f.d ++ zero f.a ++ zero f.b ++ zero f.ty ++ zero f.sub
  | .yield _ f => zero f.d ++ zero f.a ++ zero f.b ++ zero f.ty ++ zero f.sub
  | .time _ f => zero f.a ++ zero f.b ++ zero f.ty ++ zero f.sub
  | .vadd _ f => vecDst f.d ++ vecSrc f.a ++ vecSrc f.b ++ zero f.c ++ types arith f.ty ++ zero f.sub ++ roundIf (flts.contains f.ty.toNat) f.rnd
  | .vsub _ f => vecDst f.d ++ vecSrc f.a ++ vecSrc f.b ++ zero f.c ++ types arith f.ty ++ zero f.sub ++ roundIf (flts.contains f.ty.toNat) f.rnd
  | .vmul _ f => vecDst f.d ++ vecSrc f.a ++ vecSrc f.b ++ zero f.c ++ types arith f.ty ++ zero f.sub ++ roundIf (flts.contains f.ty.toNat) f.rnd
  | .vfma _ f => vecDst f.d ++ vecSrc f.a ++ vecSrc f.b ++ vecSrc f.c ++ types arith10 f.ty ++ zero f.sub ++ roundIf (flts.contains f.ty.toNat) f.rnd
  | .vmin _ f => vecDst f.d ++ vecSrc f.a ++ vecSrc f.b ++ zero f.c ++ types arith f.ty ++ zero f.sub ++ zero f.rnd
  | .vmax _ f => vecDst f.d ++ vecSrc f.a ++ vecSrc f.b ++ zero f.c ++ types arith f.ty ++ zero f.sub ++ zero f.rnd
  | .vand _ f => vecDst f.d ++ vecSrc f.a ++ vecSrc f.b ++ zero f.c ++ types allTypes f.ty ++ zero f.sub ++ zero f.rnd
  | .vor _ f => vecDst f.d ++ vecSrc f.a ++ vecSrc f.b ++ zero f.c ++ types allTypes f.ty ++ zero f.sub ++ zero f.rnd
  | .vxor _ f => vecDst f.d ++ vecSrc f.a ++ vecSrc f.b ++ zero f.c ++ types allTypes f.ty ++ zero f.sub ++ zero f.rnd
  | .vshl _ f => vecDst f.d ++ vecSrc f.a ++ vecSrc f.b ++ zero f.c ++ types intsI4 f.ty ++ zero f.sub ++ zero f.rnd
  | .vshr _ f => vecDst f.d ++ vecSrc f.a ++ vecSrc f.b ++ zero f.c ++ types intsI4 f.ty ++ zero f.sub ++ zero f.rnd
  | .vsra _ f => vecDst f.d ++ vecSrc f.a ++ vecSrc f.b ++ zero f.c ++ types intsI4 f.ty ++ zero f.sub ++ zero f.rnd
  | .vcmp _ f => vecDst f.d ++ vecSrc f.a ++ vecSrc f.b ++ zero f.c ++ types arith f.ty ++ upTo f.sub.toNat 6 ++ zero f.rnd
  | .vsel _ f => vecDst f.d ++ vecSrc f.a ++ vecSrc f.b ++ vecSrc f.c ++ types allTypes f.ty ++ zero f.sub ++ zero f.rnd
  | .vmov _ f => vecDst f.d ++ vecSrc f.a ++ zero f.b ++ zero f.c ++ types allTypes f.ty ++ zero f.sub ++ zero f.rnd
  | .vbcast _ f => vecDst f.d ++ zero f.b ++ zero f.c ++ types allTypes f.ty ++ zero f.sub ++ zero f.rnd
  | .viota _ f => vecDst f.d ++ zero f.c ++ types intsI4 f.ty ++ zero f.sub ++ zero f.rnd
  | .vcvt _ f => vecDst f.d ++ vecSrc f.a ++ zero f.c ++ cvtDefects f
  | .vperm _ f => vecDst f.d ++ vecSrc f.a ++ vecSrc f.b ++ zero f.c ++ types types0to13 f.ty ++ zero f.sub ++ zero f.rnd
  | .vslide _ f => vecDst f.d ++ vecSrc f.a ++ vecSrc f.b ++ types allTypes f.ty ++ zero f.sub ++ zero f.rnd
  | .vdot4 _ f => vecDst f.d ++ vecSrc f.a ++ vecSrc f.b ++ vecSrc f.c ++ types [0, 4, 11, 12, 13] f.ty ++ zero f.sub ++ roundIf ([11, 12, 13].contains f.ty.toNat) f.rnd
  | .vexp2 _ f => vecDst f.d ++ vecSrc f.a ++ zero f.b ++ zero f.c ++ types flts f.ty ++ zero f.sub
  | .vlog2 _ f => vecDst f.d ++ vecSrc f.a ++ zero f.b ++ zero f.c ++ types flts f.ty ++ zero f.sub
  | .vrcp _ f => vecDst f.d ++ vecSrc f.a ++ zero f.b ++ zero f.c ++ types flts f.ty ++ zero f.sub
  | .vrsq _ f => vecDst f.d ++ vecSrc f.a ++ zero f.b ++ zero f.c ++ types flts f.ty ++ zero f.sub
  | .vdiv _ f => vecDst f.d ++ vecSrc f.a ++ vecSrc f.b ++ zero f.c ++ types flts f.ty ++ zero f.sub
  | .vsqrt h f => v0Only h ++ vecDst f.d ++ vecSrc f.a ++ zero f.b ++ zero f.c ++ types flts f.ty ++ zero f.sub
  | .vred _ f => vecDst f.d ++ vecSrc f.a ++ zero f.b ++ zero f.c ++ types arith f.ty ++ upTo f.sub.toNat 5 ++ roundIf (flts.contains f.ty.toNat && f.sub == 0) f.rnd ++ (if flts.contains f.ty.toNat && decide (3 ≤ f.sub.toNat) then [3] else [])
  | .vscan _ f => vecDst f.d ++ vecSrc f.a ++ zero f.c ++ types [2, 3, 6, 7, 8] f.ty ++ upTo f.sub.toNat 2 ++ roundIf (f.ty == 8 && f.sub == 0) f.rnd
  | .vamax _ f => vecDst f.d ++ vecSrc f.a ++ zero f.b ++ zero f.c ++ types [8, 9, 10, 11, 12, 13] f.ty ++ zero f.sub ++ zero f.rnd
  | .vquant _ f => vecDst f.d ++ vecSrc f.a ++ zero f.c ++ types [0, 4, 9, 10, 11, 12, 13, 14] f.ty ++ quantPart f
  | .vcmpr _ f => vecDst f.d ++ vecSrc f.a ++ zero f.b ++ zero f.c ++ types [0, 4, 9, 10, 11, 12, 13] f.ty ++ zero f.k ++ zero f.sub ++ zero f.rnd
  | .vtopk h f => v0Only h ++ pairDst f.d ++ vecSrc f.a ++ types [2, 6, 8, 9, 10] f.ty ++ zero f.sub ++ zero f.rnd
  | .vmergek h f => v0Only h ++ pairDst f.d ++ pair f.a ++ pair f.b ++ types [2, 6, 8] f.ty ++ zero f.k ++ zero f.sub ++ zero f.rnd
  | .vdesc h f => v0Only h ++ vecDst f.d ++ vecSrc f.a ++ vecSrc f.b ++ zero f.c ++ types [8] f.ty ++ zero f.k ++ upTo f.sub.toNat 1 ++ zero f.rnd
  | .vrand h f => v0Only h ++ vecDst f.d ++ zero f.c ++ types [7] f.ty ++ zero f.sub ++ zero f.rnd
  | .vkop _ f => high f.d 3 ++ high f.a 3 ++ high f.b 3 ++ zero f.c ++ types [0] f.ty ++ zero f.k ++ zero f.rnd
  | .vkmovAny _ f => high f.d 3 ++ vecSrc f.a ++ zero f.b ++ zero f.c ++ types [0] f.ty ++ zero f.k ++ (if f.sub == 0 then [] else [3]) ++ zero f.rnd
  | .vkmovAll _ f => high f.d 3 ++ vecSrc f.a ++ zero f.b ++ zero f.c ++ types [0] f.ty ++ zero f.k ++ (if f.sub == 1 then [] else [3]) ++ zero f.rnd
  | .vkmovFroms _ f => high f.d 3 ++ zero f.b ++ zero f.c ++ types [0] f.ty ++ zero f.k ++ (if f.sub == 2 then [] else [3]) ++ zero f.rnd
  | .vkmovTos _ f => high f.a 3 ++ zero f.b ++ zero f.c ++ types [0] f.ty ++ zero f.k ++ (if f.sub == 3 then [] else [3]) ++ zero f.rnd
  | .vkmovTov _ f => vecDst f.d ++ high f.a 3 ++ zero f.b ++ zero f.c ++ types [0] f.ty ++ zero f.k ++ (if f.sub == 4 then [] else [3]) ++ zero f.rnd
  | .vgetl _ f => vecSrc f.a ++ zero f.c ++ types allTypes f.ty ++ zero f.k ++ zero f.sub ++ zero f.rnd
  | .vsetl _ f => vecRegDst f.d ++ zero f.c ++ types allTypes f.ty ++ zero f.k ++ zero f.sub ++ zero f.rnd
  | .ld _ f => baseKind 0 f ++ types types0to13 f.ty ++ order [0, 1] f
  | .ldv _ f => vecDst f.data ++ baseKind 0 f ++ types allTypes f.ty ++ order [0, 1] f
  | .ldvs _ f => vecDst f.data ++ baseKind 0 f ++ types types0to13 f.ty ++ order [0, 1] f
  | .ldx _ f => vecRegDst f.data ++ kindHigh f ++ spaces [0, 1] f ++ types intsI4 f.ty ++ ldxScope f
  | .ldg _ f => baseKind 1 f ++ kindHigh f ++ types types0to13 f.ty ++ order [0, 1] f
  | .ldgv _ f => vecDst f.data ++ baseKind 1 f ++ kindHigh f ++ types allTypes f.ty ++ order [0, 1] f
  | .gath _ f => vecRegDst f.d ++ vecSrc f.a ++ zero f.c ++ types [2, 6, 8] f.ty ++ zero f.sub ++ zero f.rnd
  | .ldw _ f => kindHigh f ++ spaces [2] f ++ types [3, 7] f.ty ++ order [0, 1] f
  | .ldc _ f => kindHigh f ++ spaces [2] f ++ types [3, 7] f.ty ++ order [0, 1] f
  | .ldt _ f => not63 f.data ++ kindHigh f ++ spaces [2] f ++ types [3, 7] f.ty ++ order [0, 1] f
  | .probe _ f => zero f.d ++ vecSrc f.a ++ zero f.c ++ types [2, 6, 8] f.ty ++ zero f.sub ++ zero f.rnd
  | .st _ f => baseKind 0 f ++ types types0to13 f.ty ++ order [0, 2] f
  | .stv _ f => vecSrc f.data ++ baseKind 0 f ++ types allTypes f.ty ++ order [0, 2] f
  | .stvs _ f => vecSrc f.data ++ baseKind 0 f ++ types types0to13 f.ty ++ order [0, 2] f
  | .stg _ f => baseKind 1 f ++ kindHigh f ++ types types0to13 f.ty ++ order [0, 2] f
  | .stgv _ f => vecSrc f.data ++ baseKind 1 f ++ kindHigh f ++ types allTypes f.ty ++ order [0, 2] f
  | .scat _ f => vecReg f.d ++ vecSrc f.a ++ zero f.c ++ types [2, 6, 8] f.ty ++ zero f.sub ++ zero f.rnd
  | .stf _ f => kindHigh f ++ spaces [2] f ++ types [3, 7] f.ty ++ order [0, 2] f
  | .sts _ f => kindHigh f ++ spaces [2] f ++ types [3, 7] f.ty ++ order [0, 2] f
  | .tage _ f => noData f.data ++ kindHigh f ++ spaces [2] f ++ types [0] f.ty ++ order [0, 2] f
  | .mpset _ f => zero f.vec ++ zero f.imm
  | .mlds _ f => zero f.vec ++ zero f.cnt ++ zero (f.imm.extractLsb' 1 30)
  | .mms _ f => vecRegDst f.vec ++ (if f.vec.toNat < 32 && decide (31 < f.vec.toNat + f.cnt.toNat) then [4] else []) ++ zero (f.imm.extractLsb' 1 30)
  | .mmsp _ f => vecRegDst f.vec ++ (if f.vec.toNat < 32 && decide (31 < f.vec.toNat + f.cnt.toNat) then [4] else []) ++ zero (f.imm.extractLsb' 1 30)
  | .mmv _ f => zero f.vec ++ zero f.cnt ++ zero (f.imm.extractLsb' 7 24)
  | .accrd _ f => zero f.mp ++ vecRegDst f.vec ++ zero (f.imm.extractLsb' 5 26)
  | .accclr _ f => zero f.mp ++ zero f.vec ++ zero f.cnt ++ zero f.imm
  | .accscl _ f => zero f.mp ++ zero f.vec ++ zero f.imm
  | .txbind _ f => zero f.mp ++ vecReg f.vec ++ zero f.cnt ++ zero f.imm
  | .txstep _ f => zero f.mp ++ zero f.vec ++ zero f.imm
  | .txfin _ f => zero f.mp ++ zero f.vec ++ zero (f.imm.extractLsb' 1 30)
  | .txsave _ f => zero f.mp ++ zero f.vec ++ zero (f.imm.extractLsb' 1 30)
  | .txrest _ f => zero f.mp ++ zero f.vec ++ zero (f.imm.extractLsb' 1 30)
  | .txabort _ f => zero f.mp ++ zero f.vec ++ zero f.cnt ++ zero (f.imm.extractLsb' 1 30)
  | .cp _ f => vecReg f.desc ++ zero f.a ++ zero f.b ++ upTo f.eng.toNat 2 ++ upTo f.tag.toNat 4 ++ postTag f ++ zero (f.sub.extractLsb' 0 4) ++ completion true f
  | .cpq _ f => vecReg f.desc ++ zero f.a ++ zero f.b ++ upTo f.eng.toNat 1 ++ upTo f.tag.toNat 3 ++ zero f.path ++ zero (f.sub.extractLsb' 0 6) ++ completion true f
  | .wstr _ f => vecReg f.desc ++ zero f.a ++ zero f.b ++ zero f.eng ++ upTo f.tag.toNat 3 ++ zero f.path ++ zero (f.sub.extractLsb' 0 6) ++ completion true f
  | .lsend _ f => vecReg f.desc ++ zero f.a ++ zero f.b ++ upTo f.eng.toNat 1 ++ zero f.tag ++ postTag f ++ zero (f.sub.extractLsb' 0 4) ++ completion true f
  | .pgreq _ f => vecReg f.desc ++ zero f.eng ++ zero f.tag ++ zero f.path ++ zero (f.sub.extractLsb' 2 4) ++ (if f.sub.getLsbD 1 && (f.desc != 0 || f.sub.getLsbD 0) then [3] else []) ++ completion false f
  | .enq _ f => vecReg f.desc ++ zero f.b ++ zero f.eng ++ zero f.tag ++ zero f.path ++ zero (f.sub.extractLsb' 0 6) ++ completion false f
  | .frank _ f => vecReg f.desc ++ zero f.b ++ zero f.eng ++ zero f.tag ++ zero f.path ++ zero (f.sub.extractLsb' 0 6) ++ completion false f
  | .kvwalk _ f => vecReg f.desc ++ zero f.eng ++ (if f.tag == 0 || decide (3 < f.tag.toNat) then [3] else []) ++ zero f.path ++ zero (f.sub.extractLsb' 0 6) ++ completion false f
  | .kvappend _ f => evenReg f.desc ++ zero f.eng ++ zero f.tag ++ zero f.path ++ zero (f.sub.extractLsb' 0 6) ++ completion false f
  | .kvseal _ f => zero f.desc ++ zero f.eng ++ upTo f.tag.toNat 1 ++ zero f.path ++ zero (f.sub.extractLsb' 0 6) ++ completion false f
  | .kvtrunc _ f => vecReg f.desc ++ zero f.eng ++ zero f.tag ++ zero f.path ++ zero (f.sub.extractLsb' 0 6) ++ completion false f
  | .bmap _ f => vecReg f.desc ++ zero f.eng ++ zero f.tag ++ zero f.path ++ zero (f.sub.extractLsb' 0 6) ++ completion false f
  | .strmrd _ f => zero f.desc ++ zero f.tgt ++ zero f.eng ++ zero f.tag ++ zero f.path ++ zero f.sub
  | .strmcommit _ f => vecReg f.desc ++ zero f.tgt ++ zero f.eng ++ zero f.tag ++ zero (f.path.extractLsb' 4 4) ++ zero f.sub
  | .strmin _ f => zero f.desc ++ zero f.tgt ++ zero f.eng ++ zero f.tag ++ zero (f.path.extractLsb' 4 4) ++ zero f.sub
  | .fwait _ f => zero f.desc ++ zero f.b ++ zero f.eng ++ tagScope f ++ upTo f.sub.toNat 1
  | .fpost _ f => zero f.desc ++ zero f.b ++ zero f.eng ++ tagScope f ++ zero f.path ++ zero f.sub
  | .aarm _ f => zero f.desc ++ zero f.tgt ++ zero f.eng ++ zero f.tag ++ zero f.path ++ upTo f.sub.toNat 1
  | .await _ f => zero f.desc ++ zero f.tgt ++ zero f.eng ++ tagScope f ++ zero f.sub
  | .barr _ f => kindHigh f ++ spaces [0, 1, 2] f ++ types [7] f.ty ++ order [2] f
  | .bwait _ f => kindHigh f ++ spaces [0, 1, 2] f ++ types [7] f.ty ++ order [1] f
  | .hbar _ f => zero f.d ++ zero f.b ++ zero f.ty ++ zero f.sub
  | .fence _ f => noData f.data ++ zero f.base ++ zero f.kind ++ zero f.space ++ types [0] f.ty ++ zero f.offs ++ order [1, 2, 3] f
  | .fencex _ f => zero f.desc ++ zero f.a ++ zero f.b ++ zero f.tgt ++ zero f.eng ++ tagScope f ++ (if f.path == 0 then [3] else []) ++ zero f.sub
  | .park _ f => kindHigh f ++ spaces [2] f ++ types [7] f.ty ++ order [1] f ++ parkKind f
  | .wake _ f => kindHigh f ++ spaces [2] f ++ types [7] f.ty ++ order [2] f ++ parkKind f
  | .qeos _ f => zero f.d ++ zero (f.a.extractLsb' 2 4) ++ zero f.b ++ zero f.ty ++ zero f.sub
  | .qdrain _ f => zero f.d ++ zero (f.a.extractLsb' 2 4) ++ zero f.b ++ zero f.ty ++ zero f.sub
  | .amo _ f => kindHigh f ++ spaces [0, 1, 2] f ++ order [0, 1, 2, 3] f ++ amoDefects f
  | .cas _ f => not63 f.data ++ kindHigh f ++ spaces [0, 1, 2] f ++ types [2, 3, 6, 7] f.ty ++ order [0, 1, 2, 3] f ++ zero (f.offs.extractLsb' 16 5)
  | .bundleIssue _ => []
  | .yieldQuantum _ => []
  | .contextStart _ => []
  | .contextLeave _ => []
  | .slotTableRound _ => []
  | .slotTurn _ => []
  | .scoreboardArrival _ => []
  | .attributedTrap _ => []
  | .feRetry _ => []
  | .reservationExpiry _ _ _ => []
  | .arrivalWordUpdate _ => []
  | .arrayOpExecute _ => []
  | .chainBlockCommit _ => []
  | .engineCommandStart _ => []
  | .engineCommandComplete _ => []
  | .linkPacketArrive _ _ _ _ => []
  | .deviceMemoryRequest _ => []
  | .tlbLeaseExpiry _ _ _ => []
  | .migrationComplete _ _ _ => []
  | .faultwaitExpiry _ => []
  | .contextSave _ => []
  | .preemptTimeout _ => []
  | .contextRestore _ => []
  | .postmasterFrame _ => []
  | .idleSlot _ => []
  | .doorbellSlot _ => []
  | .mtuFaultSlot _ => []
  | .retirementSlot _ => []
  | .frankingSlot _ => []
  | .telemetrySlot _ => []
  | .mailboxSlot _ => []
  | .dispatchStep _ => []
  | .streamCharge _ => []
  | .doorbellWrite _ _ _ _ => []
  | .queueEnable _ _ _ => []
  | .queueDestroy _ _ _ => []
  | .queueKill _ _ _ => []
  | .queueDrainComplete _ _ => []
  | .tenancyTableWrite _ _ _ _ => []
  | .queueAssignmentWrite _ _ _ _ => []
  | .asidOwnerWrite _ _ _ _ => []
  | .funcerrClear _ _ => []
  | .registerWrite _ _ _ => []
  | .bar2Access _ _ _ _ => []
  | .launch _ _ _ => []
  | .copy _ _ _ => []
  | .signal _ _ _ => []
  | .hold _ _ _ => []
  | .arm _ _ _ => []
  | .tagfill _ _ _ => []
  | .map _ _ _ => []
  | .unmap _ _ _ => []
  | .queueCommandComplete _ _ => []
  | .postmarkIncrement _ _ _ _ => []
  | .frankEnqueue _ => []
  | .functionReset _ => []
  | .correctableErrorFreeze _ => []
  | .freezeEnd _ => []
  | .uncorrectableOnchipError _ => []
  | .thermalShutdown _ => []
  | .packetHop _ => []
  | .linkDown _ _ => []
  | .routeHoldExpiry _ => []
  | .lease _ _ _ => []
  | .hwin _ _ _ => []
  | .tagpool _ _ _ => []
  | .split _ _ _ => []
  | .splitQuiesceEnd _ _ => []
  | .faultring _ _ _ => []
  | .faultwait _ _ _ => []
  | .migrate _ _ _ => []
  | .extend _ _ _ => []
  | .journal _ _ _ => []
  | .telem _ _ _ => []
  | .routeset _ _ _ => []
  | .linkto _ _ _ => []
  | .bootStart => []
  | .spdmGetVersion => []
  | .spdmNegotiateAlgorithms _ _ => []
  | .spdmGetMeasurements _ _ => []
  | .mgmtHold => []
  | .reset => []
  | .funcreset _ => []
  | .bootsel _ => []
  | .clear _ _ => []
  | .powercap _ => []
  | .pldmFirmwareUpdate _ _ _ _ => []
  | .mailboxDoorbellWrite _ _ => []
  | .refusedRead _ _ => []
  | .engineBurst _ => []

/-- 04 R93: the opcodes a modifier word may target. -/
def modTarget (cls : SlotCls) (opc : Nat) : Bool :=
  match cls with
  | .s => (1 ≤ opc && opc ≤ 0x1B) || (0x21 ≤ opc && opc ≤ 0x3B) || (0x50 ≤ opc && opc ≤ 0x57)
  | .v => (1 ≤ opc && opc ≤ 0xC) || opc == 0x15 || opc == 0x18 || (0x20 ≤ opc && opc ≤ 0x25)
  | _ => false

/-- 04 R93: HI and LO are 0 where CLMP does not use them. -/
def modBounds (m : ModOp) : Bool :=
  (m.clamp != 0 || (m.hi == 0 && m.lo == 0)) && (m.clamp != 2 || m.hi == 0) && (m.clamp != 3 || m.lo == 0)

end Sys2Proof.Machine
end

