-- ==== Sys2Proof/WellFormed.lean ====
section
/-! DEFINITION. Well-formed instructions: a slot operation that stands in a slot of its opcode space, whose fields
are all legal (05 R124) and whose modifier may target it (04 R93). Events carry plain data and are well-formed. -/
namespace Sys2Proof

/-- The operation stands in a slot of its opcode space (05 R112). -/
def Instr.slotOk (i : Instr) : Bool :=
  match Machine.slotView i with
  | none => true
  | some v => Machine.slotCls v.h.slot.toNat == v.cls

/-- The modifier may target the operation and holds legal bounds (04 R93). -/
def Instr.modOk (i : Instr) : Bool :=
  match Machine.slotView i with
  | none => true
  | some v =>
    match v.h.md with
    | none => true
    | some m => Machine.modTarget v.cls v.opc.toNat && Machine.modBounds m

/-- No field holds a value that 05 R124 makes illegal. -/
def Instr.fieldsOk (i : Instr) : Bool := (Machine.fieldDefects i).isEmpty

/-- A well-formed instruction. -/
def Instr.wf (i : Instr) : Bool := i.slotOk && i.fieldsOk && i.modOk

/-- The operation belongs to a bundle slot. -/
def Instr.isSlotOp (i : Instr) : Bool := (Machine.slotView i).isSome

end Sys2Proof
end

