-- ==== Sys2Proof/Decode.lean ====
section
/-! DEFINITION. Decoding a bundle (04 R88 to R107, 05 R112, R124), total on any 512 bits, and the encoder. -/
namespace Sys2Proof.Machine

/-- A slot as the bundle holds it: its word and its header bits (04 R89). -/
structure RawSlot where
  word : SlotWord
  acc : BitVec 1
  modf : BitVec 1
  iter : BitVec 2
  deriving DecidableEq, Repr

/-- 04 R89: slot `k` of a bundle. -/
def rawSlot (b : Bundle) (k : Nat) : RawSlot :=
  ⟨b.extractLsb' (32 + 60 * k) 60, b.extractLsb' k 1, b.extractLsb' (8 + k) 1, b.extractLsb' (16 + 2 * k) 2⟩

/-- 04 R90: the opcode field. -/
def RawSlot.opc (r : RawSlot) : Nat := (r.word.extractLsb' 51 9).toNat

/-- 04 R93: the modifier word. -/
def modOfWord (w : SlotWord) : ModOp :=
  ⟨w.getLsbD 56, w.extractLsb' 54 2, w.getLsbD 53, w.getLsbD 52, w.extractLsb' 46 6, w.extractLsb' 16 16,
    w.extractLsb' 0 16⟩

/-- 04 R93: the slot a modifier word targets. -/
def modTgt (w : SlotWord) : Nat := (w.extractLsb' 57 3).toNat

/-- 04 R93: the slots 0 to 7 that hold a modifier word for slot `t`. -/
def modSlots (b : Bundle) (t : Nat) : List Nat :=
  (List.range 8).filter fun j => (rawSlot b j).modf == 1 && modTgt (rawSlot b j).word == t

/-- 04 R93: what makes the modifier word in slot `k` illegal. -/
def modDefects (b : Bundle) (k : Nat) : List Nat :=
  let r := rawSlot b k
  let t := modTgt r.word
  let g := rawSlot b t
  zero (r.word.extractLsb' 32 14) ++
  (if decide (t ≤ 2) && g.modf == 0 && modTarget (slotCls t) g.opc && (modSlots b t).length == 1 &&
      g.acc == r.acc && g.iter == r.iter && modBounds (modOfWord r.word) then [] else [7])

/-- The modifier of slot `k`, when some modifier word names it. -/
def modFor (b : Bundle) (k : Nat) : Option ModOp :=
  match modSlots b k with
  | j :: _ => some (modOfWord (rawSlot b j).word)
  | [] => none

/-- 04 R90, R91: the head of the operation in slot `k`. -/
def headOf (b : Bundle) (k : Nat) : Head :=
  let r := rawSlot b k
  ⟨BitVec.ofNat 3 k, r.acc, r.iter, r.word.extractLsb' 50 1, r.word.extractLsb' 46 4, modFor b k⟩

/-- The operation in slot `k`; none for an empty slot, a modifier word or a reserved opcode. -/
def opAt (b : Bundle) (k : Nat) : Option Instr :=
  let r := rawSlot b k
  if r.modf == 1 then none
  else decodeOp (slotCls k) r.opc (headOf b k) (r.word.extractLsb' 0 46)

/-- 09 R223: every other slot word of a TXSTEP's bundle is a NOP word. -/
def txstepAlone (b : Bundle) : Bool :=
  (List.range 8).all fun j => j == 3 || ((rawSlot b j).word == 0 && (rawSlot b j).modf == 0)

/-- The defects of the bundle's encoding in slot `k` (05 R124). -/
def slotDefects (b : Bundle) (k : Nat) : List Nat :=
  let r := rawSlot b k
  if r.modf == 1 then modDefects b k
  else if r.opc == 0 then (if r.word == 0 && r.acc == 0 && r.iter == 0 then [] else [8])
  else
    match opAt b k with
    | none => [1]
    | some i =>
      (match slotView i with
        | some v => if v.ops == r.word.extractLsb' 0 46 then [] else [3]
        | none => []) ++
      fieldDefects i ++
      (match i with
        | .txstep _ _ => if txstepAlone b then [] else [3]
        | _ => [])

/-- The lowest of a list of reasons (04 R107). -/
def lowest (l : List Nat) : Nat := l.foldl min 63

/-- What a bundle decodes to: its operations in slot order, or the slot at fault and the reason (04 R107). -/
inductive Decoded where
  | ops (l : List Instr)
  | illegal (slot reason : Nat)
  deriving DecidableEq, Repr

/-- The lowest-numbered slot with a defect, its own or one of `extra` (rules that look at more than the
encoding), with the lowest of its reasons (04 R107). -/
def firstDefect (b : Bundle) (extra : List (Nat × Nat)) : Option (Nat × Nat) :=
  (List.range 8).findSome? fun k =>
    let ds := slotDefects b k ++ (extra.filter fun e => e.1 == k).map (·.2)
    if ds.isEmpty then none else some (k, lowest ds)

/-- The operations of a bundle in slot order; a bundle without one is the NOP. -/
def bundleOps (b : Bundle) : List Instr :=
  let l := (List.range 8).filterMap (opAt b)
  if l.isEmpty then [.nop] else l

/-- Decoding a bundle. -/
def decodeBundle (b : Bundle) : Decoded :=
  match firstDefect b [] with
  | some (k, r) => .illegal k r
  | none => .ops (bundleOps b)

/-- 04 R88: the 512 bits of 64 bytes, the first byte the lowest. -/
def bundleOfBytes (l : List Byte) : Bundle :=
  BitVec.ofNat 512 (l.foldr (fun x acc => x.toNat + 256 * acc) 0)

/-- 04 R88: the 64 bytes of a bundle. -/
def bytesOfBundle (b : Bundle) : List Byte :=
  (List.range 64).map fun i => b.extractLsb' (8 * i) 8

/-- 04 R93: the modifier word of a modifier that targets slot `t`. -/
def wordOfMod (t : BitVec 3) (m : ModOp) : SlotWord :=
  t ++ BitVec.ofBool m.sat ++ m.clamp ++ BitVec.ofBool m.neg ++ BitVec.ofBool m.abs ++ m.scale ++ 0#14 ++ m.hi ++ m.lo

/-- 04 R90: the slot word of an operation. -/
def wordOfView (v : SlotView) : SlotWord := v.opc ++ v.h.gneg ++ v.h.gpred ++ v.ops

/-- The contents of slot `k` of the bundle that holds one operation and, in slot 7, its modifier (04 R110). -/
def slotFor (v : SlotView) (k : Nat) : RawSlot :=
  if k == v.h.slot.toNat then ⟨wordOfView v, v.h.acc, 0, v.h.iter⟩
  else
    match v.h.md with
    | some m => if k == 7 then ⟨wordOfMod v.h.slot m, v.h.acc, 1, v.h.iter⟩ else ⟨0, 0, 0, 0⟩
    | none => ⟨0, 0, 0, 0⟩

/-- 04 R89: a bundle from its eight slots. -/
def packSlots (f : Nat → RawSlot) : Bundle :=
  (f 7).word ++ (f 6).word ++ (f 5).word ++ (f 4).word ++ (f 3).word ++ (f 2).word ++ (f 1).word ++ (f 0).word ++
  (f 7).iter ++ (f 6).iter ++ (f 5).iter ++ (f 4).iter ++ (f 3).iter ++ (f 2).iter ++ (f 1).iter ++ (f 0).iter ++
  (f 7).modf ++ (f 6).modf ++ (f 5).modf ++ (f 4).modf ++ (f 3).modf ++ (f 2).modf ++ (f 1).modf ++ (f 0).modf ++
  (f 7).acc ++ (f 6).acc ++ (f 5).acc ++ (f 4).acc ++ (f 3).acc ++ (f 2).acc ++ (f 1).acc ++ (f 0).acc

end Sys2Proof.Machine

namespace Sys2Proof

/-- The bundle that holds one operation and nothing else; an event has no encoding and gives the empty bundle. -/
def encode (i : Instr) : Bundle :=
  match Machine.slotView i with
  | none => 0
  | some v => Machine.packSlots (Machine.slotFor v)

/-- The instruction the decoder reads from a bundle whose bits are `w` (bits above `nbits` are 0): the operation
of its lowest-numbered occupied slot, NOP for the empty bundle; none where the bundle is illegal. -/
def decodeTableWord (nbits w : Nat) : Option Instr :=
  match Machine.decodeBundle (BitVec.ofNat 512 (w % 2 ^ nbits)) with
  | .ops (i :: _) => some i
  | _ => none

end Sys2Proof
end

