-- ==== Sys2Proof/Machine/Numbers.lean ====
section
/-! DEFINITION. Number formats and their one rounding: 03 R65 to R79, the modifier arithmetic of 04 R94,
the exact operations of 03 R84 and the generator of 03 R85, R86. -/
namespace Sys2Proof.Machine

/-- The number of bits of a number. -/
def bitLen (n : Nat) : Nat := if n == 0 then 0 else Nat.log2 n + 1

/-- A type code of 03 R65. -/
abbrev Ty := BitVec 4

/-- 03 R65: the width of a type in bits (16 where the code is reserved: no legal operation reads it). -/
def tyWidth (t : Ty) : Nat :=
  match t.toNat with
  | 0 => 8 | 1 => 16 | 2 => 32 | 3 => 64 | 4 => 8 | 5 => 16 | 6 => 32 | 7 => 64
  | 8 => 32 | 9 => 16 | 10 => 16 | 11 => 8 | 12 => 8 | 13 => 8 | 14 => 4 | _ => 16

/-- 03 R65: codes 8 to 13 are the floating-point types. -/
def tyIsFloat (t : Ty) : Bool := 8 ≤ t.toNat && t.toNat ≤ 13

/-- 03 R65: the signed integer types i8 to i64 and i4. -/
def tySigned (t : Ty) : Bool := t.toNat ≤ 3 || t.toNat == 14

/-- 03 R65: lanes per vector. -/
def tyLanes (t : Ty) : Nat := 2048 / tyWidth t

/-- 03 R66: the rounding modes. -/
inductive Rnd where
  | rne | rtz | rup | rdn
  deriving DecidableEq, Repr

/-- 02 R54: the code of FMT.RND. -/
def Rnd.ofCode (c : BitVec 2) : Rnd :=
  match c.toNat with
  | 0 => .rne | 1 => .rtz | 2 => .rup | _ => .rdn

/-- An exact real result before rounding: a NaN (signalling or not), an infinity, or
`man * 2 ^ exp` with the sign `neg`, plus a tail below one unit of `exp` when `tail` is set. -/
inductive FVal where
  | nan (sig : Bool)
  | inf (neg : Bool)
  | fin (neg : Bool) (man : Nat) (exp : Int) (tail : Bool)
  deriving DecidableEq, Repr

/-- 02 R55: the bits of STICKY. -/
def fNV : Flags := 1
def fOF : Flags := 2
def fUF : Flags := 4
def fNX : Flags := 8
def fDZ : Flags := 16

def FVal.isNaN : FVal → Bool
  | .nan _ => true
  | _ => false

def FVal.isZero : FVal → Bool
  | .fin _ m _ t => m == 0 && !t
  | _ => false

def FVal.isNeg : FVal → Bool
  | .nan _ => false
  | .inf n => n
  | .fin n _ _ _ => n

def FVal.zero (neg : Bool) : FVal := .fin neg 0 0 false

/-- The exact value of an integer (03 R79); its zero is +0. -/
def FVal.ofInt (x : Int) : FVal := .fin (decide (x < 0)) x.natAbs 0 false

/-- 03 R69: NV when an input is a signalling NaN. -/
def FVal.sigFlag : FVal → Flags
  | .nan true => fNV
  | _ => 0

def FVal.negate : FVal → FVal
  | .nan s => .nan s
  | .inf n => .inf (!n)
  | .fin n m e t => .fin (!n) m e t

def FVal.abs : FVal → FVal
  | .nan s => .nan s
  | .inf _ => .inf false
  | .fin _ m e t => .fin false m e t

/-- An exact scale by a power of two. -/
def FVal.scale (x : FVal) (k : Int) : FVal :=
  match x with
  | .fin n m e t => .fin n m (e + k) t
  | y => y

/-- 03 R71: the layout of an IEEE-like type. -/
structure FLayout where
  /-- fraction bits -/
  fb : Nat
  /-- exponent bits -/
  eb : Nat
  bias : Int
  /-- the largest finite significand and its quantum -/
  maxMan : Nat
  maxQ : Int
  canon : Nat
  deriving DecidableEq, Repr

/-- 03 R71, R72: the layouts of f32, bf16, f16, e4m3 and e5m2. -/
def layout (t : Ty) : FLayout :=
  match t.toNat with
  | 8 => ⟨23, 8, 127, 2 ^ 24 - 1, 104, 0x7FC00000⟩
  | 9 => ⟨7, 8, 127, 255, 120, 0x7FC0⟩
  | 10 => ⟨10, 5, 15, 2047, 5, 0x7E00⟩
  | 11 => ⟨3, 4, 7, 14, 5, 0x7F⟩
  | _ => ⟨2, 5, 15, 7, 13, 0x7E⟩

/-- 03 R71, R74: the canonical NaN. -/
def canonNaN (t : Ty) : Nat := if t.toNat == 13 then 0x80 else (layout t).canon

/-- Leading zeros of the 7-bit magnitude part of a G8 code (03 R74). -/
def g8Zeros (c : Nat) : Nat := 7 - bitLen (c % 128)

/-- 03 R74: DecodeG8. -/
def decodeG8 (c : Nat) : FVal :=
  let s := c / 128 % 2 == 1
  let low := c % 128
  if low == 0 then (if s then .nan false else .zero false)
  else
    let z := g8Zeros low
    let t := 6 - z
    if z == 6 then .fin s 1 (-12) false
    else if z == 5 then .fin s 1 (if low % 2 == 1 then 10 else -11) false
    else
      let g := low / 2 ^ (t - 1) % 2
      let e := low / 2 ^ (t - 2) % 2
      let ex : Int := if g == 1 then (2 * z + e : Nat) else (e : Int) - 2 * z - 2
      let nf := t - 2
      .fin s (2 ^ nf + low % 2 ^ nf) (ex - nf) false

/-- 03 R71, R72, R69: the value of an IEEE-like bit pattern. -/
def decodeIeee (t : Ty) (b : Nat) : FVal :=
  let L := layout t
  let s := b / 2 ^ (L.eb + L.fb) % 2 == 1
  let e := b / 2 ^ L.fb % 2 ^ L.eb
  let f := b % 2 ^ L.fb
  if t.toNat == 11 then
    if e == 15 && f == 7 then .nan false
    else if e == 0 then .fin s f (1 - L.bias - L.fb) false
    else .fin s (f + 8) ((e : Int) - L.bias - L.fb) false
  else if e == 2 ^ L.eb - 1 then
    if f == 0 then .inf s
    else .nan (t.toNat != 12 && f / 2 ^ (L.fb - 1) % 2 == 0)
  else if e == 0 then .fin s f (1 - L.bias - L.fb) false
  else .fin s (f + 2 ^ L.fb) ((e : Int) - L.bias - L.fb) false

/-- The value of the low bits of `b` read in the floating-point type `t`. -/
def decodeF (t : Ty) (b : Nat) : FVal :=
  if t.toNat == 13 then decodeG8 (b % 256) else decodeIeee t (b % 2 ^ tyWidth t)

/-- The value of the low bits of `b` read in the integer type `t` (03 R65). -/
def intOf (t : Ty) (b : Nat) : Int :=
  if tySigned t then signedOf (tyWidth t) b else ((b % 2 ^ tyWidth t : Nat) : Int)

/-- 03 R66: rounding of `man * 2 ^ exp` (plus its tail) to a multiple of `2 ^ q`: the multiple and whether
the result is inexact. -/
def roundAt (m : Rnd) (neg : Bool) (man : Nat) (exp : Int) (tail : Bool) (q : Int) : Nat × Bool :=
  if q ≤ exp then (man <<< (exp - q).toNat, tail)
  else
    let d := (q - exp).toNat
    let hi := man >>> d
    let lo := man % 2 ^ d
    let inex := lo != 0 || tail
    let twice := 2 * lo
    let above := decide (2 ^ d < twice) || (twice == 2 ^ d && tail)
    let tie := twice == 2 ^ d && !tail
    let up := match m with
      | .rne => above || (tie && hi % 2 == 1)
      | .rtz => false
      | .rup => inex && !neg
      | .rdn => inex && neg
    (if up then hi + 1 else hi, inex)

/-- A significand of `p + 1` bits after a carry, renormalised. -/
def renorm (p : Nat) (m : Nat) (q : Int) : Nat × Int :=
  if m == 2 ^ p then (2 ^ (p - 1), q + 1) else (m, q)

/-- 03 R73: whether an overflow of this sign goes to the largest finite value. -/
def towardZero (m : Rnd) (neg : Bool) : Bool :=
  match m with
  | .rne => false
  | .rtz => true
  | .rup => neg
  | .rdn => !neg

/-- The bit pattern of sign and magnitude in an IEEE-like type. -/
def signBit (t : Ty) (neg : Bool) : Nat := if neg then 2 ^ (tyWidth t - 1) else 0

/-- The largest finite magnitude's bit pattern (03 R71, R72). -/
def maxBits (t : Ty) : Nat :=
  if t.toNat == 13 then 3
  else
    let L := layout t
    ((L.maxQ + L.bias + L.fb).toNat <<< L.fb) + (L.maxMan - 2 ^ L.fb)

/-- The bit pattern of +infinity in a type that has one (03 R71). -/
def infBits (t : Ty) : Nat := ((2 ^ (layout t).eb - 1) <<< (layout t).fb)

/-- 03 R73: ±infinity delivered in type `t`: no flag is raised. -/
def deliverInf (t : Ty) (e4ovf : Bool) (neg : Bool) : Nat :=
  if t.toNat == 11 then (if e4ovf then 0x7F else signBit t neg + maxBits t)
  else signBit t neg + infBits t

/-- 03 R66, R71 to R73, R87: the one rounding of an exact value to an IEEE-like type. -/
def roundIeee (t : Ty) (m : Rnd) (e4ovf : Bool) (neg : Bool) (man : Nat) (exp : Int) (tail : Bool) : Nat × Flags :=
  let L := layout t
  let p := L.fb + 1
  let qsub : Int := 1 - L.bias - L.fb
  let q0 : Int := exp + bitLen man - p
  let q := max q0 qsub
  let (a, inex) := roundAt m neg man exp tail q
  let (a, q) := renorm p a q
  let (a0, _) := roundAt m neg man exp tail q0
  let (_, q0') := renorm p a0 q0
  let tiny := decide (q0' < qsub)
  if decide (L.maxQ < q) || (q == L.maxQ && decide (L.maxMan < a)) then
    let out := if towardZero m neg then signBit t neg + maxBits t
      else if t.toNat == 11 then (if e4ovf then 0x7F else signBit t neg + maxBits t)
      else signBit t neg + infBits t
    (out, fOF ||| fNX)
  else
    let bits := if a < 2 ^ L.fb then a else ((q + L.bias + L.fb).toNat <<< L.fb) + (a - 2 ^ L.fb)
    (signBit t neg + bits, (if inex then fNX else 0) ||| (if inex && tiny then fUF else 0))

/-- 03 R74: a G8 magnitude in units of 2^-12. -/
def g8Units (c : Nat) : Nat :=
  match decodeG8 (c % 128) with
  | .fin _ m e _ => m <<< (e + 12).toNat
  | _ => 0

/-- The G8 code with the greatest magnitude not above `u` units of 2^-13 (03 R75). -/
def g8Below (u : Nat) : Nat :=
  (List.range 128).foldl (fun best c => if 2 * g8Units c ≤ u && decide (g8Units best ≤ g8Units c) then c else best) 0

/-- The G8 code with the least magnitude above `u` units of 2^-13 (03 R75); 3 is the greatest, 1,024. -/
def g8Above (u : Nat) : Nat :=
  (List.range 128).foldl (fun best c => if decide (u < 2 * g8Units c) && decide (g8Units c < g8Units best) then c else best) 3

/-- 03 R75: conversion of an exact value to G8, whatever the rounding mode. -/
def roundG8 (neg : Bool) (man : Nat) (exp : Int) (tail : Bool) : Nat × Flags :=
  let d := (-13 - exp).toNat
  let u := if exp ≥ -13 then man <<< (exp + 13).toNat else man >>> d
  let tl := tail || (decide (exp < -13) && man % 2 ^ d != 0)
  if decide (2 ^ 23 < u) || (u == 2 ^ 23 && tl) then ((if neg then 0x83 else 3), fOF ||| fNX)
  else
    let lo := g8Below u
    if 2 * g8Units lo == u && !tl then ((if lo == 0 then 0 else if neg then lo + 128 else lo), 0)
    else
      let hi := g8Above u
      let mid := g8Units lo + g8Units hi
      let c :=
        if decide (mid < u) || (u == mid && tl) then hi
        else if u == mid then
          (if lo % 2 == 0 && hi % 2 == 1 then lo else if hi % 2 == 0 && lo % 2 == 1 then hi else hi)
        else lo
      if c == 0 then (0, fNX ||| fUF) else ((if neg then c + 128 else c), fNX)

/-- 03 R66, R69, R73, R75: Round(x, T, m), with its flags. NV for a signalling NaN is the operation's own. -/
def roundF (t : Ty) (m : Rnd) (e4ovf : Bool) (x : FVal) : Nat × Flags :=
  match x with
  | .nan _ => (canonNaN t, 0)
  | .inf n => if t.toNat == 13 then ((if n then 0x83 else 3), 0) else (deliverInf t e4ovf n, 0)
  | .fin n man e tl =>
    if man == 0 && !tl then ((if t.toNat == 13 then 0 else signBit t n), 0)
    else if t.toNat == 13 then roundG8 n man e tl
    else roundIeee t m e4ovf n man e tl

/-- Rounding to f32 by RNE (03 R67), as a bit pattern with its flags. -/
def rne32 (x : FVal) : Nat × Flags := roundF 8 .rne false x

/-- A signed comparison key of two finite values: their difference's sign is that of the integers. -/
def alignPair (a b : FVal) : Int × Int :=
  match a, b with
  | .fin n m e _, .fin n' m' e' _ =>
    let k := min e e'
    let x : Int := (m <<< (e - k).toNat : Nat)
    let y : Int := (m' <<< (e' - k).toNat : Nat)
    (if n then -x else x, if n' then -y else y)
  | _, _ => (0, 0)

/-- 03 R70: less than, false when unordered; the zeros are equal. -/
def fltLt (a b : FVal) : Bool :=
  match a, b with
  | .nan _, _ => false
  | _, .nan _ => false
  | .inf true, .inf true => false
  | .inf true, _ => true
  | .inf false, _ => false
  | _, .inf true => false
  | _, .inf false => true
  | x, y => decide ((alignPair x y).1 < (alignPair x y).2)

/-- 03 R70: equality, false when unordered; the zeros are equal. -/
def fltEq (a b : FVal) : Bool :=
  match a, b with
  | .nan _, _ => false
  | _, .nan _ => false
  | .inf n, .inf n' => n == n'
  | .inf _, _ => false
  | _, .inf _ => false
  | x, y => (alignPair x y).1 == (alignPair x y).2

/-- 03 R70: the order of minimum and maximum, in which -0 lies below +0. -/
def fltBelow (a b : FVal) : Bool :=
  if a.isZero && b.isZero then a.isNeg && !b.isNeg else fltLt a b

/-- 03 R70: the floating-point minimum. -/
def fltMin (a b : FVal) : FVal × Flags :=
  let fl := a.sigFlag ||| b.sigFlag
  if a.isNaN || b.isNaN then (.nan false, fl) else (if fltBelow b a then b else a, fl)

/-- 03 R70: the floating-point maximum. -/
def fltMax (a b : FVal) : FVal × Flags :=
  let fl := a.sigFlag ||| b.sigFlag
  if a.isNaN || b.isNaN then (.nan false, fl) else (if fltBelow a b then b else a, fl)

/-- The sign of an exact sum of zero (IEEE 754): + unless rounding down, or both terms negative zeros. -/
def zeroSum (m : Rnd) (na nb : Bool) : Bool :=
  if na == nb then na else (match m with | .rdn => true | _ => false)

/-- The exact sum of two finite values (tails are not added: operands are exact). -/
def addFin (m : Rnd) (n1 : Bool) (m1 : Nat) (e1 : Int) (n2 : Bool) (m2 : Nat) (e2 : Int) : FVal :=
  let k := min e1 e2
  let x : Int := (m1 <<< (e1 - k).toNat : Nat)
  let y : Int := (m2 <<< (e2 - k).toNat : Nat)
  let v := (if n1 then -x else x) + (if n2 then -y else y)
  if v == 0 then
    .fin (if m1 == 0 && m2 == 0 then zeroSum m n1 n2 else (match m with | .rdn => true | _ => false)) 0 0 false
  else .fin (decide (v < 0)) v.natAbs k false

/-- The exact sum, with the flags that precede rounding (03 R69, R87). -/
def fltAdd (m : Rnd) (a b : FVal) : FVal × Flags :=
  let fl := a.sigFlag ||| b.sigFlag
  match a, b with
  | .nan _, _ => (.nan false, fl)
  | _, .nan _ => (.nan false, fl)
  | .inf n, .inf n' => if n == n' then (.inf n, fl) else (.nan false, fl ||| fNV)
  | .inf n, _ => (.inf n, fl)
  | _, .inf n => (.inf n, fl)
  | .fin n1 m1 e1 _, .fin n2 m2 e2 _ => (addFin m n1 m1 e1 n2 m2 e2, fl)

/-- The exact product (03 R87: 0 × ∞ is invalid). -/
def fltMul (a b : FVal) : FVal × Flags :=
  let fl := a.sigFlag ||| b.sigFlag
  match a, b with
  | .nan _, _ => (.nan false, fl)
  | _, .nan _ => (.nan false, fl)
  | .inf n, .inf n' => (.inf (n != n'), fl)
  | .inf n, .fin n' m' _ _ => if m' == 0 then (.nan false, fl ||| fNV) else (.inf (n != n'), fl)
  | .fin n m1 _ _, .inf n' => if m1 == 0 then (.nan false, fl ||| fNV) else (.inf (n != n'), fl)
  | .fin n m1 e1 _, .fin n' m2 e2 _ => (.fin (n != n') (m1 * m2) (e1 + e2) false, fl)

/-- 06 R138, 07 R159: a × b + c exactly; 0 × ∞ raises NV even when c is a quiet NaN. -/
def fltFma (m : Rnd) (a b c : FVal) : FVal × Flags :=
  let (p, f1) := fltMul a b
  let (s, f2) := fltAdd m p c
  (s, f1 ||| f2)

/-- 03 R84: a / b with at least 64 quotient bits, the remainder as the tail. -/
def fltDiv (a b : FVal) : FVal × Flags :=
  let fl := a.sigFlag ||| b.sigFlag
  match a, b with
  | .nan _, _ => (.nan false, fl)
  | _, .nan _ => (.nan false, fl)
  | .inf _, .inf _ => (.nan false, fl ||| fNV)
  | .inf n, .fin n' _ _ _ => (.inf (n != n'), fl)
  | .fin n _ _ _, .inf n' => (.zero (n != n'), fl)
  | .fin n m1 e1 _, .fin n' m2 e2 _ =>
    if m2 == 0 then
      (if m1 == 0 then (.nan false, fl ||| fNV) else (.inf (n != n'), fl ||| fDZ))
    else if m1 == 0 then (.zero (n != n'), fl)
    else
      let k := 64 + bitLen m2 - bitLen m1
      let q := (m1 <<< k) / m2
      (.fin (n != n') q (e1 - e2 - k) ((m1 <<< k) % m2 != 0), fl)

/-- The integer square root by its bits, from bit `k - 1` down. -/
def isqrtBits (n : Nat) : Nat → Nat → Nat
  | 0, r => r
  | k + 1, r => isqrtBits n k (if (r + 2 ^ k) * (r + 2 ^ k) ≤ n then r + 2 ^ k else r)

/-- The integer square root. -/
def isqrt (n : Nat) : Nat := isqrtBits n (bitLen n / 2 + 1) 0

/-- 03 R84: √x, with at least 48 result bits. -/
def fltSqrt (a : FVal) : FVal × Flags :=
  match a with
  | .nan _ => (.nan false, a.sigFlag)
  | .inf n => if n then (.nan false, fNV) else (.inf false, 0)
  | .fin n m e _ =>
    if m == 0 then (.zero n, 0)
    else if n then (.nan false, fNV)
    else
      let odd := e % 2 != 0
      let m1 := if odd then 2 * m else m
      let e1 := if odd then e - 1 else e
      let big := m1 <<< 96
      let r := isqrt big
      (.fin false r (e1 / 2 - 48) (r * r != big), 0)

/-- 03 R84: 1/x. -/
def fltRcp (a : FVal) : FVal × Flags :=
  match a with
  | .nan _ => (.nan false, a.sigFlag)
  | .inf n => (.zero n, 0)
  | .fin n m _ _ => if m == 0 then (.inf n, fDZ) else fltDiv (.fin false 1 0 false) a

/-- 03 R84: 1/√x. -/
def fltRsq (a : FVal) : FVal × Flags :=
  match a with
  | .nan _ => (.nan false, a.sigFlag)
  | .inf n => if n then (.nan false, fNV) else (.zero false, 0)
  | .fin n m e _ =>
    if m == 0 then (.inf n, fDZ)
    else if n then (.nan false, fNV)
    else
      let odd := e % 2 != 0
      let m1 := if odd then 2 * m else m
      let e1 := if odd then e - 1 else e
      let k := 64 + bitLen m1
      let r := isqrt ((2 ^ (2 * k)) / m1)
      (.fin false r (-(e1 / 2) - k) (r * r * m1 != 2 ^ (2 * k)), 0)

/-- ln 2 in units of 2^-256 (a constant of mathematics, truncated). -/
def ln2Units : Nat := 0xb17217f7d1cf79abc9e3b39803f2f6af40f343267298b62d8a0d175b8baafa2b

/-- The terms of the exponential series of `y` units of 2^-256, from term `k`. -/
def expTerms (y : Nat) : Nat → Nat → Nat → Nat → Nat
  | 0, _, _, acc => acc
  | n + 1, k, term, acc =>
    let next := term * y / 2 ^ 256 / k
    expTerms y n (k + 1) next (acc + next)

/-- 2^f in units of 2^-256, for f = `f` units of 2^-256 below 1 (log entry 30). -/
def exp2Units (f : Nat) : Nat := expTerms (f * ln2Units / 2 ^ 256) 64 1 (2 ^ 256) (2 ^ 256)

/-- 03 R84: 2^x. -/
def fltExp2 (a : FVal) : FVal × Flags :=
  match a with
  | .nan _ => (.nan false, a.sigFlag)
  | .inf n => if n then (.zero false, 0) else (.inf false, 0)
  | .fin n m e _ =>
    if m == 0 then (.fin false 1 0 false, 0)
    else if e ≥ 0 then
      let k : Int := if e > 12 then 4096 else min ((m <<< e.toNat : Nat) : Int) 4096
      (.fin false 1 (if n then -k else k) false, 0)
    else
      let d := (-e).toNat
      let ip := m >>> d
      let fr := m % 2 ^ d
      if fr == 0 then (.fin false 1 (if n then -(min ip 4096 : Nat) else (min ip 4096 : Nat)) false, 0)
      else
        let base : Int := if n then -(min ip 4096 : Nat) - 1 else (min ip 4096 : Nat)
        let num := if n then 2 ^ d - fr else fr
        let f := if d ≤ 256 then num <<< (256 - d) else num >>> (d - 256)
        (.fin false (exp2Units f) (base - 256) true, 0)

/-- The terms of the inverse hyperbolic tangent series: powers of `z2 = z * z`, in units of 2^-256. -/
def atanhTerms (z2 : Nat) : Nat → Nat → Nat → Nat → Nat
  | 0, _, _, acc => acc
  | n + 1, k, pw, acc => atanhTerms z2 n (k + 2) (pw * z2 / 2 ^ 256) (acc + pw / k)

/-- log2 of `m / 2^s`, for a value in [1, 2), in units of 2^-256 (log entry 30). -/
def log2Units (m s : Nat) : Nat :=
  let one := 2 ^ s
  let z := (m - one) * 2 ^ 256 / (m + one)
  let z2 := z * z / 2 ^ 256
  2 * atanhTerms z2 96 1 z 0 * 2 ^ 256 / ln2Units

/-- 03 R84: log2 x. -/
def fltLog2 (a : FVal) : FVal × Flags :=
  match a with
  | .nan _ => (.nan false, a.sigFlag)
  | .inf n => if n then (.nan false, fNV) else (.inf false, 0)
  | .fin n m e _ =>
    if m == 0 then (.inf true, fDZ)
    else if n then (.nan false, fNV)
    else
      let s := bitLen m - 1
      let ip : Int := e + s
      if m == 2 ^ s then (FVal.ofInt ip, 0)
      else
        let fr := log2Units m s
        let tot : Int := ip * (2 ^ 256 : Nat) + fr
        if tot ≥ 0 then (.fin false tot.natAbs (-256) true, 0)
        else (.fin true (tot.natAbs - 1) (-256) true, 0)

/-- 04 R94: the value of a bit pattern is an infinity of its type. -/
def isInfBits (t : Ty) (b : Nat) : Bool :=
  match decodeF t b with
  | .inf _ => true
  | _ => false

def isNaNBits (t : Ty) (b : Nat) : Bool := (decodeF t b).isNaN

/-- 04 R94: Bound(h, T), the bf16 field `h` in type T by RNE; `none` for a NaN. Only a field that rounds beyond the largest
finite value counts as beyond it (log entry 25). -/
def boundOf (t : Ty) (h : BitVec 16) : Option Nat :=
  let x := decodeF 9 h.toNat
  if x.isNaN then none
  else
    let r := (roundF t .rne false x).1
    some (if isNaNBits t r then signBit t x.isNeg + maxBits t else r)

/-- 04 R94: Negate inverts the sign bit; a G8 zero stays 0x00. -/
def negBits (t : Ty) (b : Nat) : Nat :=
  if t.toNat == 13 && b == 0 then 0 else Nat.xor b (2 ^ (tyWidth t - 1))

/-- 04 R94: ModifyFloat. -/
def modifyFloat (t : Ty) (m : Rnd) (e4ovf : Bool) (M : ModOp) (x : FVal) : Nat × Flags :=
  if x.isNaN then (canonNaN t, 0)
  else
    let (y, fl) := roundF t m e4ovf (x.scale M.scale.toInt)
    if isNaNBits t y then (y, fl)
    else
      let y := if M.abs then y % 2 ^ (tyWidth t - 1) else y
      let y := if M.neg then negBits t y else y
      let y := if M.clamp == 1 || M.clamp == 2 then
          match boundOf t M.lo with
          | some lo => if fltLt (decodeF t y) (decodeF t lo) then lo else y
          | none => y
        else y
      let y := if M.clamp == 1 || M.clamp == 3 then
          match boundOf t M.hi with
          | some hi => if fltLt (decodeF t hi) (decodeF t y) then hi else y
          | none => y
        else y
      let y := if M.sat && isInfBits t y then signBit t (decodeF t y).isNeg + maxBits t else y
      (y, fl)

/-- The delivered floating-point result of an operation: one rounding, through a modifier if there is one. -/
def deliverF (t : Ty) (m : Rnd) (e4ovf : Bool) (md : Option ModOp) (x : FVal) : Nat × Flags :=
  match md with
  | none => roundF t m e4ovf x
  | some M => modifyFloat t m e4ovf M x

/-- The least and greatest value of an integer type of width `w` (03 R65). -/
def intMin (signed : Bool) (w : Nat) : Int := if signed then -(2 ^ (w - 1) : Nat) else 0
def intMax (signed : Bool) (w : Nat) : Int := if signed then (2 ^ (w - 1) : Nat) - 1 else (2 ^ w : Nat) - 1

def clampInt (lo hi x : Int) : Int := max lo (min hi x)

/-- 04 R94: ModifyInt up to its last step. -/
def modifyIntCore (M : ModOp) (r : Int) : Int :=
  let k := M.scale.toInt
  let r := if k ≥ 0 then r * (2 ^ k.toNat : Nat) else r / (2 ^ (-k).toNat : Nat)
  let r := if M.abs then (r.natAbs : Int) else r
  let r := if M.neg then -r else r
  let r := if M.clamp == 1 || M.clamp == 2 then max r (signedOf 16 M.lo.toNat) else r
  if M.clamp == 1 || M.clamp == 3 then min r (signedOf 16 M.hi.toNat) else r

/-- 04 R94, 03 R76: an integer result of signedness `sg` and width `w`: wrapped, or through ModifyInt. -/
def deliverInt (sg : Bool) (w : Nat) (md : Option ModOp) (r : Int) : Nat :=
  match md with
  | none => wrapInt w r
  | some M =>
    let r := modifyIntCore M r
    wrapInt w (if M.sat then clampInt (intMin sg w) (intMax sg w) r else r)

/-- 03 R79: a value rounded to an integer; `none` for a NaN. -/
def roundToInt (m : Rnd) (x : FVal) : Option Int × Bool :=
  match x with
  | .nan _ => (none, false)
  | .inf n => (some (if n then -(2 ^ 200 : Nat) else (2 ^ 200 : Nat)), false)
  | .fin n man e tl =>
    let (a, inex) := roundAt m n man e tl 0
    (some (if n then -(a : Int) else a), inex)

/-- 03 R79, 04 R94: floating-point to integer conversion. A value out of range raises NV alone (log entry 25). -/
def floatToInt (t : Ty) (m : Rnd) (md : Option ModOp) (x : FVal) : Nat × Flags :=
  let w := tyWidth t
  let sg := tySigned t
  match roundToInt m x with
  | (none, _) => (wrapInt w (clampInt (intMin sg w) (intMax sg w) (match md with | none => 0 | some M => modifyIntCore M 0)), fNV)
  | (some r, inex) =>
    let r' := match md with | none => r | some M => modifyIntCore M r
    let c := clampInt (intMin sg w) (intMax sg w) r'
    if c == r' then (wrapInt w c, if inex then fNX else 0) else (wrapInt w c, fNV)

/-- 07 R162, 06 R138: conversion of the source pattern `b` of type `src` to type `dst`. -/
def convert (dst src : Ty) (m : Rnd) (e4ovf : Bool) (md : Option ModOp) (b : Nat) : Nat × Flags :=
  if tyIsFloat src then
    let x := decodeF src b
    if tyIsFloat dst then
      let (y, fl) := deliverF dst m e4ovf md x
      (y, fl ||| x.sigFlag)
    else floatToInt dst m md x
  else if tyIsFloat dst then deliverF dst m e4ovf md (FVal.ofInt (intOf src b))
  else (deliverInt (tySigned dst) (tyWidth dst) md (intOf src b), 0)

/-- 03 R77: the quotient of two integers of a type of signedness `sg` and width `w`. -/
def divInt (sg : Bool) (w : Nat) (x y : Int) : Int :=
  if y == 0 then (if sg then -1 else (2 ^ w : Nat) - 1)
  else if sg && x == intMin true w && y == -1 then x
  else Int.tdiv x y

/-- 03 R77: the remainder. -/
def remInt (sg : Bool) (w : Nat) (x y : Int) : Int :=
  if y == 0 then x
  else if sg && x == intMin true w && y == -1 then 0
  else Int.tmod x y

/-- 03 R85: rotation of a 64-bit value. -/
def rotl64 (v r : Nat) : Nat := ((v <<< r) ||| (v >>> (64 - r))) % 2 ^ 64

/-- 03 R85: one round of Rand64. -/
def randRound (k : Nat) (x : Nat) (m s i : Nat) : Nat :=
  let x := x * m % 2 ^ 64
  let x := Nat.xor x (x >>> s)
  (x + rotl64 k (16 * i + 8)) % 2 ^ 64

/-- 03 R85: Rand64(K, n). -/
def rand64 (k n : Nat) : Nat :=
  let x := Nat.xor n k % 2 ^ 64
  let x := randRound k x 0xA3C59E174B2D8F61 29 0
  let x := randRound k x 0x6F1DB3A5C8472E9B 31 1
  let x := randRound k x 0xC2B75D39E16AF0A5 27 2
  randRound k x 0x8E4F2A6BD59317C7 33 3

/-- 03 R86: Uniform(x), exact. -/
def uniformOf (x : Nat) : FVal := .fin false (x / 2 ^ 40 % 2 ^ 24) (-24) false

/-- 06 R133, 03 R70: a floating-point condition. -/
def fltCond (c : Nat) (a b : FVal) : Bool :=
  match c with
  | 0 => fltEq a b
  | 1 => !fltEq a b
  | 2 => fltLt a b
  | 3 => fltLt a b || fltEq a b
  | 4 => fltLt b a
  | 5 => fltLt b a || fltEq a b
  | _ => a.isNaN || b.isNaN

/-- 06 R136: the flag of a floating-point compare. -/
def fltCondFlags (c : Nat) (a b : FVal) : Flags :=
  if 2 ≤ c && c ≤ 5 then (if a.isNaN || b.isNaN then fNV else 0) else a.sigFlag ||| b.sigFlag

/-- 06 R133: an integer condition on extended values. -/
def intCond (c : Nat) (x y : Int) (tst : Bool) : Bool :=
  match c with
  | 0 => x == y
  | 1 => x != y
  | 2 => decide (x < y)
  | 3 => decide (x ≤ y)
  | 4 => decide (y < x)
  | 5 => decide (y ≤ x)
  | _ => tst

end Sys2Proof.Machine
end

