-- ==== Sys2Proof/Machine/Lanes.lean ====
section
/-! DEFINITION. What the scalar and vector operations compute, as functions of values: 06 R126 to R138 and
07 R156 to R177. -/
namespace Sys2Proof.Machine

/-! ### Scalar values -/

/-- 06 R126: ExtendT of the low bits of `v`, as a 64-bit pattern. -/
def extendTo64 (t : Ty) (v : Nat) : Word := BitVec.ofInt 64 (intOf t v)

/-- 06 R126: the delivered integer result in its destination register. -/
def intResult (t : Ty) (md : Option ModOp) (r : Int) : Word :=
  extendTo64 t (deliverInt (tySigned t) (tyWidth t) md r)

/-- 03 R78, 06 R129: a bit pattern shifted right with zeros in. -/
def shrBits (w a n : Nat) : Int := ((a % 2 ^ w) >>> n : Nat)
/-- 06 R129: the signed shift right. -/
def sraBits (w a n : Nat) : Int := signedOf w a / (2 ^ n : Nat)
/-- 06 R129: rotation left. -/
def rotlBits (w a n : Nat) : Nat :=
  let u := a % 2 ^ w
  let k := n % w
  ((u <<< k) ||| (u >>> (w - k))) % 2 ^ w
/-- 06 R129: leading zeros. -/
def clzBits (w a : Nat) : Nat := w - bitLen (a % 2 ^ w)
/-- The ones among the low `w` bits. -/
def popBits (w a : Nat) : Nat := (List.range w).foldl (fun n i => if a.testBit i then n + 1 else n) 0

/-- 06 R130: Ext, as an exact value. -/
def extField (a pos len : Nat) (sg : Bool) : Int :=
  let v := (a >>> pos) % 2 ^ len
  if sg then signedOf len v else (v : Int)

/-- 06 R130: Ins. -/
def insField (d a pos len : Nat) : Nat :=
  let m := ((2 ^ len - 1) <<< pos) % 2 ^ 64
  Nat.lor (Nat.land d (2 ^ 64 - 1 - m)) (Nat.land (a <<< pos) m)

/-- A bitwise operation on the low `w` bits, read in the type. -/
def bitwise (t : Ty) (op : Nat → Nat → Nat) (a b : Nat) : Int :=
  intOf t (op (a % 2 ^ tyWidth t) (b % 2 ^ tyWidth t))

/-- x AND NOT y on the low `w` bits. -/
def andNot (w : Nat) (x y : Nat) : Nat := Nat.land x (2 ^ w - 1 - y)

/-- 06 R127: a floating-point result in a scalar register. -/
def fltResult (r : Nat) : Word := BitVec.ofNat 64 r

/-- 06 R137, 07 R175: a truth table of two bits. -/
def truth (tt : BitVec 4) (a b : Bool) : Bool := tt.getLsbD (2 * a.toNat + b.toNat)

/-! ### Vectors -/

/-- 02 R45: lane `i` of width `w`. -/
def lane (w : Nat) (v : Vec) (i : Nat) : Nat := (v.toNat >>> (w * i)) % 2 ^ w

/-- The lanes of a vector. -/
def lanes (w : Nat) (v : Vec) : List Nat := (List.range (2048 / w)).map (lane w v)

/-- A vector from its lanes, lane 0 first. -/
def ofLanes (w : Nat) (l : List Nat) : Vec :=
  BitVec.ofNat 2048 (l.foldr (fun x acc => x % 2 ^ w + 2 ^ w * acc) 0)

/-- 02 R45, 07 R157: the bits a mask of chunks governs. -/
def chunkMask (k : Word) : Vec :=
  ofLanes 32 ((List.range 64).map fun i => if k.getLsbD i then 2 ^ 32 - 1 else 0)

/-- A result of a vector operation: the value, the bits of the destination it writes, its flags. -/
structure VRes where
  val : Vec
  mask : Vec
  fl : Flags
  deriving DecidableEq, Repr

/-- All bits. -/
def allBits : Vec := BitVec.allOnes 2048

/-- 07 R157: lane `i` of width `w` is written in some part. -/
def laneWritten (w : Nat) (m : Vec) (i : Nat) : Bool := lane w m i != 0

/-- Lane results with their flags, collected: 07 R157 raises a flag for a lane only when part of it is written. -/
def collect (w : Nat) (m : Vec) (rs : List (Nat × Flags)) : VRes :=
  ⟨ofLanes w (rs.map (·.1)), m,
    (rs.zipIdx.foldl (fun fl r => if laneWritten w m r.2 then fl ||| r.1.2 else fl) 0)⟩

/-- 07 R159: an element-wise operation on two vectors. -/
def map2 (w : Nat) (m a b : Vec) (op : Nat → Nat → Nat × Flags) : VRes :=
  collect w m ((List.range (2048 / w)).map fun i => op (lane w a i) (lane w b i))

def map1 (w : Nat) (m a : Vec) (op : Nat → Nat × Flags) : VRes :=
  collect w m ((List.range (2048 / w)).map fun i => op (lane w a i))

def map3 (w : Nat) (m a b c : Vec) (op : Nat → Nat → Nat → Nat × Flags) : VRes :=
  collect w m ((List.range (2048 / w)).map fun i => op (lane w a i) (lane w b i) (lane w c i))

/-- What an operation needs besides its operands: rounding mode, FMT.E4OVF and the modifier. -/
structure Ctl where
  rnd : Rnd
  e4ovf : Bool
  md : Option ModOp
  deriving DecidableEq, Repr

/-- The delivered result of an exact floating-point result with flags. -/
def fltOut (t : Ty) (c : Ctl) (x : FVal × Flags) : Nat × Flags :=
  let (y, fl) := deliverF t c.rnd c.e4ovf c.md x.1
  (y, fl ||| x.2)

/-- The delivered result of an exact integer result. -/
def intOut (t : Ty) (c : Ctl) (x : Int) : Nat × Flags := (deliverInt (tySigned t) (tyWidth t) c.md x, 0)

/-- 07 R159: an arithmetic lane, integer or floating-point. -/
def arith2 (t : Ty) (c : Ctl) (fi : Int → Int → Int) (ff : FVal → FVal → FVal × Flags) (x y : Nat) : Nat × Flags :=
  if tyIsFloat t then fltOut t c (ff (decodeF t x) (decodeF t y)) else intOut t c (fi (intOf t x) (intOf t y))

def laneAdd (t : Ty) (c : Ctl) := arith2 t c (· + ·) (fltAdd c.rnd)
def laneSub (t : Ty) (c : Ctl) := arith2 t c (· - ·) (fun a b => fltAdd c.rnd a b.negate)
def laneMul (t : Ty) (c : Ctl) := arith2 t c (· * ·) fltMul
def laneMin (t : Ty) (c : Ctl) := arith2 t c min fltMin
def laneMax (t : Ty) (c : Ctl) := arith2 t c max fltMax
def laneFma (t : Ty) (c : Ctl) (x y z : Nat) : Nat × Flags :=
  if tyIsFloat t then fltOut t c (fltFma c.rnd (decodeF t x) (decodeF t y) (decodeF t z))
  else intOut t c (intOf t x * intOf t y + intOf t z)

/-- 07 R159: bitwise on the lane's bits; a modifier on a floating-point type acts on the value of the pattern. -/
def laneBits (t : Ty) (c : Ctl) (op : Nat → Nat → Nat) (x y : Nat) : Nat × Flags :=
  let r := op x y
  if tyIsFloat t then
    (match c.md with
      | none => (r, 0)
      | some _ => deliverF t c.rnd c.e4ovf c.md (decodeF t r))
  else intOut t c (intOf t r)

/-- 03 R78: the amount of a vector shift. -/
def laneAmount (t : Ty) (y : Nat) : Nat := y % tyWidth t
def laneShl (t : Ty) (c : Ctl) (x y : Nat) := intOut t c (intOf t x * (2 ^ laneAmount t y : Nat))
def laneShr (t : Ty) (c : Ctl) (x y : Nat) := intOut t c (shrBits (tyWidth t) x (laneAmount t y))
def laneSra (t : Ty) (c : Ctl) (x y : Nat) := intOut t c (sraBits (tyWidth t) x (laneAmount t y))

/-- 07 R160: a compare of lanes. -/
def laneCmp (t : Ty) (cc : Nat) (x y : Nat) : Nat × Flags :=
  let ones := 2 ^ tyWidth t - 1
  if tyIsFloat t then
    let a := decodeF t x
    let b := decodeF t y
    ((if fltCond cc a b then ones else 0), fltCondFlags cc a b)
  else ((if intCond cc (intOf t x) (intOf t y) (Nat.land x y != 0) then ones else 0), 0)

/-- 07 R161: VSEL. -/
def laneSel (x y z : Nat) : Nat × Flags := (if z != 0 then x else y, 0)

/-- 07 R161: VBCAST. -/
def bcast (t : Ty) (s : Word) : Vec := ofLanes (tyWidth t) (List.replicate (tyLanes t) s.toNat)

/-- 07 R161: VIOTA. -/
def iota (t : Ty) (a b : Word) : Vec :=
  ofLanes (tyWidth t) ((List.range (tyLanes t)).map fun i => wrapInt (tyWidth t) (intOf t a.toNat + i * intOf t b.toNat))

/-- 07 R161: VPERM. -/
def perm (t : Ty) (a b : Vec) : Vec :=
  ofLanes (tyWidth t) ((List.range (tyLanes t)).map fun i => lane (tyWidth t) a (lane (tyWidth t) b i % tyLanes t))

/-- 07 R161: VSLIDE. -/
def slide (t : Ty) (a b : Vec) (s : Word) : Vec :=
  let L := tyLanes t
  let n := s.toNat % (2 * L)
  ofLanes (tyWidth t) ((List.range L).map fun i =>
    let j := (i + n) % (2 * L)
    if j < L then lane (tyWidth t) a j else lane (tyWidth t) b (j - L))

/-- The bits of lanes `lo` to `lo + n - 1` of width `w`. -/
def laneSpan (w lo n : Nat) : Vec := BitVec.ofNat 2048 ((2 ^ (w * n) - 1) <<< (w * lo))

/-- 07 R162: VCVT. -/
def vcvt (dst src : Ty) (p : Nat) (c : Ctl) (m a : Vec) : VRes :=
  let ws := tyWidth src
  let wd := tyWidth dst
  if ws < wd then
    collect wd m ((List.range (tyLanes dst)).map fun i => convert dst src c.rnd c.e4ovf c.md (lane ws a (p * tyLanes dst + i)))
  else
    let n := tyLanes src
    let lo := if wd < ws then p * n else 0
    let mm := m &&& laneSpan wd lo n
    collect wd mm ((List.range (tyLanes dst)).map fun j =>
      if lo ≤ j && j < lo + n then convert dst src c.rnd c.e4ovf c.md (lane ws a (j - lo)) else (0, 0))

/-- A sum of exact products under 03 R80, R82: its exact value and the flags of its special cases. -/
structure StepAcc where
  nan : Bool
  pinf : Bool
  ninf : Bool
  allNegZero : Bool
  /-- the sum in units of 2^-128 -/
  sum : Int
  fl : Flags
  deriving DecidableEq, Repr

/-- One product added to a step (03 R80, R82). The inputs are 8-bit types, whose products are multiples of 2^-64. -/
def StepAcc.add (s : StepAcc) (a b : FVal) : StepAcc :=
  let fl := s.fl ||| a.sigFlag ||| b.sigFlag
  if a.isNaN || b.isNaN then { s with nan := true, fl := fl }
  else
    match fltMul a b with
    | (.nan _, f) => { s with nan := true, fl := fl ||| f }
    | (.inf n, _) => if n then { s with ninf := true, fl := fl } else { s with pinf := true, fl := fl }
    | (.fin n m e _, _) =>
      if m == 0 then { s with allNegZero := s.allNegZero && n, fl := fl }
      else
        let v : Int := (m <<< (e + 128).toNat : Nat)
        { s with allNegZero := false, sum := s.sum + (if n then -v else v), fl := fl }

/-- 03 R82: the exact value of a step sum. -/
def StepAcc.value (s : StepAcc) : FVal × Flags :=
  if s.pinf && s.ninf then (.nan false, s.fl ||| fNV)
  else if s.nan then (.nan false, s.fl)
  else if s.pinf then (.inf false, s.fl)
  else if s.ninf then (.inf true, s.fl)
  else if s.sum == 0 then (.zero s.allNegZero, s.fl)
  else (.fin (decide (s.sum < 0)) s.sum.natAbs (-128) false, s.fl)

/-- 03 R80, R82: the exact sum of the products of 8-bit floating-point inputs; an empty sum is +0. -/
def stepSum8 (ta tb : Ty) (l : List (Nat × Nat)) : FVal × Flags :=
  (l.foldl (fun (s : StepAcc) p => s.add (decodeF ta p.1) (decodeF tb p.2))
    (⟨false, false, false, !l.isEmpty, 0, 0⟩ : StepAcc)).value

/-- 07 R163: VDOT4. -/
def vdot4 (t : Ty) (c : Ctl) (m a b z : Vec) : VRes :=
  collect 32 m ((List.range 64).map fun i =>
    let prods := (List.range 4).map fun j => (lane 8 a (4 * i + j), lane 8 b (4 * i + j))
    if tyIsFloat t then
      let (s, f1) := stepSum8 t t prods
      fltOut 8 c (let (r, f2) := fltAdd c.rnd s (decodeF 8 (lane 32 z i)); (r, f1 ||| f2))
    else
      let rt : Ty := if t == 0 then 2 else 6
      let s : Int := (prods.map fun p => intOf t p.1 * intOf t p.2).foldl (· + ·) 0
      intOut rt c (s + intOf rt (lane 32 z i)))

/-- 07 R165: lane `i` of width `w` takes part when its chunk's mask bit is 1. -/
def takesPart (w : Nat) (k : Word) (i : Nat) : Bool := k.getLsbD (i * w / 32)

/-- 07 R165: RedAddFloat, one level at a time. -/
def treeAdd (m : Rnd) : Nat → List (Nat × Flags) → Nat × Flags
  | 0, l => l.headD (0, 0)
  | n + 1, l =>
    let next := (List.range (l.length / 2)).map fun i =>
      let x := l.getD (2 * i) (0, 0)
      let y := l.getD (2 * i + 1) (0, 0)
      let (s, f1) := fltAdd m (decodeF 8 x.1) (decodeF 8 y.1)
      let (r, f2) := roundF 8 m false s
      (r, x.2 ||| y.2 ||| f1 ||| f2)
    treeAdd m n next

/-- 07 R165: VRED on integer types: the 64-bit result. -/
def redInt (t : Ty) (op : Nat) (k : Word) (a : Vec) : Nat :=
  let w := tyWidth t
  let sel := (List.range (tyLanes t)).filter (takesPart w k)
  let vals := sel.map fun i => lane w a i
  match op with
  | 0 => wrapInt 64 ((vals.map (intOf t)).foldl (· + ·) 0)
  | 1 => wrapInt 64 ((vals.map (intOf t)).foldl min (intMax (tySigned t) w))
  | 2 => wrapInt 64 ((vals.map (intOf t)).foldl max (intMin (tySigned t) w))
  | 3 => wrapInt 64 (intOf t (vals.foldl Nat.land (2 ^ w - 1)))
  | 4 => wrapInt 64 (intOf t (vals.foldl Nat.lor 0))
  | _ => wrapInt 64 (intOf t (vals.foldl Nat.xor 0))

/-- A lane widened exactly to f32, with NV for a signalling NaN (03 R69, R73). -/
def widen32 (t : Ty) (b : Nat) : Nat × Flags :=
  let x := decodeF t b
  ((roundF 8 .rne false x).1, x.sigFlag)

/-- 07 R165: VRED on floating-point types: an f32. -/
def redFlt (t : Ty) (op : Nat) (m : Rnd) (k : Word) (a : Vec) : Nat × Flags :=
  let w := tyWidth t
  let L := tyLanes t
  match op with
  | 0 =>
    let l := (List.range L).map fun i =>
      if takesPart w k i then widen32 t (lane w a i) else (0x80000000, 0)
    treeAdd m (if L == 64 then 6 else 7) l
  | 1 =>
    let l := (List.range L).filter (takesPart w k)
    let (x, fl) := l.foldl (fun (x, fl) i => let (y, f) := fltMin x (decodeF t (lane w a i)); (y, fl ||| f)) (.inf false, 0)
    ((roundF 8 .rne false x).1, fl)
  | _ =>
    let l := (List.range L).filter (takesPart w k)
    let (x, fl) := l.foldl (fun (x, fl) i => let (y, f) := fltMax x (decodeF t (lane w a i)); (y, fl ||| f)) (.inf true, 0)
    ((roundF 8 .rne false x).1, fl)

/-- 07 R166: VSCAN, lane by lane. -/
def scanStep (t : Ty) (op : Nat) (m : Rnd) (acc x : Nat) : Nat × Flags :=
  if tyIsFloat t then
    match op with
    | 0 => let (s, f1) := fltAdd m (decodeF t acc) (decodeF t x); let (r, f2) := roundF t m false s; (r, f1 ||| f2)
    | 1 => let (s, f1) := fltMax (decodeF t acc) (decodeF t x); ((roundF t m false s).1, f1)
    | _ => let (s, f1) := fltMin (decodeF t acc) (decodeF t x); ((roundF t m false s).1, f1)
  else
    match op with
    | 0 => (wrapInt (tyWidth t) (intOf t acc + intOf t x), 0)
    | 1 => (wrapInt (tyWidth t) (max (intOf t acc) (intOf t x)), 0)
    | _ => (wrapInt (tyWidth t) (min (intOf t acc) (intOf t x)), 0)

/-- 07 R166: the running results of VSCAN. -/
def scanLanes (t : Ty) (op : Nat) (m : Rnd) (carry : Nat) (l : List Nat) : List (Nat × Flags) :=
  (l.foldl (fun (st : Nat × List (Nat × Flags)) x =>
    let r := scanStep t op m st.1 x
    (r.1, r :: st.2)) (carry, [])).2.reverse

def vscan (t : Ty) (op : Nat) (m : Rnd) (mask a : Vec) (carry : Word) : VRes :=
  collect (tyWidth t) mask (scanLanes t op m (carry.toNat % 2 ^ tyWidth t) (lanes (tyWidth t) a))

/-- 07 R167: VAMAX: the magnitude as an f32 and the index. -/
def amax (t : Ty) (k : Word) (a : Vec) : Vec × Flags :=
  let w := tyWidth t
  let sel := (List.range (tyLanes t)).filter (takesPart w k)
  let fl := sel.foldl (fun fl i => fl ||| (decodeF t (lane w a i)).sigFlag) 0
  match sel.find? (fun i => (decodeF t (lane w a i)).isNaN) with
  | some i => (ofLanes 32 [0x7FC00000, i], fl)
  | none =>
    match sel with
    | [] => (ofLanes 32 [0, 0xFFFFFFFF], 0)
    | i0 :: rest =>
      let best := rest.foldl (fun b i =>
        if fltLt (decodeF t (lane w a b)).abs (decodeF t (lane w a i)).abs then i else b) i0
      (ofLanes 32 [(roundF 8 .rne false (decodeF t (lane w a best)).abs).1, best], fl)

/-- 07 R168: VQUANT. -/
def vquant (t : Ty) (p : Nat) (c : Ctl) (m a : Vec) (sc : Word) : VRes :=
  let w := tyWidth t
  let mm := m &&& laneSpan w (64 * p) 64
  collect w mm ((List.range (tyLanes t)).map fun j =>
    if 64 * p ≤ j && j < 64 * p + 64 then
      let (x, f1) := fltMul (decodeF 8 (lane 32 a (j - 64 * p))) (decodeF 8 (sc.toNat % 2 ^ 32))
      if tyIsFloat t then
        let (y, f2) := roundF t c.rnd c.e4ovf x
        (y, f1 ||| f2)
      else
        let (y, f2) := floatToInt t c.rnd none x
        (y, f1 ||| f2)
    else (0, 0))

/-- 07 R169: the order of magnitudes in VCMPR: a NaN ranks above every number. -/
def magLess (t : Ty) (x y : Nat) : Bool :=
  if tyIsFloat t then
    let a := decodeF t x
    let b := decodeF t y
    if a.isNaN then false else if b.isNaN then true else fltLt a.abs b.abs
  else decide ((intOf t x).natAbs < (intOf t y).natAbs)

/-- 07 R169: the two kept indices of a group of four, the lower first. -/
def keptTwo (t : Ty) (g : List Nat) : Nat × Nat :=
  let rank := fun i => ((List.range 4).filter fun j =>
    magLess t (g.getD i 0) (g.getD j 0) || (!magLess t (g.getD j 0) (g.getD i 0) && decide (j < i))).length
  match (List.range 4).filter fun i => rank i < 2 with
  | [i, j] => (i, j)
  | _ => (0, 1)

/-- 07 R169: VCMPR. -/
def vcmpr (t : Ty) (a : Vec) : Vec :=
  let w := tyWidth t
  let ls := lanes w a
  let groups := (List.range (tyLanes t / 4)).map fun g => (List.range 4).map fun j => ls.getD (4 * g + j) 0
  let kept := groups.map (keptTwo t)
  let vals := (groups.zip kept).flatMap fun (g, k) => [g.getD k.1 0, g.getD k.2 0]
  let meta4 := kept.map fun k => k.1 + 4 * k.2
  let lo := vals.foldr (fun x acc => x % 2 ^ w + 2 ^ w * acc) 0
  let hi := meta4.foldr (fun x acc => x % 16 + 16 * acc) 0
  BitVec.ofNat 2048 (lo + 2 ^ 1024 * hi)

/-! ### Top-k lists -/

/-- 07 R170: an entry, index and value. -/
structure TopEntry where
  index : Nat
  value : Nat
  deriving DecidableEq, Repr

/-- 07 R170: Key(e) > Key(f) as a strict order of values. -/
def keyLess (t : Ty) (x y : Nat) : Bool :=
  if t == 2 then decide (signedOf 32 x < signedOf 32 y)
  else if t == 6 then decide (x % 2 ^ 32 < y % 2 ^ 32)
  else
    let a := decodeF 8 x
    let b := decodeF 8 y
    if a.isNaN then false else if b.isNaN then true else fltBelow a b

/-- 07 R170: Before(e, f). -/
def before (t : Ty) (e f : TopEntry) : Bool :=
  if keyLess t f.value e.value then true
  else if keyLess t e.value f.value then false
  else decide (e.index < f.index)

/-- Insertion into a list sorted by `before`, behind the entries that rank equal. -/
def insertTop (t : Ty) (e : TopEntry) : List TopEntry → List TopEntry
  | [] => [e]
  | f :: r => if before t e f then e :: f :: r else f :: insertTop t e r

def sortTop (t : Ty) (l : List TopEntry) : List TopEntry := l.foldl (fun acc e => insertTop t e acc) []

/-- 07 R170: the empty entry's value. -/
def emptyTop (t : Ty) : TopEntry :=
  ⟨0xFFFFFFFF, if t == 2 then 0x80000000 else if t == 6 then 0 else 0xFF800000⟩

/-- 07 R171, R172: the first `k` entries, the rest empty, as a register pair. -/
def topPair (t : Ty) (k : Nat) (l : List TopEntry) : Vec × Vec :=
  let es := (l.take (min k 64)) ++ List.replicate 64 (emptyTop t)
  let word := fun (e : TopEntry) => e.index % 2 ^ 32 * 2 ^ 32 + e.value % 2 ^ 32
  (ofLanes 64 ((es.take 32).map word), ofLanes 64 (((es.drop 32).take 32).map word))

/-- 07 R170: the entries of a register pair. -/
def entriesOf (lo hi : Vec) : List TopEntry :=
  (lanes 64 lo ++ lanes 64 hi).map fun x => ⟨x / 2 ^ 32, x % 2 ^ 32⟩

/-- 07 R171: VTOPK; on types 8 to 10 the key is that of the widened lane. -/
def vtopk (t : Ty) (k : Word) (a : Vec) (n base : Word) : Vec × Vec :=
  let w := tyWidth t
  let sel := (List.range (tyLanes t)).filter (takesPart w k)
  let es := sel.map fun i => (⟨(base.toNat + i) % 2 ^ 32,
    if tyIsFloat t then (widen32 t (lane w a i)).1 else lane w a i⟩ : TopEntry)
  topPair t n.toNat (sortTop t es)

/-- 07 R172: VMERGEK. -/
def vmergek (t : Ty) (alo ahi blo bhi : Vec) (n : Word) : Vec × Vec :=
  topPair t n.toNat (sortTop t (entriesOf alo ahi ++ entriesOf blo bhi))

/-- 07 R173: VDesc. Its inputs are the prefix sums and the target: a signalling NaN among them raises NV, and a target
that is a NaN is delivered as the canonical one (03 R69, log entry 60). -/
def vdesc (a b : Vec) (start : Bool) : Vec × Flags :=
  let el := fun j => decodeF 8 (lane 32 a j)
  let sig := ((List.range 64).map fun j => (el j).sigFlag).foldl (· ||| ·) 0
  let (t, idx, f0) :=
    if start then
      let (x, f1) := fltMul (uniformOf (lane 64 b 0)) (el 63)
      let (r, f2) := rne32 x
      (r, 0, f1 ||| f2)
    else (lane 32 b 0, lane 32 b 1, (decodeF 8 (lane 32 b 0)).sigFlag)
  let j := match (List.range 64).find? (fun j => fltLt (decodeF 8 t) (el j)) with
    | some j => j
    | none =>
      match ((List.range 64).filter fun j => fltLt (if j == 0 then .zero false else el (j - 1)) (el j)).getLast? with
      | some j => j
      | none => 0
  let (t2, f3) :=
    if j == 0 then ((if (decodeF 8 t).isNaN then canonNaN 8 else t), 0)
    else
      let (x, f1) := fltAdd .rne (decodeF 8 t) (el (j - 1)).negate
      let (r, f2) := rne32 x
      (r, f1 ||| f2)
  (ofLanes 32 [t2, (idx * 64 + j) % 2 ^ 32], sig ||| f0 ||| f3)

/-- 07 R174: VRAND. -/
def vrand (key ctr : Word) : Vec :=
  ofLanes 64 ((List.range 32).map fun j => rand64 key.toNat ((ctr.toNat + j) % 2 ^ 64))

/-- 07 R175: VKOP. -/
def kop (tt : BitVec 4) (a b : Word) : Word :=
  BitVec.ofNat 64 ((List.range 64).foldr (fun i acc => (truth tt (a.getLsbD i) (b.getLsbD i)).toNat + 2 * acc) 0)

/-- 07 R176: ANY and ALL. -/
def maskAny (a : Vec) : Word :=
  BitVec.ofNat 64 ((List.range 64).foldr (fun i acc => (lane 32 a i != 0).toNat + 2 * acc) 0)
def maskAll (a : Vec) : Word :=
  BitVec.ofNat 64 ((List.range 64).foldr (fun i acc => (lane 32 a i == 2 ^ 32 - 1).toNat + 2 * acc) 0)

/-! ### Array sums -/

/-- 03 R81: the exact products of a group, kept above q. -/
def group16 (l : List (FVal × FVal)) : FVal × Flags :=
  let sp := l.foldl (fun (s : StepAcc) p =>
      let fl := s.fl ||| p.1.sigFlag ||| p.2.sigFlag
      if p.1.isNaN || p.2.isNaN then { s with nan := true, fl := fl }
      else match fltMul p.1 p.2 with
        | (.nan _, f) => { s with nan := true, fl := fl ||| f }
        | (.inf n, _) => if n then { s with ninf := true, fl := fl } else { s with pinf := true, fl := fl }
        | (.fin n m _ _, _) => { s with allNegZero := s.allNegZero && n && m == 0, fl := fl })
    (⟨false, false, false, !l.isEmpty, 0, 0⟩ : StepAcc)
  if sp.pinf || sp.ninf || sp.nan then sp.value
  else
    let ps := l.filterMap fun p =>
      match fltMul p.1 p.2 with
      | (.fin n m e _, _) => if m == 0 then none else some (n, m, e)
      | _ => none
    match ps with
    | [] => (.zero sp.allNegZero, sp.fl)
    | p :: r =>
      let top := fun (x : Bool × Nat × Int) => x.2.2 + bitLen x.2.1 - 1
      let q := r.foldl (fun e x => max e (top x)) (top p) - 40
      let kept := (p :: r).map fun (n, m, e) =>
        let (u, lost) := if q ≤ e then (m <<< (e - q).toNat, false)
          else (m >>> (q - e).toNat, m % 2 ^ (q - e).toNat != 0)
        ((if n then -(u : Int) else (u : Int)), lost)
      let s := kept.foldl (fun s x => s + x.1) (0 : Int)
      let lost := kept.any (·.2)
      let fl := sp.fl ||| (if lost then fNX else 0)
      if s == 0 then (.zero false, fl) else (.fin (decide (s < 0)) s.natAbs q false, fl)

/-- 03 R80, R81: a rounded sum added to a cell, two roundings. -/
def addCell (acc : Nat) (s : FVal × Flags) : Nat × Flags :=
  let (r, f1) := rne32 s.1
  let (x, f2) := fltAdd .rne (decodeF 8 acc) (decodeF 8 r)
  let (y, f3) := rne32 x
  (y, s.2 ||| f1 ||| f2 ||| f3)

/-- The groups of 32 of a step (03 R81). -/
def groups32 {α : Type} (l : List α) : List (List α) :=
  (List.range ((l.length + 31) / 32)).map fun g => (l.drop (32 * g)).take 32

/-- The exact sum of integer products (03 R80). -/
def stepInt (ta tb : Ty) (l : List (Nat × Nat)) : FVal :=
  FVal.ofInt ((l.map fun p => intOf ta p.1 * intOf tb p.2).foldl (· + ·) 0)

/-- 16-bit floating-point inputs (03 R81). -/
def is16 (t : Ty) : Bool := t == 9 || t == 10

/-- 03 R80, R81: a reduction step added to a cell that holds the f32 `acc`. -/
def stepInto (ta tb : Ty) (l : List (Nat × Nat)) (acc : Nat) : Nat × Flags :=
  if is16 ta then
    (groups32 l).foldl (fun (a, fl) g =>
      let (y, f) := addCell a (group16 (g.map fun p => (decodeF ta p.1, decodeF tb p.2)))
      (y, fl ||| f)) (acc, 0)
  else if tyIsFloat ta then addCell acc (stepSum8 ta tb l)
  else addCell acc (stepInt ta tb l, 0)

/-- A reduction step on its own, rounded once to f32; one of 16-bit inputs starts from the rounded sum of its first group
(03 R80, R81; log entry 31). -/
def stepAlone (ta tb : Ty) (l : List (Nat × Nat)) : Nat × Flags :=
  if is16 ta then
    match groups32 l with
    | [] => (0, 0)
    | g :: r =>
      let s := group16 (g.map fun p => (decodeF ta p.1, decodeF tb p.2))
      let (y, f) := rne32 s.1
      r.foldl (fun (a, fl) g =>
        let (y, f) := addCell a (group16 (g.map fun p => (decodeF ta p.1, decodeF tb p.2)))
        (y, fl ||| f)) (y, s.2 ||| f)
  else if tyIsFloat ta then
    let s := stepSum8 ta tb l
    let (y, f) := rne32 s.1
    (y, s.2 ||| f)
  else rne32 (stepInt ta tb l)

/-- 03 R83: PairwiseSum32. -/
def pairwise32 (l : List Nat) : Nat × Flags := treeAdd .rne 5 (l.map fun x => (x, 0))

end Sys2Proof.Machine
end

