-- ==== Sys2Proof/Config.lean ====
section
/-! DEFINITION. What an implementation fixes, and the free values: constants with no body. -/
namespace Sys2Proof.Config

/-- A value the spec leaves open (04 R100, 01 R31, 12 R298 and others): the machine's free counter
picks it, and nothing is known of it (log entry 1). -/
opaque freeBits : (w : Nat) → Nat → BitVec w

/-- What another package answers, by the number of the packet that asked it (log entry 1). -/
opaque farBits : (w : Nat) → Nat → BitVec w

/-- How far package time goes on beyond one cycle in a step (log entry 2). -/
opaque delay : Nat → Nat

/-- Which of several enabled agents moves next (log entry 3). -/
opaque choose : Nat → Nat

/-- What measurement register `r` is extended by for a value whose bytes the spec does not give: the ROM's identity (0),
training values (4), ports up (5), the journal summary (6) (19 R415). -/
opaque measure : (r : Nat) → (value : Nat) → BitVec 256

/-- The schedule-table digest that a firmware image holds (17 R378). -/
opaque schedDigest : (image : BitVec 256) → BitVec 256

/-- The ML-DSA-44 identity key that a package derives from the secret in its fuses (19 R420). -/
opaque identityKey : (secret : BitVec 256) → BitVec 256

/-- The Aroft-signed certificate of an identity key (19 R420). -/
opaque certificate : (key : BitVec 256) → List Byte

/-- The signature of a measurement answer under the identity key (19 R420, R421). -/
opaque signature : (key : BitVec 256) → List Byte → List Byte

end Sys2Proof.Config
end

