-- ==== Sys2Proof/Machine/CoreState.lean ====
section
/-! DEFINITION. The state of a context and of a core (02 R45 to R56, R435, 01 R20 to R33, 09 R208 to R220), as
plain data. -/
namespace Sys2Proof.Machine

/-- 02 R45: an address generator. -/
structure Gen where
  base : Word
  stride : Vector (BitVec 32) 6
  deriving DecidableEq, Repr

/-- 02 R45, 04 R99: an entry of an operand queue. A reserved entry, whose value has not landed, has
`landed = false` and the number by which its producer finds it. -/
structure QEntry where
  id : Nat
  val : Vec
  token : Bool
  landed : Bool
  deriving DecidableEq, Repr

/-- 02 R45, R435: an operand queue, oldest entry first, and the physical index of its head. -/
structure OpQueue where
  ents : List QEntry
  head : BitVec 4
  deriving DecidableEq, Repr

/-- A register of a context, as a destination or as a scoreboard entry. -/
inductive Reg where
  | s (n : BitVec 6)
  | p (n : BitVec 4)
  | v (n : BitVec 5)
  | k (n : BitVec 3)
  | b (n : BitVec 2)
  /-- component 0 is the base, 1 to 6 the strides (06 R145) -/
  | g (n : BitVec 3) (comp : BitVec 3)
  | x (n : BitVec 2)
  | lcnt (n : BitVec 3)
  /-- a system register held as a word (02 R52) -/
  | sr (n : BitVec 12)
  /-- a reserved queue entry -/
  | q (n : BitVec 2) (id : Nat)
  /-- no register: the result only raises flags -/
  | none
  deriving DecidableEq, Repr

/-- A fixed-latency result in flight (01 R25, 04 R100, R101). -/
structure Pend where
  /-- issued by the access slice of a decoupled nest -/
  acc : Bool
  reg : Reg
  val : Vec
  mask : Vec
  /-- the issue cycle, of its slice, of the bundle that issued it -/
  at_ : Nat
  /-- the issue cycle from which it may be read -/
  due : Nat
  fl : Flags
  /-- its place among the operations of the context: requests and array operations issued before it have lower numbers -/
  seq : Nat
  deriving DecidableEq, Repr

/-- A register pending on the scoreboard, and the request or array operation that will write it (01 R20). -/
structure Score where
  id : Nat
  reg : Reg
  deriving DecidableEq, Repr

/-- 02 R435, 01 R26 to R33: the nest state. -/
structure Nest where
  active : Bool
  dec : Bool
  adone : Bool
  xdone : Bool
  /-- depth - 1 -/
  depth : BitVec 3
  /-- body length - 1 -/
  len : BitVec 6
  count : Vector (BitVec 32) 6
  xidx : Vector (BitVec 32) 6
  aidx : Vector (BitVec 32) 6
  xpos : BitVec 6
  apos : BitVec 6
  body : Word
  deriving DecidableEq, Repr

/-- 01 R31: a register that a slice writes inside the decoupled nest; `none` stands for any register: the nest began with a
body that could not be read whole. -/
structure Wrote where
  acc : Bool
  reg : Reg
  deriving DecidableEq, Repr

/-- 02 R54: a write to FMT whose four-cycle shadow may still last: the value before it, and the last issue
cycle of each slice that uses that value. -/
structure FmtShadow where
  old : BitVec 16
  untilX : Nat
  untilA : Nat
  deriving DecidableEq, Repr

/-- A trap cause with what the device writes for it (11 R272). -/
structure Cause where
  code : BitVec 9
  slot : BitVec 3
  addr : Word
  info : Word
  deriving DecidableEq, Repr

/-- 11 R278: an attributed cause that has been reported: the request, the slice and bundle of its access, whether
it issued in handler mode, the store data of an STF (08 R189), and the FIFOs that a failed command feeds (12 R300). -/
structure Report where
  id : Nat
  acc : Bool
  bundle : Nat
  elem : Nat
  handler : Bool
  cause : Cause
  data : Word
  /-- bit 0 FS, 1 FA, 2 FB, 3 FC -/
  feeds : BitVec 4
  deriving DecidableEq, Repr

/-- A hold of later accesses (08 R204, R205, 10 R256): the paths it holds and the accesses waited for. With
`loads` set it holds every access; otherwise it holds stores and releases only. -/
structure HoldRec where
  mask : BitVec 8
  all : Bool
  ids : List Nat
  deriving DecidableEq, Repr

/-- 01 R15, R16, 11 R288, R292: the life of a context slot. -/
inductive Life where
  | free | reserved | running | leaving | saving | saved | restoring
  deriving DecidableEq, Repr

/-- What blocks a slice besides its operands: a barrier it has arrived at (08 R203), a stream instruction, the Triptych
operation it waits for. -/
inductive Wait where
  | none
  /-- HBAR: its arrival, a release, is held back as a request (10 R256) -/
  | arrive (id : Nat)
  /-- HBAR: the group and phase whose arrival has been counted -/
  | hbar (g : BitVec 3) (phase : Nat)
  /-- a blocking M-slot operation until the array has done it (09 R223, R226, R227) -/
  | array (id : Nat)
  /-- a stream command that blocks its slice until it has completed (09 R247) -/
  | strm (id : Nat)
  deriving DecidableEq, Repr

/-- A context (02 R45, R52). -/
structure Ctx where
  life : Life
  /-- the stream it belongs to, in State.streams -/
  stream : Nat
  rank : BitVec 8
  coreIdx : BitVec 8
  clusterIdx : BitVec 4
  rowsize : BitVec 9
  /-- the package time at which it becomes ready (01 R15) -/
  startAt : Nat
  s : Vector Word 64
  shadow : Vector Word 6
  p : BitVec 16
  v : Vector Vec 32
  k : Vector Word 8
  b : Vector Word 4
  g : Vector Gen 8
  q : Vector OpQueue 4
  x : Vector (BitVec 128) 4
  nest : Nest
  wrote : List Wrote
  hmode : Bool
  /-- a nest suspended at trap entry (11 R281) -/
  susp : Option Nest
  /-- the next bundle of the execute slice or of the only slice -/
  pc : Word
  fmt : BitVec 16
  fmtOld : List FmtShadow
  codeBase : Word
  codeLimit : Word
  tvec : Word
  retry : BitVec 16
  sticky : Flags
  acqTime : Nat
  gsAcqTime : Nat
  lcnt : Vector (BitVec 32) 6
  tcause : Word
  tpc : Word
  tslot : Word
  taddr : Word
  tinfo : Word
  dnest : Bool
  aslice : Bool
  saveArea : Word
  preempt : Bool
  deadline : Word
  owns : BitVec 40
  streamId : BitVec 32
  /-- issue time of the execute or only slice, and of the access slice (01 R24, R30) -/
  issueX : Nat
  issueA : Nat
  /-- the number of the next bundle of an access slice of the context, for attribution distances (08 R182) -/
  countA : Nat
  /-- that number when the access slice of the current nest began: its accesses are those from then on (11 R278) -/
  nestA : Nat
  pend : List Pend
  score : List Score
  reports : List Report
  holds : List HoldRec
  waitX : Wait
  waitA : Wait
  /-- those that a trap has interrupted, until RFT -/
  suspX : Wait
  suspA : Wait
  /-- HBAR arrivals this context has made in each group (08 R203) -/
  hbarPhase : Vector Nat 8
  /-- issue cycles not yet charged to the stream's queue (17 R382) -/
  charge : Nat
  /-- the bulk copy engine chosen for the context (09 R229) -/
  bce : BitVec 3
  /-- an RFT that waits for results and accesses (06 R152, 11 R283), with the `s61` it read (08 R190) -/
  rftWait : Option Word
  /-- the address a save resumes at (11 R288) -/
  resumePc : Word
  deriving DecidableEq, Repr

/-- A standing wait on a flag (08 R198), in order of presentation. A granted wait has passed its test. -/
structure FlagWait where
  ctx : BitVec 2
  acc : Bool
  pc : Word
  flag : BitVec 5
  n : BitVec 16
  consume : Bool
  granted : Bool
  deriving DecidableEq, Repr

/-- 09 R208: an entry of a matrix FIFO, with its poison marker and its origin: the command that pushed it, or
the link buffer slot it was taken from. -/
structure FifoEntry where
  val : Vec
  poison : Bool
  link : Bool
  cmd : Nat
  /-- its number in the stream of that command: the entry (CPQ, WSTR) or the block (KVWALK) -/
  idx : Nat
  /-- the pages pinned for the block whose last entry this is (12 R322), as their keys -/
  pins : List Nat
  deriving DecidableEq, Repr

/-- 09 R215: the stationary tile. -/
structure Tile where
  rows : Vector Vec 64
  poison : BitVec 64
  sparse : Bool
  valid : Bool
  aty : Ty
  deriving DecidableEq, Repr

/-- 02 R61, 09 R220: the chain state that the Triptych holds for its owner. -/
structure Chain where
  q : Vector Vec 64
  com : Vector (BitVec 4096) 64
  m : Vector (BitVec 32) 64
  l : Vector (BitVec 32) 64
  a : Vector (BitVec 32) 64
  blk : Word
  qpos : Word
  kpos : Word
  left : Word
  poison : BitVec 64
  empty : BitVec 64
  cfg : BitVec 1536
  deriving DecidableEq, Repr

/-- An operation of the array queue (09 R209), with what it read at issue. -/
structure ArrayOp where
  id : Nat
  ctx : BitVec 2
  acc : Bool
  bundle : Nat
  handler : Bool
  instr : Instr
  /-- mpN at issue -/
  mp : BitVec 128
  /-- FMT in force at issue (02 R54) -/
  fmt : BitVec 16
  /-- the scalar read at issue -/
  sA : Word
  /-- the vector read at issue (TXBIND), or the old destinations (MMS.acc) -/
  vs : List Vec
  pc : Word
  /-- accesses and commands that must be performed before it makes an access (08 R205) -/
  waits : List Nat
  /-- FIFO entries taken so far: those of FS, FA or FC (a plain operation), of FA (a chain) -/
  got : List FifoEntry
  /-- those of FB -/
  gotB : List FifoEntry
  /-- those of FC, in a chain -/
  gotC : List FifoEntry
  deriving DecidableEq, Repr

/-- 09 R229: the engines that take commands from a core. -/
inductive EngineKind where
  | ce0 | ce1 | bce | wsu | pages | queues | walker
  deriving DecidableEq, Repr

/-- A command of an engine (09 R229), with what it read at issue and how far it has come. -/
structure Command where
  id : Nat
  ctx : BitVec 2
  acc : Bool
  bundle : Nat
  handler : Bool
  /-- the access path (09 R231) -/
  path : BitVec 3
  eng : EngineKind
  instr : Instr
  desc : Vec
  sA : Word
  sB : Word
  /-- accesses and commands that must be performed before it starts (08 R205) -/
  waits : List Nat
  started : Bool
  /-- elements, bytes or entries done so far -/
  pos : Nat
  /-- bytes of the stream read so far (WSTR), or packed so far (CPQ) -/
  fill : Nat
  part : Vec
  partPoison : Bool
  /-- all of it is done; the completion is due -/
  done : Bool
  /-- an error and its address (09 R234) -/
  err : Option (BitVec 8 × Word)
  /-- bytes counted by an arrival word so far (08 R199) -/
  counted : Nat
  /-- suspended by a save (11 R290) -/
  susp : Bool
  /-- entries fetched and not yet pushed: of FA, or the only FIFO, and of FB (12 R316) -/
  outA : List FifoEntry
  outB : List FifoEntry
  /-- the entry at which a resumed feed goes on (11 R290) -/
  skip : Nat
  deriving DecidableEq, Repr

/-- A core (02 R49, 09 R208 to R209, 01 R21). -/
structure Core where
  ctx : Vector Ctx 4
  f : Vector (BitVec 16) 32
  fwaits : List FlagWait
  mp : Vector (BitVec 128) 8
  /-- the working accumulator bank: row r holds 128 f32 -/
  work : Vector (BitVec 4096) 64
  workPoison : BitVec 64
  tile : Tile
  fs : List FifoEntry
  fa : List FifoEntry
  fb : List FifoEntry
  fc : List FifoEntry
  arrayQ : List ArrayOp
  /-- the context that owns the Triptych (02 R50) -/
  owner : Option (BitVec 2)
  chain : Chain
  /-- a TXSTEP in progress: the blocks it has committed -/
  stepDone : Nat
  cmds : List Command
  /-- the selector: the context with the issue width and its consecutive issue cycles (01 R21, R22) -/
  sel : BitVec 2
  quantum : Nat
  /-- the end of a correctable-error freeze (18 R413) -/
  freeze : Option Nat
  deriving DecidableEq, Repr

/-- No nest. -/
def Nest.none : Nest :=
  { active := false, dec := false, adone := false, xdone := false, depth := 0, len := 0,
    count := Vector.replicate 6 0, xidx := Vector.replicate 6 0, aidx := Vector.replicate 6 0,
    xpos := 0, apos := 0, body := 0 }

def Gen.zero : Gen := ⟨0, Vector.replicate 6 0⟩
def OpQueue.empty : OpQueue := ⟨[], 0⟩

/-- A context slot that no stream holds. The values stand for registers that do not exist then (02 R45); a
stream start writes them all (log entry 6). -/
def Ctx.idle : Ctx :=
  { life := .free, stream := 0, rank := 0, coreIdx := 0, clusterIdx := 0, rowsize := 0, startAt := 0,
    s := Vector.replicate 64 0, shadow := Vector.replicate 6 0, p := 1, v := Vector.replicate 32 0,
    k := (Vector.replicate 8 0).set 0 (BitVec.allOnes 64), b := Vector.replicate 4 0,
    g := Vector.replicate 8 Gen.zero, q := Vector.replicate 4 OpQueue.empty, x := Vector.replicate 4 0,
    nest := Nest.none, wrote := [], hmode := false, susp := Option.none, pc := 0, fmt := 0x0DBB, fmtOld := [],
    codeBase := 0, codeLimit := 0, tvec := 0, retry := 256, sticky := 0, acqTime := 0, gsAcqTime := 0,
    lcnt := Vector.replicate 6 0, tcause := 0, tpc := 0, tslot := 0, taddr := 0, tinfo := 0, dnest := false,
    aslice := false, saveArea := 0, preempt := false, deadline := 0, owns := 0, streamId := 0, issueX := 0,
    issueA := 0, countA := 0, nestA := 0, pend := [], score := [], reports := [], holds := [], waitX := .none, waitA := .none, suspX := .none, suspA := .none,
    hbarPhase := Vector.replicate 8 0, charge := 0, bce := 0, rftWait := Option.none, resumePc := 0 }

def Tile.empty : Tile := ⟨Vector.replicate 64 0, 0, false, false, 11⟩

def Chain.fresh : Chain :=
  { q := Vector.replicate 64 0, com := Vector.replicate 64 0, m := Vector.replicate 64 0, l := Vector.replicate 64 0,
    a := Vector.replicate 64 0, blk := 0, qpos := 0, kpos := 0, left := 0, poison := 0, empty := 0, cfg := 0 }

/-- 02 R49: a core at core reset. -/
def Core.reset : Core :=
  { ctx := Vector.replicate 4 Ctx.idle, f := Vector.replicate 32 0, fwaits := [], mp := Vector.replicate 8 0,
    work := Vector.replicate 64 0, workPoison := 0, tile := Tile.empty, fs := [], fa := [], fb := [], fc := [],
    arrayQ := [], owner := Option.none, chain := Chain.fresh, stepDone := 0, cmds := [], sel := 0, quantum := 0,
    freeze := Option.none }

end Sys2Proof.Machine
end

