-- ==== Sys2Proof/Machine/DieState.lean ====
section
/-! DEFINITION. The state of a die, of its firmware, of a host function and of the island (17, 18, 19, 20), as plain
data. -/
namespace Sys2Proof.Machine

/-- 17 R368: the states of a queue. -/
inductive QState where
  | free | disabled | enabled | draining
  deriving DecidableEq, Repr

/-- 17 R383: a reservation of cores for a passed-over head. -/
structure CoreResv where
  stamp : Nat
  row : BitVec 256
  deriving DecidableEq, Repr

/-- 17 R366, R367: a resident queue. -/
structure QueueRec where
  word : Word
  rbase : Word
  cbase : Word
  ctl : Word
  head : BitVec 32
  tail : BitVec 32
  ctail : BitVec 32
  chead : BitVec 32
  /-- the TAIL handed to the Sorting office (17 R377) -/
  handed : BitVec 32
  deficit : Int
  passes : Nat
  resv : Option CoreResv
  killing : Bool
  ovf : Bool
  state : QState
  /-- streams waiting to resume, oldest first (17 R380) -/
  resume : List Nat
  retired : BitVec 32
  killed : BitVec 32
  deriving DecidableEq, Repr

/-- What a started queue command still waits for (17 R375, 18 R400). -/
inductive CmdPhase where
  /-- accepted by a bulk copy engine, not yet at work there (01 R36) -/
  | queued
  | moving | leases (till : Nat) | due
  deriving DecidableEq, Repr

/-- A queue command that has started and not completed (17 R375). -/
structure QCmd where
  id : Nat
  q : BitVec 8
  index : BitVec 32
  cmd : Bundle
  pos : Nat
  status : BitVec 8
  phase : CmdPhase
  /-- the bulk copy engine that has accepted a COPY, until its work is done (01 R36, 09 R229) -/
  bce : Option (BitVec 3)
  stream : Nat
  /-- the KIND of its record (17 R376) -/
  kind : BitVec 8
  a : Word
  b : Word
  regs : Vector Word 4
  /-- the leaves that a MAP or UNMAP has taken away: their page, the entry, and whether it is of the middle level
  (18 R400) -/
  pages : List (Nat × BitVec 128 × Bool)
  deriving DecidableEq, Repr

/-- 17 R386: an armed franking entry; the packet's eight words. -/
structure FrankEntry where
  words : Vector Word 8
  tenant : BitVec 8
  asid : BitVec 12
  /-- fired and not since seen a step (17 R387) -/
  seen : Bool
  deriving DecidableEq, Repr

/-- 18 R399: a cached translation and the end of its lease. -/
structure TlbEntry where
  asid : BitVec 12
  page : Nat
  pte : BitVec 128
  big : Bool
  till : Nat
  deriving DecidableEq, Repr

/-- 18 R403: a migration in progress. -/
structure Migration where
  asid : BitVec 12
  page : Nat
  inward : Bool
  pte : BitVec 128
  target : Nat
  deriving DecidableEq, Repr

/-- 18 R403: a host migration request in the fault queue of a die. -/
structure HostMigr where
  fn : BitVec 5
  /-- its place among those that have entered the queue -/
  turn : Nat
  asid : BitVec 12
  va : Word
  out : Bool
  deriving DecidableEq, Repr

/-- 18 R407: a parked record. The context is named by its package, die, core and context; `req` is its PARK. -/
structure ParkRec where
  kind : BitVec 2
  asid : BitVec 12
  word : Word
  seq : BitVec 32
  pkg : BitVec 15
  core : CoreRef
  ctx : BitVec 2
  req : Nat
  deriving DecidableEq, Repr

/-- 18 R407: a pigeonhole bucket, as the MSC holds it; memory holds its bytes. -/
structure Bucket where
  idx : BitVec 12
  next : Word
  recs : List ParkRec
  deriving DecidableEq, Repr

/-- 08 R192: a reservation of a word. -/
structure WordResv where
  word : Word
  asid : BitVec 12
  core : CoreRef
  ctx : BitVec 2
  till : Nat
  deriving DecidableEq, Repr

/-- 09 R225, 12 R306: an entry of a link buffer channel, with the chain that has taken it and not committed. -/
structure LinkEntry where
  val : Vec
  poison : Bool
  /-- held by the chain of a core until its block commits -/
  held : Bool
  deriving DecidableEq, Repr

/-- A virtual channel of a die port: what has arrived. -/
structure LinkChan where
  ents : List LinkEntry
  /-- credits that a saved chain, or its replayed entries, still withhold (02 R63) -/
  withheld : Nat
  /-- the other channel of the saved chain that withholds them -/
  mate : Option Nat
  /-- the number of entries that have ever left the buffer: the slot of the first one is this modulo 256 -/
  gone : Nat
  deriving DecidableEq, Repr

/-- 17 R363 to 20 R434: a die. -/
structure Die where
  up : Bool
  clusterOwner : Vector (BitVec 8) 16
  slotOwner : Vector (BitVec 8) 256
  slotNext : Option (Vector (BitVec 8) 256)
  queues : Vector QueueRec 256
  ctrOwner : Vector (BitVec 8) 256
  frankOwner : Vector (BitVec 8) 512
  chanOwner : Vector (BitVec 8) 24
  asidOwner : Vector (BitVec 8) 4096
  /-- the root tables that the firmware has allocated, by ASID -/
  roots : List (Nat × Nat)
  tablegen : BitVec 8
  /-- rounds and turns of the slot table begun so far, and the owner of the current turn -/
  rounds : Nat
  turns : Nat
  turnOwner : BitVec 8
  doorbells : BitVec 256
  cursor : BitVec 8
  urgentRun : Nat
  qcmds : List QCmd
  counters : Vector Word 256
  frank : Vector (Option FrankEntry) 512
  /-- fired actions in firing order (17 R387) -/
  fired : List FrankEntry
  /-- actions that the current franking slot may still perform (17 R377) -/
  frankLeft : Nat
  /-- URGENT queues whose head row could not be placed, each with the cores of that row: what they ask for is chosen and
  requested in a retirement slot (17 R384) -/
  asks : List (BitVec 8 × BitVec 256)
  /-- streams whose request is to be withdrawn in a retirement slot (17 R384) -/
  calls : List Nat
  sched : Vector (BitVec 8) 128
  /-- the table as the driver has written it so far -/
  schedBuf : Vector (BitVec 8) 128
  schedNext : Option (Vector (BitVec 8) 128)
  /-- frames begun and slots run so far (17 R377) -/
  frames : Nat
  slots : Nat
  lease : Nat
  hwin : Nat
  tlb : List TlbEntry
  tagBase : Nat
  tagBlocks : Nat
  buckets : List Bucket
  resvs : List WordResv
  reserve : List Nat
  faultBase : Word
  faultLog : Nat
  faultHead : Nat
  faultWait : Nat
  migr : List Migration
  hostMigr : List HostMigr
  pins : List (Nat × Nat)
  split : Vector (BitVec 8) 2
  quiesce : Vector (Option Nat) 2
  links : Vector LinkChan 24
  portUp : BitVec 6
  routes : Vector (BitVec 16) 32768
  routeNext : Option (Vector (BitVec 16) 32768)
  routeGen : Word
  linkto : Nat
  telem : Vector Word 30
  /-- corrected errors, substitutions and new poisonings by ASID (18 R412); an ASID that is not listed has none -/
  asidErrs : List (Nat × Vector Word 3)
  deriving DecidableEq, Repr

/-- 17 R363, 19 R423: a PCI Express function: FUNCERR and the mailbox: its DOORBELL bit, its 256-byte request and its 256-byte
response. -/
structure Fn where
  funcerr : BitVec 3
  busy : Bool
  req : Vector Word 32
  resp : Vector Word 32
  /-- when the request came, among all -/
  order : Nat
  /-- BAR2 has 2 to the power of this many bytes (18 R394) -/
  bar2 : Nat
  deriving DecidableEq, Repr

/-- 19 R418: a journal entry. -/
structure JournalEntry where
  start : BitVec 32
  step : BitVec 8
  unit : BitVec 8
  choice : BitVec 8
  outcome : BitVec 8
  time : Word
  deriving DecidableEq, Repr

/-- 19 R415 to R425: the island. -/
structure Island where
  mr : Vector (BitVec 256) 8
  /-- the device-unique secret in fuses, the identity key derived from it, which never leaves the island, and the key's
  certificate in flash (19 R420) -/
  secret : BitVec 256
  /-- the digest of the Aroft public key, fused into the die (19 R416) -/
  aroftKey : BitVec 256
  key : Option (BitVec 256)
  certificate : Option (List Byte)
  starts : BitVec 32
  startTime : Nat
  /-- the start-up step that comes next; 0 when no start is under way -/
  step : Nat
  journal : List JournalEntry
  island : FirmwareImage
  slotA : FirmwareImage
  slotB : FirmwareImage
  rollback : Nat
  /-- the slot whose image runs, or ran last -/
  running : BitVec 1
  /-- the slot that the journal makes the first one (19 R418) -/
  prefer : BitVec 1
  /-- a slot that an update has written and no start has tried -/
  activated : Option (BitVec 1)
  /-- an update has written the island firmware, and no start has tried it (19 R419) -/
  renewed : Bool
  /-- a BOOTSEL for the next start, and the one that the start under way follows (19 R424) -/
  bootsel : Option (BitVec 1)
  sel : Option (BitVec 1)
  hold : Bool
  recovery : Bool
  /-- an update in progress, and the image it writes -/
  updating : Option FirmwareImage
  /-- what the self-test and training find: physical facts (19 R415) -/
  romGood : Bool
  stackCached : BitVec 8
  stackFull : BitVec 8
  portGood : BitVec 24
  pcieGood : Bool
  clearGood : BitVec 4
  /-- the marks that CLEAR removes (19 R418, R424) -/
  leftStacks : BitVec 8
  leftPorts : BitVec 24
  /-- dies shut down for temperature since the start (19 R425) -/
  hotDies : BitVec 4
  powercap : BitVec 16
  spdmOnlyVersion : Bool
  /-- who sends the SPDM requests that come next (19 R421): an input (log entry 3) -/
  askers : List Asker
  /-- step 8 has been reached: the regions are open -/
  booted : Bool
  /-- the endpoint identifier of the management port (19 R424) -/
  eid : BitVec 8
  deriving DecidableEq, Repr

/-- Whose packet it is, and so who learns of its loss (20 R432). -/
inductive Sender where
  | req (id : Nat)
  /-- an element of a GATH, PROBE or SCAT -/
  | elem (id e : Nat)
  /-- a command of an engine, or an operation of the arrays -/
  | unit (c : CoreRef) (id : Nat)
  /-- the fetch of a context -/
  | fetch (c : CoreRef) (x : BitVec 2) (acc : Bool)
  /-- a queue command, or the record of one -/
  | queue (d : BitVec 2) (id : Nat)
  /-- the firmware of a die, for a queue: its ring, a descriptor, the record of its drain -/
  | office (d : BitVec 2) (q : BitVec 8)
  /-- a posted write of the firmware -/
  | posted
  /-- another package: the packet is on its way through this one -/
  | transit
  deriving DecidableEq, Repr

/-- How far a packet has come. -/
inductive PacketPhase where
  | waiting
  /-- held by a route change since this time (20 R430, R432) -/
  | held (since : Nat)
  | sent
  | answered
  /-- not performed there, with the KIND of 11 R274: 6 where it could not be delivered (20 R432) -/
  | refused (kind : Nat)
  deriving DecidableEq, Repr

def PacketPhase.isHeld : PacketPhase → Bool | .held _ => true | _ => false

/-- A packet of the torus (18 R393, 20 R428). -/
structure Packet where
  id : Nat
  /-- the die it travels on -/
  die : BitVec 2
  dest : BitVec 15
  who : Sender
  tenant : BitVec 8
  asid : BitVec 12
  va : Word
  wr : Bool
  vc : BitVec 2
  /-- the bytes that a write carries -/
  data : List Byte
  phase : PacketPhase
  /-- the port it left on, and the credit pool it used there (20 R429) -/
  port : BitVec 3
  detour : Bool
  deriving DecidableEq, Repr

/-- 11 R288, R292: what stands for a saved context until its restore: its rank, where it was saved, its barrier
arrivals (08 R203), the bundles its slices have issued, and the link channels whose credits it withholds (02 R63). -/
structure SavedCtx where
  rank : Nat
  area : Word
  phase : Vector Nat 8
  issueX : Nat
  countA : Nat
  chans : List Nat
  deriving DecidableEq, Repr

/-- 11 R295, 17 R373 to R384: a stream. -/
structure Stream where
  key : Nat
  die : BitVec 2
  q : BitVec 8
  tenant : BitVec 8
  asid : BitVec 12
  header : Word
  index : BitVec 32
  streamId : BitVec 32
  param : Word
  entry : Word
  codeBase : Word
  codeLimit : Word
  tvec : Word
  saveBase : Word
  owns : BitVec 40
  link : BitVec 24
  ringgrp : BitVec 16
  row : BitVec 256
  skew : Nat
  t0 : Nat
  /-- physical cores by rank -/
  cores : List (BitVec 8)
  /-- ranks that have left, and contexts saved -/
  left : List Nat
  saved : List SavedCtx
  /-- a pre-emption request stands, with its deadline; why: the queue whose head asked for it, or none -/
  preempt : Option (Word × Option (BitVec 8))
  /-- the kill reason, the first context struck and its trap registers -/
  kill : Option (BitVec 8)
  struck : Word
  regs : Vector Word 4
  carry : Nat
  lastCharge : Nat
  /-- HBAR phases in progress: group, phase, parties, arrivals (08 R203) -/
  hbar : List (BitVec 3 × Nat × Nat × Nat)
  /-- pre-empted: every context saved or left, waiting in its queue (11 R292) -/
  out : Bool
  /-- feeds suspended by a save, with the core they run on (11 R290) -/
  feeds : List (BitVec 8 × Command)
  deriving DecidableEq, Repr

def QueueRec.reset : QueueRec :=
  { word := 0xFF, rbase := 0, cbase := 0, ctl := 0, head := 0, tail := 0, ctail := 0, chead := 0, handed := 0,
    deficit := 0, passes := 0, resv := none, killing := false, ovf := false, state := .free, resume := [],
    retired := 0, killed := 0 }

/-- 17 R366: queue 0 is the management queue. -/
def QueueRec.management : QueueRec := { QueueRec.reset with word := 0x10F00, state := .disabled }

/-- 17 R378: the default schedule table. -/
def schedDefault : Vector (BitVec 8) 128 :=
  Vector.ofFn fun k => match k.val % 8 with
    | 0 => 1 | 1 => 2 | 2 => 3 | 3 => 2 | 4 => 4 | 5 => 3 | 6 => 6 | _ => 5

def LinkChan.reset : LinkChan := ⟨[], 0, none, 0⟩

/-- A die at device reset (log entries 6 and 8). -/
def Die.reset : Die :=
  { up := false, clusterOwner := Vector.replicate 16 0xFF, slotOwner := Vector.replicate 256 0xFF, slotNext := none,
    queues := (Vector.replicate 256 QueueRec.reset).set 0 QueueRec.management,
    ctrOwner := Vector.replicate 256 0xFF, frankOwner := Vector.replicate 512 0xFF,
    chanOwner := Vector.replicate 24 0xFF, asidOwner := Vector.replicate 4096 0xFF, roots := [], tablegen := 0,
    rounds := 0, turns := 0, turnOwner := 0xFF, doorbells := 0, cursor := 0, urgentRun := 0, qcmds := [],
    counters := Vector.replicate 256 0, frank := Vector.replicate 512 none, fired := [], frankLeft := 0, asks := [], calls := [],
    sched := schedDefault, schedBuf := Vector.replicate 128 0, schedNext := none, frames := 0, slots := 0, lease := 35000, hwin := 22, tlb := [],
    tagBase := 0, tagBlocks := 0, buckets := [], resvs := [], reserve := [], faultBase := 0, faultLog := 0,
    faultHead := 0, faultWait := 7000000, migr := [], hostMigr := [], pins := [], split := Vector.replicate 2 24,
    quiesce := Vector.replicate 2 none, links := Vector.replicate 24 LinkChan.reset, portUp := 0,
    routes := Vector.replicate 32768 7, routeNext := none, routeGen := 0, linkto := 70000,
    telem := Vector.replicate 30 0, asidErrs := [] }

/-- 19 R416: an image of one byte, well formed and signed under the key of one byte (log entry 9). -/
def firstImage (b : Byte) (digest : BitVec 256) : FirmwareImage := ⟨[b], digest, 0, ⟨[4], digest, 0⟩, 0, [4]⟩

def Fn.reset : Fn := ⟨0, false, Vector.replicate 32 0, Vector.replicate 32 0, 0, 39⟩

/-- The island before the first start (log entry 9): good images, nothing left out. -/
def Island.reset : Island :=
  { mr := Vector.replicate 8 0, secret := 0, aroftKey := 22660577045428103596163405190859854875513656947913100679592762543545066623640
    key := none, certificate := none, starts := 0, startTime := 0, step := 1, journal := []
    island := firstImage 1 90201621091343174303544046520946393935776411190442037481048020004142413080359
    slotA := firstImage 2 10517859269238125283721551506981249450261505378330228490335898464346492575242
    slotB := firstImage 3 80864863902299161590725508553066510478172699766808555572205551550957641723363
    rollback := 0, running := 0, prefer := 0, activated := none, renewed := false, bootsel := none, sel := none
    hold := false, recovery := false, updating := none, romGood := true, stackCached := 0xFF, stackFull := 0xFF, portGood := 0xFFFFFF,
    pcieGood := true, clearGood := 0xF, leftStacks := 0, leftPorts := 0, hotDies := 0,
    powercap := 2200, spdmOnlyVersion := false, askers := [], booted := false, eid := 0 }

end Sys2Proof.Machine
end

