-- ==== Sys2Proof/Machine/State.lean ====
section
/-! DEFINITION. The state of the package, as plain data, and the state after reset. -/
namespace Sys2Proof.Machine

/-- Why a request is held at an MTU (18 R401 to R404, R409). -/
inductive HeldWhy where
  | unbacked | hostLocated | migrating | writeOnDemand | window | frames (since : Nat) | quiesce
  deriving DecidableEq, Repr

/-- How far a request has come. -/
inductive ReqPhase where
  /-- on its way to the MTU: it waits for the accesses in `waits` and for a turn of its tenant -/
  | issued
  | held (why : HeldWhy)
  /-- an unsuccessful full/empty attempt: the next one is due at a time (08 R189) -/
  | retrying (due : Nat)
  /-- a PARK whose record stands (08 R194) -/
  | parked
  /-- performed: its result waits to land (04 R101) -/
  | performed
  /-- gone to another package: the answer comes from outside (18 R393) -/
  | remote
  deriving DecidableEq, Repr

/-- A device-memory or on-chip-map access of a context (08 R180 to R197). -/
structure Req where
  id : Nat
  core : CoreRef
  ctx : BitVec 2
  acc : Bool
  slot : BitVec 3
  bundle : Nat
  handler : Bool
  /-- the path of R202: 0 LS, 4 GS -/
  path : BitVec 3
  instr : Instr
  asid : BitVec 12
  tenant : BitVec 8
  stream : Nat
  va : Word
  /-- the space of 08 R178 -/
  space : BitVec 2
  /-- the store value, the data register, or the index vector of a gather -/
  data : Vec
  idx : Vec
  mask : Word
  aux : Word
  /-- retries left (08 R189) -/
  budget : Nat
  /-- requests and commands that must be performed first -/
  waits : List Nat
  admitted : Bool
  phase : ReqPhase
  dests : List Reg
  res : Vec
  res2 : Word
  /-- the request waits in a replay queue (18 R402) -/
  replay : Bool
  /-- when the request was held (18 R401), and its place among those that have been held (18 R402) -/
  heldAt : Nat
  heldTurn : Nat
  /-- an attempt has failed and been reported (08 R189) -/
  failed : Bool
  /-- the place of a PARK among the records that have been parked (08 R194); 0 before it is -/
  turn : Nat
  /-- the firmware's own: a page that a queue command, a ring or a record needs; it belongs to no context -/
  office : Bool
  deriving DecidableEq, Repr

/-- 10 R250: the agents that leave race records. -/
inductive Agent where
  | ls (x : CtxRef)
  | gs (x : CtxRef)
  | eng (x : CtxRef) (e : EngineKind)
  | mx (x : CtxRef)
  deriving DecidableEq, Repr

/-- 10 R266: a race record. -/
structure RaceRec where
  line : Nat
  agent : Agent
  /-- the path of the access (08 R202) -/
  path : BitVec 3
  tenant : BitVec 8
  coreIdx : BitVec 8
  write : Bool
  atomic : Bool
  mask : BitVec 64
  t : Nat
  deriving DecidableEq, Repr

/-- Bytes of a counted copy that have landed and not yet updated their arrival word (08 R199). -/
structure Arrival where
  core : CoreRef
  off : Nat
  bytes : Nat
  /-- who makes the update, for the race detector (10 R252) -/
  agent : Agent
  path : BitVec 3
  tenant : BitVec 8
  coreIdx : BitVec 8
  /-- the error step of 09 R234 -/
  err : Bool
  /-- the command whose bytes they are -/
  cmd : Nat
  deriving DecidableEq, Repr

/-- What the package has sent outside. -/
inductive Sent where
  | msix (fn : BitVec 8) (vec : BitVec 6)
  | link (die : BitVec 2) (port : BitVec 3) (vc : BitVec 2) (pkt : LinkPacket)
  | packet (die : BitVec 2) (port : BitVec 3) (pkt : Packet)
  | pldm (code : Nat) (unit : Nat)
  | spdm (who : Asker) (words : List (BitVec 256)) (sig : List Byte)
  | spdmError (who : Asker)
  | read (fn : BitVec 5) (bytes : List Byte)
  | aborted (fn : BitVec 5)
  /-- a function sees a surprise link down (19 R424) -/
  | linkLost (fn : BitVec 5)
  | mgmt (status : Nat)
  /-- an MCTP control message or a PLDM sensor read answered: a completion code and its data (19 R424, 20 R434) -/
  | mctp (code : Nat) (data : List Word)
  /-- a read of another package answered (18 R393) -/
  | reply (pkt : Packet) (bytes : List Byte)
  | abandoned (x : CtxRef) (check : Nat)
  deriving DecidableEq, Repr

/-- 19 R424, 20 R434: a request of the management port besides the controls and the updates, which are events of the table: MCTP
control messages, and reads of PLDM numeric sensors (log entry 87). -/
inductive MgmtReq where
  | setEid (eid : BitVec 8)
  | getEid
  | getTypes
  | sensor (die : BitVec 2) (i : Nat)
  deriving DecidableEq, Repr

/-- The context, slice and bundle whose slot operation executes. -/
structure Env where
  core : CoreRef
  ctx : BitVec 2
  acc : Bool
  pc : Word
  deriving DecidableEq, Repr

/-- The bundles being issued: the operations still to execute, lowest slot first, and what their retirement does. -/
structure Issue where
  ops : List (Env × Instr)
  env : Env
  runX : Bool
  runA : Bool
  pop : Vector Nat 4
  branch : Option Word
  loopBrk : Bool
  /-- LOOP's immediate -/
  loop : Option (BitVec 40)
  halt : Bool
  yield : Bool
  safept : Bool
  rft : Bool
  /-- the context stays at the bundle until its TXSTEP ends -/
  stay : Bool
  /-- a trap or a kill has taken the place of the bundle: nothing retires -/
  void : Bool
  /-- a trap of the other slice, taken when these bundles have retired (11 R277) -/
  trap : Option (Env × Cause)
  deriving DecidableEq, Repr

/-- The package. -/
structure State where
  time : Nat
  coord : BitVec 15
  mem : List Host.Cell
  poison : List Nat
  free : Nat
  inputs : List Instr
  cur : Env
  issue : Option Issue
  reqs : List Req
  nextId : Nat
  races : List RaceRec
  arrivals : List Arrival
  streams : List Stream
  packets : List Packet
  /-- packets of other packages that reach a die on their way through this one: inputs, as `inputs` is (log entry 3) -/
  torusIn : List Packet
  /-- what the management port asks: inputs too -/
  mgmt : List MgmtReq
  outbox : List Sent
  cores : List (Nat × Core)
  dies : Vector Die 4
  fns : Vector Fn 17
  island : Island
  deriving DecidableEq, Repr

/-- Why a run stops for good: nothing in this spec does, every error has an effect of its own, so there is no
constructor. -/
inductive Fault where
  deriving DecidableEq, Repr

/-- Why an instruction has no meaning. -/
inductive Refusal where
  /-- an instruction this model has not reached, raised by its arm of exec; safe -/
  | notModelled (mnemonic : String)
  deriving DecidableEq, Repr

def Env.reset : Env := ⟨⟨0, 0⟩, 0, false, 0⟩

/-- The package right after device reset, before the boot ROM runs (19 R415; log entries 4 to 9). -/
def State.reset : State :=
  { time := 0, coord := 0, mem := [], poison := [], free := 0, inputs := [], cur := Env.reset, issue := none,
    reqs := [], nextId := 1, races := [], arrivals := [], streams := [], packets := [], torusIn := [], mgmt := [], outbox := [], cores := [],
    dies := Vector.replicate 4 Die.reset, fns := Vector.replicate 17 Fn.reset, island := Island.reset }

end Sys2Proof.Machine
end

