-- ==== Sys2Proof/Machine/Access.lean ====
section
/-! DEFINITION. The one home of every register: reading and writing the parts of the state, results in flight
(01 R24, R25, R31, 04 R99 to R102) and their landing. -/
namespace Sys2Proof.Machine

/-! ### Parts of the state -/

def coreKey (c : CoreRef) : Nat := c.die.toNat * 256 + c.core.toNat
def coreOf (x : CtxRef) : CoreRef := ⟨x.die, x.core⟩

/-- The core listed under a key; an unlisted core is as after reset. -/
def lookupCore (l : List (Nat × Core)) (k : Nat) : Core :=
  match l with
  | [] => Core.reset
  | (i, x) :: r => if i == k then x else lookupCore r k

/-- The list with a core stored under a key. -/
def storeCore (l : List (Nat × Core)) (k : Nat) (x : Core) : List (Nat × Core) :=
  match l with
  | [] => [(k, x)]
  | (i, y) :: r => if k < i then (k, x) :: (i, y) :: r else if i == k then (k, x) :: r else (i, y) :: storeCore r k x

def State.core (s : State) (c : CoreRef) : Core := lookupCore s.cores (coreKey c)
def State.setCore (s : State) (c : CoreRef) (x : Core) : State := { s with cores := storeCore s.cores (coreKey c) x }
def State.modCore (s : State) (c : CoreRef) (f : Core → Core) : State := s.setCore c (f (s.core c))

def Core.getCtx (k : Core) (x : BitVec 2) : Ctx := k.ctx[x.toNat]'(x.isLt)
def Core.setCtx (k : Core) (x : BitVec 2) (v : Ctx) : Core := { k with ctx := k.ctx.set x.toNat v x.isLt }

def State.ctx (s : State) (c : CoreRef) (x : BitVec 2) : Ctx := (s.core c).getCtx x
def State.setCtx (s : State) (c : CoreRef) (x : BitVec 2) (v : Ctx) : State := s.modCore c fun k => k.setCtx x v
def State.modCtx (s : State) (c : CoreRef) (x : BitVec 2) (f : Ctx → Ctx) : State := s.setCtx c x (f (s.ctx c x))

/-- The context whose slot operation executes. -/
def State.cx (s : State) : Ctx := s.ctx s.cur.core s.cur.ctx
def State.modCx (s : State) (f : Ctx → Ctx) : State := s.modCtx s.cur.core s.cur.ctx f
/-- Its core. -/
def State.cc (s : State) : Core := s.core s.cur.core
def State.modCc (s : State) (f : Core → Core) : State := s.modCore s.cur.core f

def State.die (s : State) (d : BitVec 2) : Die := s.dies[d.toNat]'(d.isLt)
def State.setDie (s : State) (d : BitVec 2) (x : Die) : State := { s with dies := s.dies.set d.toNat x d.isLt }
def State.modDie (s : State) (d : BitVec 2) (f : Die → Die) : State := s.setDie d (f (s.die d))

/-- A free value of `w` bits for the place `salt` of this step (log entry 1). -/
def State.freeVal (s : State) (w salt : Nat) : BitVec w := Config.freeBits w (s.free * 65536 + salt)

/-- No stream: what stands for the stream of a context that has none. -/
def Stream.none : Stream :=
  { key := 0, die := 0, q := 0, tenant := 0xFF, asid := 0, header := 0, index := 0, streamId := 0, param := 0, entry := 0,
    codeBase := 0, codeLimit := 0, tvec := 0, saveBase := 0, owns := 0, link := 0, ringgrp := 0, row := 0, skew := 0,
    t0 := 0, cores := [], left := [], saved := [], preempt := Option.none, kill := Option.none, struck := 0,
    regs := Vector.replicate 4 0, carry := 0, lastCharge := 0, hbar := [], out := false, feeds := [] }

def State.stream (s : State) (k : Nat) : Stream := (s.streams.find? fun x => x.key == k).getD Stream.none
def State.modStream (s : State) (k : Nat) (f : Stream → Stream) : State :=
  { s with streams := s.streams.map fun x => if x.key == k then f x else x }

def mapReqs (l : List Req) (id : Nat) (f : Req → Req) : List Req := l.map fun r => if r.id == id then f r else r
def State.req? (s : State) (id : Nat) : Option Req := s.reqs.find? fun r => r.id == id
def State.modReq (s : State) (id : Nat) (f : Req → Req) : State := { s with reqs := mapReqs s.reqs id f }
def State.dropReq (s : State) (id : Nat) : State := { s with reqs := s.reqs.filter fun r => r.id != id }

def State.qrec (s : State) (d : BitVec 2) (q : BitVec 8) : QueueRec := (s.die d).queues[q.toNat]'(q.isLt)
def State.modQ (s : State) (d : BitVec 2) (q : BitVec 8) (f : QueueRec → QueueRec) : State :=
  s.modDie d fun x => { x with queues := x.queues.set q.toNat (f (x.queues[q.toNat]'(q.isLt))) q.isLt }

/-- 20 R434: a telemetry counter counts on, saturating. -/
def State.count (s : State) (d : BitVec 2) (i n : Nat) : State :=
  s.modDie d fun x => { x with telem := x.telem.setIfInBounds i (BitVec.ofNat 64 (min (2 ^ 64 - 1) ((x.telem.getD i 0).toNat + n))) }

def State.sends (s : State) (x : Sent) : State := { s with outbox := s.outbox ++ [x] }

/-! ### System registers -/

/-- 01 R37: the longest circular run of entries that the tenant does not own. -/
def maxGap (owned : List Bool) : Nat :=
  if owned.all id || !owned.any id then 0
  else
    ((owned ++ owned).foldl (fun (b : Nat × Nat) o => if o then (b.1, 0) else (max b.1 (b.2 + 1), b.2 + 1)) (0, 0)).1

/-- 01 R37: SLOTMAP as a tenant reads it. -/
def slotMap (d : Die) (tenant : BitVec 8) : Word :=
  let owned := d.slotOwner.toList.map (· == tenant)
  let n := (owned.filter id).length
  let first := (owned.findIdx? id).getD 0
  (BitVec.ofNat 9 n ++ BitVec.ofNat 8 first ++ BitVec.ofNat 8 (maxGap owned) ++ d.tablegen ++ tenant : BitVec 41).setWidth 64

/-- 02 R56: TSTATE. -/
def Ctx.tstate (c : Ctx) : Word :=
  (BitVec.ofBool c.dnest ++ BitVec.ofBool c.aslice ++ BitVec.ofBool c.hmode : BitVec 3).setWidth 64

/-- 01 R27, R30, 11 R282: LIDX as a slice reads it. -/
def Ctx.lidx (c : Ctx) (acc : Bool) (l : Nat) : Word :=
  let n := c.susp.getD c.nest
  ((if acc && n.dec then n.aidx else n.xidx).getD l 0).setWidth 64

/-- 00 R6, 11 R272: the bits of TINFO that the map of a cause gives a field; the others are reserved. Where no map stands, all
are. The map is that of the code in TCAUSE (log entry 78). -/
def tinfoMask (code : Word) : Word :=
  match code.toNat with
  | 0x001 => 0xFF
  | 0x003 | 0x004 | 0x005 => 0xFFFFF
  | 0x006 | 0x113 => 0xFFFFFFFF0000FFFF
  | 0x110 => 0x80000003FFFFFFFF
  | 0x111 | 0x112 | 0x114 | 0x115 => 0xFFFFFFFF00FFFFFF
  | 0x116 => 0xFFFFFFFFF
  | _ => BitVec.allOnes 64

/-- The system registers that a context holds as words (02 R52). -/
def Ctx.getSys (c : Ctx) (n : Nat) : Word :=
  match n with
  | 0x40 => c.fmt.setWidth 64
  | 0x41 => c.codeBase
  | 0x42 => c.codeLimit
  | 0x43 => c.tvec
  | 0x44 => c.retry.setWidth 64
  | 0x45 => c.sticky.setWidth 64
  | 0x46 => BitVec.ofNat 64 c.acqTime
  | 0x48 | 0x49 | 0x4A | 0x4B | 0x4C | 0x4D => (c.lcnt.getD (n - 0x48) 0).setWidth 64
  | 0x80 => c.tcause
  | 0x81 => c.tpc
  | 0x82 => c.tslot
  | 0x83 => c.taddr
  | 0x84 => c.tinfo &&& tinfoMask c.tcause
  | 0x85 => c.tstate
  | 0xC0 => c.saveArea
  | 0xC1 => (BitVec.ofBool c.preempt).setWidth 64
  | 0xC2 => c.deadline
  | 0xC3 => c.owns.setWidth 64
  | _ => 0

/-- 02 R45, R52: code addresses hold no bits 5:0. -/
def codeAddr (w : Word) : Word := w &&& 0xFFFFFFFFFFFFFFC0

/-- 02 R52 to R56, 06 R146: what a write to a system register leaves. -/
def Ctx.putSys (c : Ctx) (n : Nat) (w : Word) : Ctx :=
  match n with
  | 0x40 => { c with fmt := w.setWidth 16 }
  | 0x41 => { c with codeBase := codeAddr w }
  | 0x42 => { c with codeLimit := codeAddr w }
  | 0x43 => { c with tvec := codeAddr w }
  | 0x44 => { c with retry := if w.setWidth 16 == 0#16 then 1 else w.setWidth 16 }
  | 0x45 => { c with sticky := w.setWidth 5 }
  | 0x48 | 0x49 | 0x4A | 0x4B | 0x4C | 0x4D => { c with lcnt := c.lcnt.setIfInBounds (n - 0x48) (w.setWidth 32) }
  | 0x80 => { c with tcause := w &&& 0x1FF }
  | 0x81 => { c with tpc := w }
  | 0x82 => { c with tslot := w &&& 7 }
  | 0x83 => { c with taddr := w }
  | 0x84 => { c with tinfo := w &&& tinfoMask c.tcause }
  | 0x85 => { c with dnest := w.getLsbD 2, aslice := w.getLsbD 1 }
  | 0xC0 => { c with saveArea := w }
  | _ => c

/-! ### Registers -/

/-- 02 R45: the landed value of a register, zero-extended. -/
def Ctx.getReg (c : Ctx) : Reg → Vec
  | .s n => if n == 0 then 0 else (c.s[n.toNat]'(n.isLt)).setWidth 2048
  | .p n => if n == 0 then 1 else (BitVec.ofBool (c.p.getLsbD n.toNat)).setWidth 2048
  | .v n => c.v[n.toNat]'(n.isLt)
  | .k n => if n == 0 then (BitVec.allOnes 64).setWidth 2048 else (c.k[n.toNat]'(n.isLt)).setWidth 2048
  | .b n => (c.b[n.toNat]'(n.isLt)).setWidth 2048
  | .g n comp =>
    let g := c.g[n.toNat]'(n.isLt)
    if comp == 0 then g.base.setWidth 2048 else (g.stride.getD (comp.toNat - 1) 0).setWidth 2048
  | .x n => (c.x[n.toNat]'(n.isLt)).setWidth 2048
  | .lcnt n => (c.lcnt.getD n.toNat 0).setWidth 2048
  | .sr n => (c.getSys n.toNat).setWidth 2048
  | .q _ _ => 0
  | .none => 0

/-- 02 R45: a register with a new landed value; `s0`, `p0` and `k0` discard it. -/
def Ctx.putReg (c : Ctx) (r : Reg) (v : Vec) : Ctx :=
  match r with
  | .s n => if n == 0 then c else { c with s := c.s.set n.toNat (v.setWidth 64) n.isLt }
  | .p n =>
    if n == 0 then c
    else { c with p := (c.p &&& ~~~(1#16 <<< n.toNat)) ||| ((v.setWidth 1).setWidth 16 <<< n.toNat) }
  | .v n => { c with v := c.v.set n.toNat v n.isLt }
  | .k n => if n == 0 then c else { c with k := c.k.set n.toNat (v.setWidth 64) n.isLt }
  | .b n => { c with b := c.b.set n.toNat (codeAddr (v.setWidth 64)) n.isLt }
  | .g n comp =>
    let g := c.g[n.toNat]'(n.isLt)
    let g' := if comp == 0 then { g with base := v.setWidth 64 }
      else { g with stride := g.stride.setIfInBounds (comp.toNat - 1) (v.setWidth 32) }
    { c with g := c.g.set n.toNat g' n.isLt }
  | .x n => { c with x := c.x.set n.toNat (v.setWidth 128) n.isLt }
  | .lcnt n => { c with lcnt := c.lcnt.setIfInBounds n.toNat (v.setWidth 32) }
  | .sr n => c.putSys n.toNat (v.setWidth 64)
  | .q n id =>
    let q := c.q[n.toNat]'(n.isLt)
    let q' := { q with ents := q.ents.map fun e => if e.id == id then { e with val := v, landed := true } else e }
    { c with q := c.q.set n.toNat q' n.isLt }
  | .none => c

/-- The registers that discard what is written (02 R45). -/
def Reg.fixed : Reg → Bool
  | .s n => n == 0
  | .p n => n == 0
  | .k n => n == 0
  | _ => false

/-- A value with the bits of a mask replaced. -/
def merge (old val mask : Vec) : Vec := (old &&& ~~~mask) ||| (val &&& mask)

/-- 01 R24, R30: the issue time of a slice. -/
def Ctx.now (c : Ctx) (acc : Bool) : Nat := if acc then c.issueA else c.issueX

/-- 01 R30: a decoupled nest is running. -/
def Ctx.decoupled (c : Ctx) : Bool := c.nest.active && c.nest.dec

/-- The entry is a result of the bundle that the slice issues now, which no operation of the bundle sees (04 R92). -/
def Pend.current (p : Pend) (acc : Bool) (now : Nat) : Bool := p.acc == acc && decide (now ≤ p.at_)

/-- 02 R53: a system register, whose new value every bundle after the write reads. -/
def Reg.isSys : Reg → Bool | .sr _ => true | _ => false

/-- 01 R25, R31: a read of the register by the slice reads an undefined value: a result is not due, or the other
slice of the decoupled nest writes the register. A write to a system register lands as its bundle retires, so that no
later bundle of either slice is early (02 R53, R54). -/
def Ctx.early (c : Ctx) (acc : Bool) (r : Reg) : Bool :=
  !r.isSys &&
  ((c.pend.any fun p => p.reg == r && !p.current acc (c.now acc) && decide (c.now acc < p.due)) ||
    (c.decoupled && c.wrote.any fun w => w.acc != acc && (w.reg == r || w.reg == .none)))

/-- The value of a register that may be read: its landed value with the results that are due (04 R102). -/
def Ctx.settled (c : Ctx) (acc : Bool) (r : Reg) : Vec :=
  c.pend.foldl (fun v p => if p.reg == r && !r.isSys && !p.current acc (c.now acc) then merge v p.val p.mask else v) (c.getReg r)

/-- A register as an operation of the current bundle reads it (01 R25, 04 R92, 02 R45). -/
def State.readReg (s : State) (r : Reg) (salt : Nat) : Vec :=
  if r.fixed then s.cx.getReg r
  else if s.cx.early s.cur.acc r then s.freeVal 2048 salt
  else s.cx.settled s.cur.acc r

/-! ### Results in flight -/

/-- 04 R101, 02 R55: a result lands, and its flags with it. Model's choice: the lanes of a pushed entry that a partial result
(07 R162, R168) does not write are 0 (log entry 84). -/
def Ctx.landOne (c : Ctx) (p : Pend) : Ctx :=
  let c := match p.reg with
    | .q _ _ => c.putReg p.reg (p.val &&& p.mask)
    | .none => c
    | r => c.putReg r (merge (c.getReg r) p.val p.mask)
  { c with sticky := c.sticky ||| p.fl }

/-- The results that `sel` picks land, in order; the others stay. -/
def Ctx.landIf (c : Ctx) (sel : Pend → Bool) : Ctx :=
  (c.pend.filter sel).foldl Ctx.landOne { c with pend := c.pend.filter fun p => !sel p }

/-- 04 R102: a result of the register that issued before the request or operation is still pending on the scoreboard. -/
def Ctx.awaits (c : Ctx) (id : Nat) (r : Reg) : Bool := c.score.any fun e => e.reg == r && decide (e.id < id)
/-- 04 R102: an earlier operation's result for the same register is still pending on the scoreboard. -/
def Ctx.heldBack (c : Ctx) (p : Pend) : Bool := c.awaits p.seq p.reg

/-- 04 R100: the results of a slice that are due land. -/
def Ctx.landDue (c : Ctx) (acc : Bool) : Ctx :=
  c.landIf fun p => p.acc == acc && decide (p.due ≤ c.now acc) && !c.heldBack p

/-- 01 R25, 04 R102: a result of the other slice for a register that a slice writes has been overtaken: it lands before that
slice's own. It issued before the nest, or the register may not be read in the nest (01 R31). -/
def Ctx.landOvertaken (c : Ctx) (acc : Bool) : Ctx :=
  c.landIf fun p => p.acc != acc && !c.heldBack p && c.pend.any fun q => q.acc == acc && q.reg == p.reg && q.reg != .none

/-- 11 R281: every fixed-latency result in flight lands, but for one that must land after a scoreboarded result of its
own bundle (04 R102). -/
def Ctx.landAll (c : Ctx) : Ctx := c.landIf fun p => !c.heldBack p

def Reg.isQueue : Reg → Bool | .q _ _ => true | _ => false

/-- 04 R99, R100: the entries that fixed-latency results have reserved land: a slice that waits for one of them issues
nothing, and the device may land a result in any cycle up to its bound. -/
def Ctx.landQueues (c : Ctx) : Ctx := c.landIf fun p => p.reg.isQueue

/-- 04 R102: a result may not land before an earlier result of the same register. -/
def Ctx.dueFor (c : Ctx) (acc : Bool) (r : Reg) (due : Nat) : Nat :=
  c.pend.foldl (fun d p => if p.reg == r && p.acc == acc then max d p.due else d) due

/-- 01 R25: a fixed-latency result of the current bundle goes into flight. -/
def Ctx.addResult (c : Ctx) (acc : Bool) (r : Reg) (val mask : Vec) (bound : Nat) (fl : Flags) (seq : Nat) : Ctx :=
  let r' := if r.fixed then Reg.none else r
  { c with
    pend := c.pend ++ [⟨acc, r', val, mask, c.now acc, c.dueFor acc r' (c.now acc + bound), fl, seq⟩]
    wrote := if c.decoupled && r' != .none then c.wrote ++ [⟨acc, r'⟩] else c.wrote }

def State.result (s : State) (r : Reg) (val mask : Vec) (bound : Nat) (fl : Flags) : State :=
  s.modCx fun c => c.addResult s.cur.acc r val mask bound fl s.nextId

/-- A scalar result (06 R126). -/
def State.writeS (s : State) (d : BitVec 6) (w : Word) (bound : Nat) (fl : Flags) : State :=
  s.result (.s d) (w.setWidth 2048) allBits bound fl

/-- A predicate result. -/
def State.writeP (s : State) (d : BitVec 4) (b : Bool) (bound : Nat) (fl : Flags) : State :=
  s.result (.p d) ((BitVec.ofBool b).setWidth 2048) allBits bound fl

/-- A mask result. -/
def State.writeK (s : State) (d : BitVec 3) (w : Word) (bound : Nat) : State :=
  s.result (.k d) (w.setWidth 2048) allBits bound 0

/-- 04 R99: an entry reserved at the tail of a queue, with its number. -/
def State.reserve (s : State) (n : BitVec 2) (token : Bool) : State :=
  let t := s.modCx fun c =>
    let q := c.q[n.toNat]'(n.isLt)
    { c with q := c.q.set n.toNat { q with ents := q.ents ++ [⟨s.nextId, 0, token, false⟩] } n.isLt }
  { t with nextId := s.nextId + 1 }

/-- A vector destination: a register, or a push (04 R96, R99). -/
def State.destV (s : State) (d : BitVec 6) : State × Reg :=
  if d.toNat < 32 then (s, .v (d.setWidth 5)) else (s.reserve (d.setWidth 2) false, .q (d.setWidth 2) s.nextId)

/-- A vector result (07 R157). -/
def State.writeV (s : State) (d : BitVec 6) (r : VRes) (bound : Nat) : State :=
  let t := s.destV d
  t.1.result t.2 r.val r.mask bound r.fl

/-- 04 R101, R102: a scoreboarded result lands: the earlier results of its register land before it, a later one of its
own bundle after it. After a trap entry it lands in the bank of `s56` to `s61` that is then visible (log entry 61). The
unwritten lanes of a pushed entry are 0 (log entry 84). -/
def Ctx.landScore (c : Ctx) (id : Nat) (r : Reg) (val mask : Vec) : Ctx :=
  let c := c.landIf fun p => p.reg == r && decide (p.seq ≤ id)
  let c := match r with
    | .q _ _ => c.putReg r (val &&& mask)
    | .none => c
    | _ => c.putReg r (merge (c.getReg r) val mask)
  { c with score := c.score.filter fun e => !(e.id == id && e.reg == r) }

/-! ### Queue reads -/

def Issue.fresh (e : Env) : Issue :=
  { ops := [], env := e, runX := !e.acc, runA := e.acc, pop := Vector.replicate 4 0, branch := none, loopBrk := false,
    loop := none, halt := false, yield := false, safept := false, rft := false, stay := false, void := false, trap := none }

/-- The bundle being issued; an operation that executes by itself is a bundle of its own. -/
def State.iss (s : State) : Issue := s.issue.getD (Issue.fresh s.cur)
def State.modIss (s : State) (f : Issue → Issue) : State := { s with issue := some (f s.iss) }

/-- The entry `k` of a queue, counted from the head: zeros for a token (01 R33) and where none stands. -/
def OpQueue.entry (q : OpQueue) (k : Nat) : QEntry := q.ents.getD k ⟨0, 0, true, true⟩

/-- 04 R99: a vector source: a register, a pop, or a peek at the head as it stood before the bundle. -/
def State.readV (s : State) (f : BitVec 6) (salt : Nat) : State × Vec :=
  if f.toNat < 32 then (s, s.readReg (.v (f.setWidth 5)) salt)
  else
    let n : BitVec 2 := f.setWidth 2
    let q := s.cx.q[n.toNat]'(n.isLt)
    if 36 ≤ f.toNat then (s, (q.entry 0).val)
    else
      let e := q.entry (s.iss.pop[n.toNat]'(n.isLt))
      if e.token then (s, 0)
      else (s.modIss fun i => { i with pop := i.pop.set n.toNat (i.pop[n.toNat]'(n.isLt) + 1) n.isLt }, e.val)

/-- 01 R34: the pops of a bundle take effect. -/
def OpQueue.drop (q : OpQueue) (n : Nat) : OpQueue :=
  { ents := q.ents.drop n, head := q.head + BitVec.ofNat 4 (min n q.ents.length) }

end Sys2Proof.Machine
end

