-- ==== Sys2Proof/Machine/Operands.lean ====
section
/-! DEFINITION. Operands: guards and iteration conditions, register fields, generator and effective addresses. -/
namespace Sys2Proof.Machine

/-- What exec answers. -/
abbrev Out := Host.Outcome State Fault Refusal

/-- The place of a read among those of a step, to tell the free values of one step apart. -/
def saltOf (s : State) (slot : BitVec 3) (k : Nat) : Nat := slot.toNat * 16 + k + (if s.cur.acc then 2048 else 0)

def State.readS (s : State) (h : Head) (f : BitVec 6) (k : Nat) : Word := (s.readReg (.s f) (saltOf s h.slot k)).setWidth 64
def State.readP (s : State) (h : Head) (f : BitVec 4) (k : Nat) : Bool := (s.readReg (.p f) (saltOf s h.slot k)).getLsbD 0
def State.readK (s : State) (h : Head) (f : BitVec 3) (k : Nat) : Word := (s.readReg (.k f) (saltOf s h.slot k)).setWidth 64
def State.readB (s : State) (h : Head) (f : BitVec 2) (k : Nat) : Word := (s.readReg (.b f) (saltOf s h.slot k)).setWidth 64
def State.readX (s : State) (h : Head) (f : BitVec 2) (k : Nat) : BitVec 128 := (s.readReg (.x f) (saltOf s h.slot k)).setWidth 128

/-- 01 R33: the slice still runs the body of the nest. -/
def Ctx.inNest (c : Ctx) (acc : Bool) : Bool := c.nest.active && !(if acc then c.nest.adone else c.nest.xdone)

/-- 01 R29: the index of a level in the slice. -/
def Nest.idx (n : Nest) (acc : Bool) (l : Nat) : BitVec 32 := (if acc && n.dec then n.aidx else n.xidx).getD l 0

/-- 01 R29: the iteration condition. -/
def Ctx.iterates (c : Ctx) (acc : Bool) (iter : BitVec 2) : Bool :=
  if c.inNest acc then
    let i := c.nest.idx acc 0
    let last := c.nest.count.getD 0 0 - 1
    match iter.toNat with
    | 0 => true
    | 1 => i == 0
    | 2 => i == last
    | _ => i != last
  else iter != 3

/-- 04 R91: the operation executes: its iteration condition and its guard hold. -/
def opRuns (s : State) (h : Head) : Bool :=
  s.cx.iterates s.cur.acc h.iter && (s.readP h h.gpred 15 != (h.gneg == 1))

/-- An operation of a slot: without effect when it does not execute (04 R91). -/
def slotOp (h : Head) (k : State → State) (s : State) : Out := .next (if opRuns s h then k s else s)

/-- 02 R54: the format word in force for the slice. -/
def Ctx.fmtNow (c : Ctx) (acc : Bool) : BitVec 16 :=
  match c.fmtOld.find? fun e => decide (c.now acc ≤ if acc then e.untilA else e.untilX) with
  | some e => e.old
  | none => c.fmt

/-- Rounding and modifier of a scalar floating-point operation (06 R138). -/
def ctlS (s : State) (h : Head) : Ctl :=
  let f := s.cx.fmtNow s.cur.acc
  ⟨Rnd.ofCode (f.extractLsb' 12 2), f.getLsbD 14, h.md⟩

/-- 03 R67: the rounding mode of an F4 operation: 00 in its rounding field selects FMT.RND. -/
def modeV (s : State) (rnd : BitVec 2) : Rnd :=
  Rnd.ofCode (if rnd == 0 then (s.cx.fmtNow s.cur.acc).extractLsb' 12 2 else rnd)

/-- Rounding and modifier of a vector operation (03 R67, 07 R159). -/
def ctlV (s : State) (h : Head) (rnd : BitVec 2) : Ctl := ⟨modeV s rnd, (s.cx.fmtNow s.cur.acc).getLsbD 14, h.md⟩

/-- 07 R157: the destination bits that mask register `k` governs. -/
def maskOf (s : State) (h : Head) (k : BitVec 3) : Vec := chunkMask (s.readK h k 14)

/-- 01 R28: the address of a generator. -/
def genAddress (s : State) (slot : BitVec 3) (g : BitVec 3) (off : Word) : Word :=
  let c := s.cx
  let acc := s.cur.acc
  let base := (s.readReg (.g g 0) (saltOf s slot 5)).setWidth 64
  let depth := if c.inNest acc then c.nest.depth.toNat + 1 else 0
  (List.range depth).foldl (fun a l =>
    let st := (s.readReg (.g g (BitVec.ofNat 3 (l + 1))) (saltOf s slot (6 + l))).setWidth 32
    a + (c.nest.idx acc l).setWidth 64 * st.signExtend 64) (base + off)

/-- 08 R178, 05 R123: an FM operation with a 16-bit offset. -/
def shortOffset (i : Instr) : Bool :=
  match i with
  | .amo _ _ | .cas _ _ | .park _ _ | .wake _ _ => true
  | _ => false

/-- 08 R178: the effective address of an FM operation. -/
def effAddr (s : State) (h : Head) (f : FM) (short : Bool) : Word :=
  let off : Word := if short then (f.offs.extractLsb' 0 16).signExtend 64 else f.offs.signExtend 64
  if f.kind == 0 then s.readS h f.base 5 + off else genAddress s h.slot (f.base.setWidth 3) off

/-- 08 R185: the address of element `e` of a gather or scatter. -/
def elementAddr (base : Word) (idx : Vec) (e : Nat) : Word :=
  base + (BitVec.ofNat 32 (lane 32 idx e)).signExtend 64 * 4

end Sys2Proof.Machine
end

