-- ==== Sys2Proof/Machine/Flags.lean ====
section
/-! DEFINITION. STICKY and the conditions (02 R55, 06 R133, R139). -/
namespace Sys2Proof.Machine

/-- 06 R139: the flags of every operation that the context issued before this bundle land. -/
def Ctx.flushFlags (c : Ctx) : Ctx :=
  let early := fun (p : Pend) => !p.current p.acc (c.now p.acc)
  { c with
    sticky := (c.pend.filter early).foldl (fun fl p => fl ||| p.fl) c.sticky
    pend := c.pend.map fun p => if early p then { p with fl := 0 } else p }

/-- 02 R55, 09 R211: flags raised by an array operation of the context. -/
def Ctx.raiseFlags (c : Ctx) (fl : Flags) : Ctx := { c with sticky := c.sticky ||| fl }

/-- 06 R134: an integer condition on the raw sources. -/
def condInt (t : Ty) (cc : Nat) (a b : Nat) : Bool :=
  intCond cc (intOf t a) (intOf t b) (Nat.land (a % 2 ^ tyWidth t) (b % 2 ^ tyWidth t) != 0)

/-- 06 R136: a floating-point condition and its flags. -/
def condFlt (t : Ty) (cc : Nat) (a b : Nat) : Bool × Flags :=
  (fltCond cc (decodeF t a) (decodeF t b), fltCondFlags cc (decodeF t a) (decodeF t b))

end Sys2Proof.Machine
end

