-- ==== Sys2Proof/Machine/Ops.lean ====
section
/-! DEFINITION. The named operations that the meanings share: translation (18 R392 to R401), full/empty tags and
wake-ups (08 R191 to R195, 18 R405 to R407), races (10 R266 to R270), what is outstanding and held (10 R256, R261),
flags and their waits (08 R198), taking a trap (11 R281), the return from one (11 R284) and kills (11 R294). -/
namespace Sys2Proof.Machine

/-! ### Page-table entries (18 R396) -/

abbrev Pte := BitVec 128

def Pte.kind (e : Pte) : Nat := (e.extractLsb' 0 3).toNat
def Pte.r (e : Pte) : Bool := e.getLsbD 3
def Pte.w (e : Pte) : Bool := e.getLsbD 4
def Pte.x (e : Pte) : Bool := e.getLsbD 5
def Pte.saveArea (e : Pte) : Bool := e.getLsbD 6
def Pte.race (e : Pte) : Bool := e.getLsbD 7
def Pte.tolerant (e : Pte) : Bool := e.getLsbD 8
def Pte.subst (e : Pte) : Nat := (e.extractLsb' 9 3).toNat
def Pte.wod (e : Pte) : Bool := e.getLsbD 12
def Pte.addr (e : Pte) : Nat := (e.extractLsb' 14 50).toNat * 16384
def Pte.tagIdx (e : Pte) : Nat := (e.extractLsb' 64 24).toNat
def Pte.tagged (e : Pte) : Bool := e.getLsbD 91
def Pte.pin (e : Pte) : Bool := e.getLsbD 92
def Pte.hstamp (e : Pte) : Nat := (e.extractLsb' 96 32).toNat

/-- The size of a die's HBM: two stacks of 48 GiB (00 R1). -/
def hbmSize : Nat := 96 * 2 ^ 30

/-- 18 R396: a reserved field that is not zero; a table entry uses only ADDR and KIND. -/
def Pte.reservedNonZero (e : Pte) : Bool :=
  e.getLsbD 13 || (e.extractLsb' 88 3 != 0) || (e.extractLsb' 93 3 != 0) || decide (5 ≤ e.subst) ||
  (e.kind == 1 && (e.extractLsb' 3 10 != 0 || e.extractLsb' 64 64 != 0)) ||
  ((e.kind == 2 || e.kind == 3) && e.extractLsb' 14 2 != 0) ||
  ((e.kind == 4 || e.kind == 5) && e.extractLsb' 14 50 != 0)

/-- The size of a page of the last level and of the middle level (18 R395). -/
def pageSize : Nat := 65536
def bigSize : Nat := 67108864
def leafSize (big : Bool) : Nat := if big then bigSize else pageSize

/-- 18 R395: one leaf found by a walk, and whether it is of the middle level. -/
structure Leaf where
  pte : Pte
  big : Bool
  /-- where the entry lies in its die's HBM -/
  at_ : Nat
  deriving DecidableEq, Repr

/-- 18 R407: where the firmware keeps the pigeonhole buckets of a die (log entry 8). -/
def bucketBase : Nat := hbmSize - 72 * 2 ^ 20
def bucketRegion : Nat := 4096 * 1024
def bucketAt (i : BitVec 12) : Nat := bucketBase + 1024 * i.toNat

/-- 18 R395, R405: a leaf whose frame lies in the die's memory and whose tag blocks lie in the pool. A frame beyond
the memory, or in the region of the pigeonholes, which tenants do not reach (18 R407), makes the entry invalid (log entry 12). -/
def leafOk (d : Die) (e : Pte) (big : Bool) : Bool :=
  (e.kind != 2 || (decide (e.addr + leafSize big ≤ hbmSize) &&
    (decide (e.addr + leafSize big ≤ bucketBase) || decide (bucketBase + bucketRegion ≤ e.addr)))) &&
  (!big || e.addr % bigSize == 0) &&
  (!e.tagged || decide (e.tagIdx + leafSize big / pageSize ≤ d.tagBlocks))

/-- 18 R395: the walk from a table down, `n` levels left. -/
def walkFrom (m : Memory) (d : BitVec 2) (x : Die) (off : Nat) (t : Nat) : Nat → Option Leaf
  | 0 => none
  | n + 1 =>
    let i := if n == 2 then off / 2 ^ 36 % 512 else if n == 1 then off / 2 ^ 26 % 1024 else off / 2 ^ 16 % 1024
    let a := t + 16 * i
    let e : Pte := BitVec.ofNat 128 (readNat m (hbmKey d a) 16)
    if e.reservedNonZero || e.kind == 0 || e.kind == 6 || e.kind == 7 then none
    else if e.kind == 1 then (if decide (e.addr + 16384 ≤ hbmSize) then walkFrom m d x off e.addr n else none)
    else if n == 2 then none
    else if leafOk x e (n == 1) then some ⟨e, n == 1, a⟩ else none

/-- 18 R395: Translate, from the root of the ASID. -/
def State.walk (s : State) (d : BitVec 2) (asid : BitVec 12) (off : Nat) : Option Leaf :=
  match (s.die d).roots.find? fun r => r.1 == asid.toNat with
  | none => none
  | some r => walkFrom s.mem d (s.die d) off r.2 3

/-- 18 R399: the cached leaf of a page while its lease runs, else what the walk finds. -/
def State.leaf (s : State) (d : BitVec 2) (asid : BitVec 12) (off : Nat) : Option Leaf :=
  match (s.die d).tlb.find? fun t => t.asid == asid && t.page == off / leafSize t.big && decide (s.time < t.till) with
  | some t => some ⟨t.pte, t.big, 0⟩
  | none => s.walk d asid off

/-- 18 R399, R401: a walk that finds a leaf of a device frame or a host page fills the TLB; the miss is counted (20 R434). -/
def State.fillTlb (s : State) (d : BitVec 2) (asid : BitVec 12) (off : Nat) : State :=
  let x := s.die d
  if (x.tlb.any fun t => t.asid == asid && t.page == off / leafSize t.big && decide (s.time < t.till)) then s
  else
    match s.walk d asid off with
    | some l =>
      if l.pte.kind == 2 || l.pte.kind == 3 then
        (s.setDie d { x with tlb := x.tlb ++ [⟨asid, off / leafSize l.big, l.pte, l.big, s.time + x.lease⟩] }).count d 23 1
      else s
    | none => s

/-! ### The torus (20 R427 to R430) -/

/-- 18 R392: the package that a remote address names; with 20 R429 it is the index of its route entry. -/
def vaPackage (va : Word) : BitVec 15 := va.extractLsb' 47 15

/-- Where a packet that is on a die goes (20 R428). -/
inductive Exit where
  | here
  /-- it leaves on a port of a die of this package -/
  | port (d : BitVec 2) (p : BitVec 3)
  | unreachable
  /-- a route change holds it back (20 R430) -/
  | held
  deriving DecidableEq, Repr

/-- 20 R428, R429, R430: the way on from a die; where the port is down, across the package to the next die whose port is up. -/
def State.torusExit (s : State) (d : BitVec 2) (dest : BitVec 15) : Exit :=
  let x := s.die d
  let e := x.routes[dest.toNat]'(dest.isLt)
  let changes := match x.routeNext with | some t => t[dest.toNat]'(dest.isLt) != e | none => false
  if changes then .held
  else
    let p : BitVec 3 := e.setWidth 3
    if p == 6 then .here
    else if p == 7 then .unreachable
    else
      match (List.range 4).find? fun i =>
          let y := s.die (d + BitVec.ofNat 2 i)
          y.up && y.portUp.getLsbD p.toNat with
      | some i => .port (d + BitVec.ofNat 2 i) p
      | none => .unreachable

/-- 18 R393, R392: where an address leads. -/
inductive Place where
  /-- a byte of a die's HBM, with the leaf -/
  | dev (d : BitVec 2) (a : Nat) (l : Leaf)
  | host (a : Nat)
  /-- the owner is another package (18 R393) -/
  | remote
  /-- held at the MTU (18 R401) -/
  | held (why : HeldWhy)
  /-- not performed: the KIND of 11 R274 -/
  | bad (kind : Nat)
  deriving DecidableEq, Repr

/-- 18 R392: the die and offset of a local address. -/
def localForm (s : State) (va : Word) : Bool :=
  (va.extractLsb' 62 2 == 0 && va.extractLsb' 47 15 == 0) || (va.extractLsb' 62 2 == 1 && va.extractLsb' 47 15 == s.coord)
def vaDie (va : Word) : BitVec 2 := va.extractLsb' 45 2
def vaOff (va : Word) : Nat := (va.extractLsb' 0 45).toNat

/-- The bits of a remote address that its local form has (18 R392). -/
def localBits : Word := 0x7FFFFFFFFFFF

/-- 20 R428, R429: an address as an agent on a die reaches it: where the route to its package says that this package is the
destination, the packet is delivered to the owning die here. -/
def State.routed (s : State) (d : BitVec 2) (va : Word) : Word :=
  if va.extractLsb' 62 2 == 1 && !localForm s va && s.torusExit d (vaPackage va) == .here then va &&& localBits else va

/-- 18 R399: the walks of `n` bytes from a local address fill the TLBs. -/
def State.fillRange (s : State) (asid : BitVec 12) (va : Word) (n : Nat) : State :=
  (List.range ((va.toNat % 65536 + n + 65535) / 65536)).foldl (fun s i =>
    let a := va + BitVec.ofNat 64 (65536 * i)
    if !a.getLsbD 63 && localForm s a && (s.die (vaDie a)).up then s.fillTlb (vaDie a) asid (vaOff a) else s) s

/-- 18 R403: the page is in its hysteresis window. -/
def inWindow (s : State) (d : BitVec 2) (e : Pte) : Bool :=
  decide ((s.time / 65536 + 2 ^ 32 - e.hstamp) % 2 ^ 32 < (s.die d).hwin)

/-- 18 R392, R397, R401, R404: the place of an access that needs `rd`, `wr`, and its tags at home when `tags`. -/
def State.place (s : State) (asid : BitVec 12) (va : Word) (rd wr tags : Bool) : Place :=
  if va.getLsbD 63 then .host (va.toNat % 2 ^ 63)
  else if localForm s va then
    let d := vaDie va
    if !(s.die d).up then .bad 6
    else
      match s.leaf d asid (vaOff va) with
      | none => .bad 6
      | some l =>
        let e := l.pte
        if rd && !e.r then .bad 1
        else if wr && !e.w && !e.wod then .bad 2
        else if e.kind == 2 then
          (if wr && !e.w then .held .writeOnDemand
            else .dev d (e.addr + vaOff va % leafSize l.big) l)
        else if e.kind == 3 then
          (if (inWindow s d e || l.big) && !tags then
            (if wr && !e.w then .held .writeOnDemand else .host (e.addr + vaOff va % leafSize l.big))
          else if inWindow s d e || l.big then .held .window else .held .hostLocated)
        else if e.kind == 4 then .held .unbacked
        else .held .migrating
  else if va.extractLsb' 62 2 == 1 then .remote
  else .bad 6

/-- The memory key of a place. -/
def Place.key : Place → Nat
  | .dev d a _ => hbmKey d a
  | .host a => hostKey a
  | _ => 0

/-! ### Poison (18 R410, R411) -/

/-- 18 R410: what a granule with an error reads as. -/
def substByte (code k : Nat) : Byte :=
  match code with
  | 1 => BitVec.ofNat 8 (0x7FC00000 >>> (8 * (k % 4)))
  | 2 => BitVec.ofNat 8 (0x7FC0 >>> (8 * (k % 2)))
  | 3 => 0x7F
  | 4 => 0x80
  | _ => 0

/-- Bytes of device memory as a reader sees them: the substitution value in poisoned granules of a TOLERANT page. -/
def State.readDev (s : State) (p : Place) (n : Nat) : List Byte :=
  match p with
  | .dev _ _ l =>
    if l.pte.tolerant && isPoisoned s.poison p.key n then
      (List.range n).map fun i =>
        let k := p.key + i
        if s.poison.contains (poisonBase k) then substByte l.pte.subst k else readByte s.mem k
    else readBytes s.mem p.key n
  | _ => readBytes s.mem p.key n

/-- 18 R411: the reader meets poison. -/
def State.poisonAt (s : State) (p : Place) (n : Nat) : Bool :=
  match p with
  | .dev _ _ l => !l.pte.tolerant && isPoisoned s.poison p.key n
  | _ => isPoisoned s.poison p.key n

/-- 11 R272: the address of the first poisoned byte among `n` from `va`, which lie at a key. -/
def poisonVa (p : List Nat) (k n : Nat) (va : Word) : Word :=
  va + BitVec.ofNat 64 (((List.range n).find? fun i => p.contains (poisonBase (k + i))).getD 0)

/-- Bytes stored at a key; the units covered whole lose their poison. -/
def State.storeAt (s : State) (k : Nat) (l : List Byte) : State :=
  { s with mem := writeBytes s.mem k l, poison := coverPoison s.poison k l.length }

/-! ### Ranges of device space -/

/-- A range of bytes in device space: where its pieces lie, page by page, or the first that cannot be reached. -/
inductive Span where
  | ok (l : List (Place × Nat))
  | held (va : Word) (why : HeldWhy)
  | remote (va : Word)
  | bad (va : Word) (kind : Nat)
  deriving DecidableEq, Repr

/-- The pieces of `n` bytes from `va`, at most `fuel` pages. -/
def State.spanFrom (s : State) (asid : BitVec 12) (rd wr tags : Bool) (va : Word) (n : Nat) : Nat → List (Place × Nat) → Span
  | 0, l => .ok l
  | fuel + 1, l =>
    if n == 0 then .ok l
    else
      let k := min n (65536 - va.toNat % 65536)
      match s.place asid va rd wr tags with
      | .held w => .held va w
      | .remote => .remote va
      | .bad e => .bad va e
      | p => s.spanFrom asid rd wr tags (va + BitVec.ofNat 64 k) (n - k) fuel (l ++ [(p, k)])

def State.span (s : State) (asid : BitVec 12) (va : Word) (n : Nat) (rd wr tags : Bool) : Span :=
  s.spanFrom asid rd wr tags va n (n / 65536 + 2) []

def State.spanRead (s : State) (l : List (Place × Nat)) : List Byte := l.flatMap fun p => s.readDev p.1 p.2
def State.spanPoison (s : State) (l : List (Place × Nat)) : Bool := l.any fun p => s.poisonAt p.1 p.2
def State.spanWrite (s : State) : List (Place × Nat) → List Byte → State
  | [], _ => s
  | p :: r, b => (s.storeAt p.1.key (b.take p.2)).spanWrite r (b.drop p.2)

/-- A range as an agent on a die reaches it. -/
def State.rangeAt (s : State) (d : BitVec 2) (asid : BitVec 12) (va : Word) (n : Nat) (rd wr tags : Bool) : Span :=
  match s.span asid (s.routed d va) n rd wr tags with
  | .bad x k => .bad (if s.routed d va == va then x else x ||| (va &&& ~~~localBits)) k
  | x => x
/-- The place of an access as an agent on a die reaches it. -/
def State.placeAt (s : State) (d : BitVec 2) (asid : BitVec 12) (va : Word) (rd wr tags : Bool) : Place :=
  s.place asid (s.routed d va) rd wr tags

/-! ### Errors counted (18 R412) -/

/-- 18 R412: granule events of an address space: 0 corrected errors, 1 substitutions, 2 new poisonings; per die and per ASID,
saturating. -/
def State.countErr (s : State) (d : BitVec 2) (asid : BitVec 12) (i n : Nat) : State :=
  if n == 0 then s
  else
    (s.count d (8 + i) n).modDie d fun x =>
      let old := ((x.asidErrs.find? fun e => e.1 == asid.toNat).map (·.2)).getD (Vector.replicate 3 0)
      let new := old.setIfInBounds i (BitVec.ofNat 64 (min (2 ^ 64 - 1) ((old.getD i 0).toNat + n)))
      { x with asidErrs := x.asidErrs.filter (fun e => e.1 != asid.toNat) ++ [(asid.toNat, new)] }

/-- 18 R410: the granules of pieces that a reader gets substitution values for. -/
def State.countSubst (s : State) (asid : BitVec 12) (l : List (Place × Nat)) : State :=
  l.foldl (fun s p => match p.1 with
    | .dev d _ f => if f.pte.tolerant then s.countErr d asid 1 ((poisonUnits p.1.key p.2).filter s.poison.contains).length else s
    | _ => s) s

/-- 18 R412: the granules of pieces that a write has poisoned anew. -/
def State.countPoison (s : State) (before : List Nat) (asid : BitVec 12) (l : List (Place × Nat)) : State :=
  l.foldl (fun s p => match p.1 with
    | .dev d _ _ => s.countErr d asid 2 ((poisonUnits p.1.key p.2).filter fun k => s.poison.contains k && !before.contains k).length
    | _ => s) s

/-- 11 R272: the address of the first poisoned byte that a reader of the pieces from `va` meets. -/
def State.spanPoisonVa (s : State) : List (Place × Nat) → Word → Option Word
  | [], _ => none
  | p :: r, va =>
    if s.poisonAt p.1 p.2 then some (poisonVa s.poison p.1.key p.2 va) else s.spanPoisonVa r (va + BitVec.ofNat 64 p.2)

/-- The key ranges that the race detector covers: pieces of pages with race-check set (10 R266). -/
def racedPieces (l : List (Place × Nat)) : List (Nat × Nat) :=
  l.filterMap fun p => match p.1 with
    | .dev _ _ f => if f.pte.race then some (p.1.key, p.2) else none
    | _ => none

/-- 01 R36: a turn of the tenant runs on the die. -/
def State.inTurn (s : State) (d : BitVec 2) (tenant : BitVec 8) : Bool := (s.die d).turnOwner == tenant

/-- 18 R409: no stack of the die that holds the memory quiesces (log entry 13). -/
def State.devStill (s : State) (d : BitVec 2) : Bool := (s.die d).quiesce.all (·.isNone)
/-- 18 R409: pieces that may be accessed now. -/
def State.still (s : State) (l : List (Place × Nat)) : Bool :=
  l.all fun p => match p.1 with | .dev d _ _ => s.devStill d | _ => true

def Place.isDev : Place → Bool | .dev _ _ _ => true | _ => false

/-- What an engine, an array operation or a command of the firmware finds at a range of device space. -/
inductive Near where
  | ok (l : List (Place × Nat))
  /-- another package holds it (18 R393) -/
  | remote (va : Word)
  | held (va : Word)
  /-- it waits for a turn of its tenant, or for a stack that quiesces -/
  | stall
  | bad (va : Word) (kind : Nat)
  deriving DecidableEq, Repr

/-- 20 R432: a packet is lost on its way: it was in flight over a link that went down, or met DIR 7, in another package. Which
ones are is free (log entry 1). -/
def State.lostOnWay (s : State) : Bool := s.freeVal 1 2999 == 1

/-- 01 R36, 18 R392, R393: `n` bytes of device space, for an access from a die. An access to device memory waits for a turn
of its tenant in the slot table of the die it comes from, wherever the memory lies (log entry 57); one to host memory waits
for none. -/
def State.near (s : State) (d : BitVec 2) (tenant : BitVec 8) (asid : BitVec 12) (va : Word) (n : Nat) (rd wr tags : Bool) : Near :=
  match s.rangeAt d asid va n rd wr tags with
  | .ok l => if (!(l.any fun p => p.1.isDev) || s.inTurn d tenant) && s.still l then .ok l else .stall
  | .held va _ => .held va
  | .remote va => if s.inTurn d tenant then .remote va else .stall
  | .bad va k => .bad va k

/-! ### Packets to other packages (18 R393, 20 R428 to R432) -/

/-- A packet of an agent for an address. -/
def State.packetOf (s : State) (who : Sender) (va : Word) (wr : Bool) : Option Packet :=
  s.packets.find? fun p => p.who == who && p.va == va && p.wr == wr

/-- 18 R393, 20 R428: a packet for the package that owns an address is ready to leave from a die. -/
def State.sendPacket (s : State) (d : BitVec 2) (who : Sender) (tenant : BitVec 8) (asid : BitVec 12) (va : Word) (wr : Bool)
    (data : List Byte) : State :=
  let p : Packet :=
    { id := s.nextId, die := d, dest := vaPackage va, who := who, tenant := tenant, asid := asid, va := va, wr := wr, vc := 0
      data := data, phase := .waiting, port := 7, detour := false }
  { s with nextId := s.nextId + 1, packets := s.packets ++ [p] }

/-- An agent is done with the packets it has sent: they go, but for those still on their way. -/
def State.donePackets (s : State) (who : Sender) : State :=
  { s with packets := s.packets.filter fun p => p.who != who || p.phase == .sent }

/-- What becomes of an access that an agent makes by a packet. -/
inductive Far where
  | answered (pkt : Nat)
  | waits
  | refused (kind : Nat)
  deriving DecidableEq, Repr

/-- 20 R428 to R432: an access of another package: its packet goes out, once, and the access goes on when it has been
answered. -/
def State.askFar (s : State) (d : BitVec 2) (who : Sender) (tenant : BitVec 8) (asid : BitVec 12) (va : Word) (wr : Bool)
    (data : List Byte) : State × Far :=
  match s.packetOf who va wr with
  | none => (s.sendPacket d who tenant asid va wr data, .waits)
  | some p =>
    match p.phase with
    | .answered => (s, .answered p.id)
    | .refused k => (s.donePackets who, .refused k)
    | _ => (s, .waits)

/-- What an agent meets at a range of device space, and the state in which it does. -/
inductive Met where
  | ok (l : List (Place × Nat))
  /-- the packet by which another package has answered -/
  | far (pkt : Nat)
  | held (va : Word)
  | stall
  | bad (va : Word) (kind : Nat)
  deriving DecidableEq, Repr

/-- An agent's access to `n` bytes of device space: the walk fills the TLB (18 R399), or a packet goes to another package. A
packet that cannot be delivered is an access with KIND 6 (20 R432). -/
def State.meet (s : State) (d : BitVec 2) (who : Sender) (tenant : BitVec 8) (asid : BitVec 12) (va : Word) (n : Nat)
    (rd wr tags : Bool) (data : List Byte) : State × Met :=
  match s.near d tenant asid va n rd wr tags with
  | .ok l => (s.fillRange asid (s.routed d va) n, .ok l)
  | .held a => (s, .held a)
  | .stall => (s, .stall)
  | .bad a k => (s, .bad a k)
  | .remote a =>
    let t := s.askFar d who tenant asid a wr data
    match t.2 with
    | .answered p => (t.1, .far p)
    | .waits => (t.1, .stall)
    | .refused k => (t.1, .bad a k)

/-- Bytes that another package answers (log entry 1). -/
def farBytes (pkt n : Nat) : List Byte := (List.range n).map fun i => Config.farBits 8 (pkt * 65536 + i)
/-- What else it answers, as a number of `w` bits: whether the bytes are poisoned, their tags (log entry 1). -/
def farWord (pkt w : Nat) : BitVec w := Config.farBits w (pkt * 65536 + 65535)

/-! ### The mailbox of a function (19 R423) -/

def State.fn (s : State) (fn : BitVec 5) : Fn := s.fns.getD fn.toNat Fn.reset
def State.modFn (s : State) (fn : BitVec 5) (f : Fn → Fn) : State :=
  { s with fns := s.fns.setIfInBounds fn.toNat (f (s.fns.getD fn.toNat Fn.reset)) }

/-- Words put from an index on; those beyond the end are lost. -/
def putWords (v : Vector Word 32) (i : Nat) : List Word → Vector Word 32
  | [] => v
  | w :: r => putWords (v.setIfInBounds i w) (i + 1) r

/-- 19 R423: the response, and the mailbox free again. -/
def State.answer (s : State) (fn : BitVec 5) (status : Nat) (data : List Word) : State :=
  s.modFn fn fun f => { f with busy := false, resp := putWords f.resp 0 (BitVec.ofNat 64 status :: data) }

/-- A request of a context. -/
def Req.mine (r : Req) (c : CoreRef) (x : BitVec 2) : Bool := r.core == c && r.ctx == x && !r.office

/-- 11 R285: what a fetch, an engine or an array operation of a context needs at home: a request that is held, or
that finds the page there and goes. Its mask holds what it needs: 1 R, 2 W, 4 tags; its aux is the number of the
command or operation, 0 for a fetch. -/
def State.bringHome (s : State) (c : CoreRef) (x : BitVec 2) (va : Word) (need : Word) (owner : Nat) : State :=
  if (s.reqs.any fun r => r.mine c x && r.instr == .nop && r.va == va && r.aux == BitVec.ofNat 64 owner) then s
  else
    let k := s.ctx c x
    let st := s.stream k.stream
    let r : Req :=
      { id := s.nextId, core := c, ctx := x, acc := false, slot := 0, bundle := k.issueX, handler := k.hmode, path := 7
        instr := .nop, asid := st.asid, tenant := st.tenant, stream := k.stream, va := va, space := 2, data := 0
        idx := 0, mask := need, aux := BitVec.ofNat 64 owner, budget := 0, waits := [], admitted := false, phase := .issued, dests := []
        res := 0, res2 := 0, replay := false, heldAt := 0, heldTurn := 0, failed := false, turn := 0, office := false }
    { s with reqs := s.reqs ++ [r], nextId := s.nextId + 1 }

/-! ### Tags (18 R405) -/

/-- 18 R405: the key of the byte that holds a word's tag bits, and their shift in it. -/
def State.tagAt (s : State) (d : BitVec 2) (l : Leaf) (off : Nat) : Nat × Nat :=
  let blk := l.pte.tagIdx + (if l.big then off % bigSize / pageSize else 0)
  let w := off % pageSize / 8
  (hbmKey d ((s.die d).tagBase + 2048 * blk + w / 4), 2 * (w % 4))

def State.tagBit (s : State) (t : Nat × Nat) (waited : Bool) : Bool :=
  (readByte s.mem t.1).getLsbD (t.2 + waited.toNat)
def State.setTag (s : State) (t : Nat × Nat) (waited : Bool) (v : Bool) : State :=
  let b := readByte s.mem t.1
  let m : Byte := 1#8 <<< (t.2 + waited.toNat)
  { s with mem := writeByte s.mem t.1 (if v then b ||| m else b &&& ~~~m) }

/-- 08 R189: FULL of a word has changed: the retries of that word are due now. -/
def State.retryNow (s : State) (t : Nat × Nat) : State :=
  { s with reqs := s.reqs.map fun r => match r.phase with
    | .retrying _ =>
      let d := vaDie r.va
      match s.leaf d r.asid (vaOff r.va) with
      | some l => if s.tagAt d l (vaOff r.va) == t then { r with phase := .retrying s.time } else r
      | none => r
    | _ => r }

/-- FULL of a word as a step leaves it. -/
def State.setFull (s : State) (t : Nat × Nat) (v : Bool) : State :=
  if s.tagBit t false == v then s else (s.setTag t false v).retryNow t

/-- 18 R407: the bucket of a word. -/
def bucketOf (asid : BitVec 12) (va : Word) : BitVec 12 :=
  va.extractLsb' 3 12 ^^^ va.extractLsb' 15 12 ^^^ va.extractLsb' 27 12 ^^^ asid

/-- The bits 46:3 of a word's address, which name it in a record. -/
def wordOf (va : Word) : Word := va &&& 0x7FFFFFFFFFF8

def Die.bucket (d : Die) (i : BitVec 12) : Bucket := (d.buckets.find? fun b => b.idx == i).getD ⟨i, 0, []⟩
def Die.setBucket (d : Die) (b : Bucket) : Die :=
  { d with buckets := if (d.buckets.any fun x => x.idx == b.idx) then d.buckets.map fun x => if x.idx == b.idx then b else x
      else d.buckets ++ [b] }

/-- The records of a word, oldest first. -/
def Die.recsOf (d : Die) (asid : BitVec 12) (va : Word) : List ParkRec :=
  (d.bucket (bucketOf asid va)).recs.filter fun r => r.asid == asid && r.word == wordOf va

/-- 18 R407: the bytes of a record. -/
def ParkRec.bytes (r : ParkRec) : List Byte :=
  bytesOfNat (r.kind ++ r.asid ++ 0#3 ++ r.word.extractLsb' 3 44 ++ 0#3 : BitVec 64).toNat 8 ++
  bytesOfNat (r.seq ++ r.pkg ++ r.core.die ++ r.core.core ++ r.ctx ++ 0#5 : BitVec 64).toNat 8
/-- 18 R407: the bytes of a bucket: its header, and its records in parking order. -/
def Bucket.bytes (b : Bucket) : List Byte := bytesOfNat b.recs.length 8 ++ bytesOfNat b.next.toNat 8 ++ b.recs.flatMap ParkRec.bytes

/-- 18 R407: a bucket changed, in the MSC and in the firmware's region of device memory. -/
def State.putBucket (s : State) (d : BitVec 2) (b : Bucket) : State :=
  { s with mem := writeBytes s.mem (hbmKey d (bucketAt b.idx)) (b.bytes.take 1024) }.modDie d fun x => x.setBucket b

/-- 18 R407: the bucket of a word has no room. -/
def Die.bucketFull (d : Die) (asid : BitVec 12) (va : Word) : Bool := decide (63 ≤ (d.bucket (bucketOf asid va)).recs.length)

/-- 18 R407: AppendRecord, in a bucket with room. -/
def State.appendRec (s : State) (d : BitVec 2) (asid : BitVec 12) (va : Word) (kind : BitVec 2) (core : CoreRef) (ctx : BitVec 2)
    (req : Nat) : State :=
  let b := (s.die d).bucket (bucketOf asid va)
  s.putBucket d { b with next := b.next + 1, recs := b.recs ++ [⟨kind, asid, wordOf va, b.next.setWidth 32, s.coord, core, ctx, req⟩] }

/-- 18 R407: the records of a die that a test picks are removed, each with the gap it leaves. -/
def State.removeRecs (s : State) (d : BitVec 2) (sel : ParkRec → Bool) : State :=
  ((s.die d).buckets.filter fun b => b.recs.any sel).foldl (fun s b =>
    let b := (s.die d).bucket b.idx
    s.putBucket d { b with recs := b.recs.filter fun r => !sel r }) s

/-- 08 R194: a woken PARK returns a value; woken records return in parking order, by their turn. -/
def State.wakeRec (s : State) (d : BitVec 2) (r : ParkRec) (v : Word) : State :=
  (s.removeRecs d fun x => x.req == r.req).modReq r.req fun q => { q with phase := .performed, res2 := v }

/-- 08 R191: WAITED follows the records. -/
def State.settleWaited (s : State) (d : BitVec 2) (asid : BitVec 12) (va : Word) (t : Nat × Nat) : State :=
  if ((s.die d).recsOf asid va).isEmpty then s.setTag t true false else s

/-- 08 R192: the reservations of a word go. -/
def State.dropResv (s : State) (d : BitVec 2) (asid : BitVec 12) (va : Word) : State :=
  s.modDie d fun x => { x with resvs := x.resvs.filter fun r => !(r.asid == asid && r.word == wordOf va) }

/-- 08 R191: WakeFull over the records in parking order. -/
def wakeFullFrom (d : BitVec 2) (asid : BitVec 12) (va : Word) : List ParkRec → State → State
  | [], s => s
  | r :: l, s =>
    if r.kind == 0 then wakeFullFrom d asid va l (s.wakeRec d r 1)
    else if r.kind == 1 then
      (s.wakeRec d r 1).modDie d fun x => { x with resvs := x.resvs ++ [⟨wordOf va, asid, r.core, r.ctx, s.time + 64⟩] }
    else wakeFullFrom d asid va l s

def State.wakeFull (s : State) (d : BitVec 2) (asid : BitVec 12) (va : Word) (t : Nat × Nat) : State :=
  if s.tagBit t true then
    (wakeFullFrom d asid va ((s.die d).recsOf asid va) s).settleWaited d asid va t
  else s

/-- 08 R191: WakeEmpty. -/
def State.wakeEmpty (s : State) (d : BitVec 2) (asid : BitVec 12) (va : Word) (t : Nat × Nat) : State :=
  if s.tagBit t true then
    match ((s.die d).recsOf asid va).find? fun r => r.kind == 2 with
    | some r => (s.wakeRec d r 1).settleWaited d asid va t
    | none => s.settleWaited d asid va t
  else s

/-- 08 R191: a fill of a word. -/
def State.fillWord (s : State) (d : BitVec 2) (asid : BitVec 12) (va : Word) (t : Nat × Nat) : State :=
  (s.setFull t true).wakeFull d asid va t
/-- 08 R191: an emptying of a word. -/
def State.emptyWord (s : State) (d : BitVec 2) (asid : BitVec 12) (va : Word) (t : Nat × Nat) : State :=
  (s.setFull t false).wakeEmpty d asid va t

/-! ### Races (10 R266 to R270) -/

/-- The bytes of an access within the line that starts at `line`. -/
def lineMask (line k n : Nat) : BitVec 64 :=
  BitVec.ofNat 64 ((List.range 64).foldr (fun i acc => (decide (k ≤ line + i) && decide (line + i < k + n)).toNat + 2 * acc) 0)

/-- The lines that `n` bytes from `k` touch. -/
def linesOf (k n : Nat) : List Nat := (List.range ((k % 64 + n + 63) / 64)).map fun i => k / 64 * 64 + 64 * i

/-- An access as the race detector sees it. -/
structure Probe where
  agent : Agent
  path : BitVec 3
  tenant : BitVec 8
  coreIdx : BitVec 8
  key : Nat
  bytes : Nat
  write : Bool
  atomic : Bool
  deriving DecidableEq, Repr

/-- 10 R268: the first record that makes the access a race. -/
def State.findRace (s : State) (p : Probe) (acq : Nat) : Option RaceRec :=
  s.races.find? fun y =>
    y.agent != p.agent && (linesOf p.key p.bytes).contains y.line &&
    (y.mask &&& lineMask y.line p.key p.bytes != 0) && (p.write || y.write) && !(p.atomic && y.atomic) &&
    decide (acq ≤ y.t)

/-- 10 R266: a line's records with one more: a write replaces the write, a read the agent's own read or the older. -/
def addRace (l : List RaceRec) (r : RaceRec) : List RaceRec :=
  if r.write then l.filter (fun y => !(y.line == r.line && y.write)) ++ [r]
  else
    let reads := l.filter fun y => y.line == r.line && !y.write
    if (reads.any fun y => y.agent == r.agent) then
      l.filter (fun y => !(y.line == r.line && !y.write && y.agent == r.agent)) ++ [r]
    else
      match reads with
      | a :: b :: _ =>
        let old := if b.t < a.t then b else a
        l.filter (fun y => y != old) ++ [r]
      | _ => l ++ [r]

/-- 10 R266: an access leaves its records; records beyond 65,536 cycles go, and the device may evict one more
(log entry 10). -/
def State.recordRace (s : State) (p : Probe) : State :=
  let l := s.races.filter fun y => decide (s.time ≤ y.t + 65536)
  let l := if s.freeVal 1 4095 == 1 then l.drop 1 else l
  { s with races := (linesOf p.key p.bytes).foldl (fun l ln =>
      addRace l ⟨ln, p.agent, p.path, p.tenant, p.coreIdx, p.write, p.atomic, lineMask ln p.key p.bytes, s.time⟩) l }

/-- The context behind an agent. -/
def Agent.ref : Agent → CtxRef
  | .ls x | .gs x | .eng x _ | .mx x => x

/-- 10 R270: TINFO of the race traps, without DIST. -/
def raceInfo (s : State) (p : Probe) (y : RaceRec) : Word :=
  let foreign := y.tenant != p.tenant
  (BitVec.ofNat 16 (min 65535 (s.time - y.t)) ++ (if foreign then 0 else y.coreIdx) ++
    (if foreign then 0 else y.agent.ref.ctx) ++ y.path ++ BitVec.ofBool y.write ++ BitVec.ofBool p.write ++
    BitVec.ofBool foreign ++ (0#32) : BitVec 64)

/-! ### What is outstanding (10 R256, R260, R261) -/

/-- 10 R256: the operation is acquire-class, release-class. -/
def orderOf (i : Instr) : Bool × Bool :=
  match i with
  | .ld _ f | .ldv _ f | .ldvs _ f | .ldg _ f | .ldgv _ f | .ldw _ f | .ldc _ f | .ldt _ f | .st _ f | .stv _ f
  | .stvs _ f | .stg _ f | .stgv _ f | .stf _ f | .sts _ f | .tage _ f | .amo _ f | .cas _ f | .fence _ f
  | .barr _ f | .bwait _ f | .park _ f | .wake _ f => (f.order.getLsbD 0, f.order.getLsbD 1)
  | .fwait _ _ | .await _ _ => (true, false)
  | .fpost _ _ => (false, true)
  | .hbar _ _ | .fencex _ _ | .strmrd _ _ | .strmcommit _ _ | .strmin _ _ => (true, true)
  | _ => (false, false)
def isAcquire (i : Instr) : Bool := (orderOf i).1
def isRelease (i : Instr) : Bool := (orderOf i).2

/-- The request, command or array operation has not come to its end: a load has not returned, a command has not
completed, or bytes that it landed have not been counted (10 R258). -/
def State.pendingId (s : State) (c : CoreRef) (id : Nat) : Bool :=
  (s.reqs.any fun r => r.id == id) || ((s.core c).cmds.any fun k => k.id == id) || ((s.core c).arrayQ.any fun o => o.id == id) ||
  s.arrivals.any fun a => a.cmd == id

/-- The access has not been performed. -/
def State.unperformed (s : State) (c : CoreRef) (id : Nat) : Bool :=
  (s.reqs.any fun r => r.id == id && r.phase != .performed) || ((s.core c).cmds.any fun k => k.id == id)

/-- 10 R260: earlier requests of a context on a path that are not performed. -/
def State.openReqs (s : State) (c : CoreRef) (x : BitVec 2) (path : BitVec 3) : List Req :=
  s.reqs.filter fun r => r.mine c x && r.path == path && r.phase != .performed

/-- 08 R181, 10 R261: a store of the context stands in a replay queue. -/
def State.replays (s : State) (c : CoreRef) (x : BitVec 2) : Bool := s.reqs.any fun r => r.mine c x && r.replay && r.instr != .nop

/-- 10 R256: a release of the context's LS agent may be performed: nothing earlier is open, no store waits in a
replay queue. -/
def State.released (s : State) (c : CoreRef) (x : BitVec 2) : Bool := (s.openReqs c x 0).isEmpty && !s.replays c x

/-- 10 R256: an earlier acquire of the agent has not completed. -/
def State.acquiring (s : State) (c : CoreRef) (x : BitVec 2) (path : BitVec 3) : Bool :=
  s.reqs.any fun r => r.mine c x && r.path == path && isAcquire r.instr

/-- 08 R204, R205: the accesses that a new access of a path must wait for. -/
def Ctx.holdIds (c : Ctx) (path : BitVec 3) (store : Bool) : List Nat :=
  (c.holds.filter fun h => h.mask.getLsbD path.toNat && (h.all || store)).flatMap (·.ids)

/-- 10 R259: an earlier release of the agent has not been performed; a later acquire comes after it. -/
def State.releasing (s : State) (c : CoreRef) (x : BitVec 2) (path : BitVec 3) : Bool :=
  (s.openReqs c x path).any fun r => isRelease r.instr

/-- 10 R267: an acquire-class operation of the context completes. -/
def Ctx.acquired (c : Ctx) (t : Nat) : Ctx := { c with acqTime := max c.acqTime t }

/-! ### Flags (08 R198) -/

/-- 08 R198: the standing waits are tested in order, each seeing the count the earlier ones have left. -/
def testWaits (f : BitVec 5) : List FlagWait → BitVec 16 → List FlagWait × BitVec 16
  | [], v => ([], v)
  | w :: r, v =>
    if w.flag == f && !w.granted && decide (w.n.toNat ≤ v.toNat) then
      let t := testWaits f r (if w.consume then v - w.n else v)
      ({ w with granted := true } :: t.1, t.2)
    else
      let t := testWaits f r v
      (w :: t.1, t.2)

def Core.testFlag (k : Core) (f : BitVec 5) : Core :=
  let t := testWaits f k.fwaits (k.f[f.toNat]'(f.isLt))
  { k with fwaits := t.1, f := k.f.set f.toNat t.2 f.isLt }

/-- 08 R198: FPost. -/
def Core.post (k : Core) (f : BitVec 5) (n : BitVec 16) : Core :=
  Core.testFlag { k with f := k.f.set f.toNat (k.f[f.toNat]'(f.isLt) + n) f.isLt } f

/-! ### The Triptych given up, and leaving (02 R50, 11 R294, 12 R302) -/

/-- 12 R322: the pins that FIFO entries hold are dropped. -/
def State.unpin (s : State) (d : BitVec 2) (page : Nat) : State :=
  s.modDie d fun x => { x with pins := x.pins.filterMap fun p =>
    if p.1 == page then (if p.2 ≤ 1 then none else some (p.1, p.2 - 1)) else some p }

/-- 12 R322: one pin more on a page. -/
def State.addPin (s : State) (d : BitVec 2) (page : Nat) : State :=
  s.modDie d fun x => { x with pins :=
    if (x.pins.any fun p => p.1 == page) then x.pins.map fun p => if p.1 == page then (p.1, p.2 + 1) else p
    else x.pins ++ [(page, 1)] }

/-- 12 R322: the pins of FIFO entries dropped. A pin is the key of a page in its die's HBM. -/
def State.dropPins (s : State) (l : List FifoEntry) : State :=
  (l.flatMap (·.pins)).foldl (fun s k => s.unpin (BitVec.ofNat 2 (k / regionSize)) (k % regionSize)) s

/-- Link-buffer channels: die port `p`, virtual channel `v`. -/
def chanOf (p : Nat) (v : Nat) : Nat := 4 * p + v
def Die.chan (d : Die) (i : Nat) : LinkChan := d.links.getD i LinkChan.reset
def Die.setChan (d : Die) (i : Nat) (c : LinkChan) : Die := { d with links := d.links.setIfInBounds i c }

/-- 09 R220: fields of a chain's CH.CFG: bits `hi` to `lo` of the word at byte offset `off`. -/
def cfgField (cfg : BitVec 1536) (off hi lo : Nat) : Nat := bitsOf cfg.toNat (8 * off + hi) (8 * off + lo)

/-- 09 R220, R225: the link channels that a CH.CFG names for K and for V. -/
def cfgKChan (g : BitVec 1536) : Option Nat :=
  if cfgField g 0 16 16 == 1 then some (chanOf (cfgField g 0 3 0) (cfgField g 0 5 4)) else none
def cfgVChan (g : BitVec 1536) : Option Nat :=
  if cfgField g 0 17 17 == 1 then some (chanOf (cfgField g 0 11 8) (cfgField g 0 13 12)) else none

/-- 00 R8, 17 R373: the stream of the Triptych's owner has been granted the channel. A chain takes no entry from another
channel and sends none on it, so that no tenant's chain reaches another tenant's links (log entry 62). -/
def State.ownLink (s : State) (c : CoreRef) (i : Nat) : Bool :=
  match (s.core c).owner with
  | some x => (s.stream (s.ctx c x).stream).link.getLsbD i
  | none => false

/-- 02 R63: the channels that the chain bound on a core reads, each once. -/
def State.chainChans (s : State) (c : CoreRef) : List Nat :=
  let g := (s.core c).chain.cfg
  ((cfgKChan g).toList ++ (cfgVChan g).toList).eraseDups.filter (s.ownLink c)

/-- 09 R225, R228: the entries that a test picks leave the channels of a chain, and their credits return. -/
def State.freeLinks (s : State) (c : CoreRef) (sel : LinkEntry → Bool) : State :=
  (s.chainChans c).foldl (fun s i => s.modDie c.die fun x =>
    let l := x.chan i
    x.setChan i { l with ents := l.ents.filter fun e => !sel e, gone := l.gone + (l.ents.filter sel).length }) s

/-- 12 R298: a working bank whose values are undefined: free values (log entry 1). -/
def State.freeBank (s : State) (c : CoreRef) : Vector (BitVec 4096) 64 :=
  Vector.ofFn fun r => (s.freeVal 268435456 1020).extractLsb' (262144 * coreKey c + 4096 * r.val) 4096

/-- A block is in progress on a core: a TXSTEP stands at the head of its array queue. -/
def Core.stepping (k : Core) : Bool :=
  match k.arrayQ with
  | o :: _ => (match o.instr with | .txstep _ _ => true | _ => false)
  | [] => false

/-- 02 R50, 12 R302: the owner of a core's Triptych leaves: the chain is discarded. Its committed state keeps its values
(12 R298), and FIFO entries stay where they are. -/
def State.discardChain (s : State) (c : CoreRef) : State := s.modCore c fun k => { k with owner := none, stepDone := 0 }

/-- 11 R294, 12 R298, R302: the chain of a killed owner: its link entries and FIFO entries go, its pins are dropped, and a
block in progress leaves an undefined working bank. -/
def State.killChain (s : State) (c : CoreRef) : State :=
  let k := s.core c
  let s := s.dropPins (k.fa ++ k.fb ++ k.fc ++ k.fs ++ k.arrayQ.flatMap fun o => o.got ++ o.gotB ++ o.gotC)
  let s := s.freeLinks c fun _ => true
  let s := if k.stepping then s.modCore c fun k => { k with work := s.freeBank c } else s
  (s.discardChain c).modCore c fun k => { k with fs := [], fa := [], fb := [], fc := [] }

/-- 08 R194, 11 R294: the park records and reservations of a context go. -/
def State.unpark (s : State) (c : CoreRef) (x : BitVec 2) : State :=
  let s := ([0, 1, 2, 3] : List (BitVec 2)).foldl (fun s d => s.removeRecs d fun r => r.core == c && r.ctx == x) s
  { s with dies := s.dies.map fun d => { d with resvs := d.resvs.filter fun r => !(r.core == c && r.ctx == x) } }

/-- The packet is one of a context's requests, commands or operations. -/
def State.packetMine (s : State) (c : CoreRef) (x : BitVec 2) (p : Packet) : Bool :=
  match p.who with
  | .req id | .elem id _ => s.reqs.any fun r => r.id == id && r.mine c x
  | .fetch e y _ => e == c && y == x
  | .unit e id => e == c && (((s.core c).cmds.any fun m => m.id == id && m.ctx == x) || (s.core c).arrayQ.any fun o => o.id == id && o.ctx == x)
  | _ => false

/-- The contexts that a stream holds. -/
def State.ctxsOf (s : State) (key : Nat) : List (CoreRef × BitVec 2) :=
  s.cores.flatMap fun e =>
    ((List.range 4).filter fun x =>
      let c := e.2.getCtx (BitVec.ofNat 2 x)
      c.life != .free && c.stream == key).map fun x => (⟨BitVec.ofNat 2 (e.1 / 256), BitVec.ofNat 8 e.1⟩, BitVec.ofNat 2 x)

/-- 11 R294: one context of a killed stream. -/
def State.strike (s : State) (c : CoreRef) (x : BitVec 2) : State :=
  let s := s.unpark c x
  -- 20 R430: what has left is still waited for
  let s : State := { s with
    packets := s.packets.filter fun p => p.phase == PacketPhase.sent || !s.packetMine c x p, reqs := s.reqs.filter fun r => !r.mine c x }
  let s := s.dropPins (((s.core c).cmds.filter fun m => m.ctx == x).flatMap fun m => m.outA ++ m.outB)
  let s := if (s.core c).owner == some x then s.killChain c else s
  s.modCore c fun k =>
    let k := k.setCtx x { k.getCtx x with
      life := .leaving, waitX := .none, waitA := .none, suspX := .none, suspA := .none, reports := [], score := [], pend := [], holds := [], rftWait := none }
    { k with
      fwaits := k.fwaits.filter fun w => w.ctx != x
      cmds := k.cmds.filter fun m => m.ctx != x
      arrayQ := k.arrayQ.filter fun o => o.ctx != x }

/-- 17 R376: RANK, CORE and CTX of a context, as a record holds them. -/
def struckWord (reason : Nat) (c : Ctx) (x : BitVec 2) : Word :=
  BitVec.ofNat 64 (reason + 256 * c.rank.toNat + 65536 * c.coreIdx.toNat + 2 ^ 24 * x.toNat)

/-- 11 R294, R295: a stream is killed; `who` is the first context struck. The reset of its tenant's function takes a stream
that another kill has struck and that has not retired, too: it leaves no record (17 R391). -/
def State.killStream (s : State) (key : Nat) (reason : Nat) (who : CoreRef × BitVec 2) : State :=
  let st := s.stream key
  if !(s.streams.any fun x => x.key == key) then s
  else if st.kill.isSome then (if reason == 7 then s.modStream key fun x => { x with kill := some 7 } else s)
  else
    let c := s.ctx who.1 who.2
    let s := s.modStream key fun x => { x with
      kill := some (BitVec.ofNat 8 reason), struck := struckWord reason c who.2, preempt := none, feeds := [], hbar := [],
      saved := [],
      regs := if reason == 1 then ⟨#[c.tcause, c.tpc, c.taddr, c.tinfo], rfl⟩ else Vector.replicate 4 0 }
    let s := (st.saved.flatMap (·.chans)).foldl (fun s i => s.modDie st.die fun x =>
      x.setChan i { x.chan i with withheld := 0, mate := none }) s
    let s := (s.ctxsOf key).foldl (fun s e => s.strike e.1 e.2) s
    if reason ≤ 9 then s.count st.die (11 + reason) 1 else s.count st.die 29 1

/-! ### Taking a trap, and the return from it -/

/-- 02 R46: `s56` to `s61` and the shadow bank change places. -/
def Ctx.exchange (c : Ctx) : Ctx :=
  let n := fun (i : Nat) => c.s.getD (56 + i) 0
  { c with
    s := ((((((c.s.setIfInBounds 56 (c.shadow.getD 0 0)).setIfInBounds 57 (c.shadow.getD 1 0)).setIfInBounds 58
      (c.shadow.getD 2 0)).setIfInBounds 59 (c.shadow.getD 3 0)).setIfInBounds 60 (c.shadow.getD 4 0)).setIfInBounds 61
      (c.shadow.getD 5 0))
    shadow := ⟨#[n 0, n 1, n 2, n 3, n 4, n 5], rfl⟩ }

/-- 11 R281: a trap is entered: results land, the trap registers are written, a nest is suspended, the banks change
places, and the context goes on at TVEC. -/
def Ctx.enterTrap (c : Ctx) (acc : Bool) (tpc : Word) (k : Cause) : Ctx :=
  let c := c.landAll
  let c := { c with
    tcause := k.code.setWidth 64, tpc := tpc, tslot := k.slot.setWidth 64, taddr := k.addr, tinfo := k.info,
    dnest := c.decoupled, aslice := acc && c.decoupled, hmode := true,
    susp := if c.nest.active then some c.nest else none,
    nest := if c.nest.active then { Nest.none with xidx := c.nest.xidx } else c.nest,
    fmtOld := [], resumePc := c.pc, pc := c.tvec, suspX := c.waitX, suspA := c.waitA, waitX := .none, waitA := .none }
  c.exchange

/-- 11 R275, R278: the standing flag waits of a context end with a trap; a count that one of them has consumed, and
its bundle not used, is posted back. -/
def Core.endWaits (k : Core) (x : BitVec 2) : Core :=
  let mine := k.fwaits.filter fun w => w.ctx == x
  let k : Core := { k with fwaits := k.fwaits.filter fun w => w.ctx != x }
  mine.foldl (fun k w => if w.granted && w.consume then k.post w.flag w.n else k) k

/-- 11 R281, R283: the context of the current environment takes a trap; in handler mode its stream is killed. -/
def State.takeTrap (s : State) (k : Cause) (tpc : Word) : State :=
  let s := s.modIss fun i => { i with void := true }
  if s.cx.hmode then s.killStream s.cx.stream 1 (s.cur.core, s.cur.ctx)
  else
    let s := s.modCc fun k => k.endWaits s.cur.ctx
    let s := s.modCx fun c => c.enterTrap s.cur.acc tpc k
    if k.code == 0x006 || k.code == 0x113 then s.count s.cur.core.die 26 1 else s

/-- 01 R27, R33, R100: a nest ends; the results of its access slice are due in execute time from now on. -/
def Ctx.endNest (c : Ctx) (keep : Bool) : Ctx :=
  { c with
    nest := { Nest.none with xidx := if keep then c.nest.xidx else Vector.replicate 6 0 }
    wrote := []
    pend := c.pend.map fun p =>
      if p.acc then { p with acc := false, at_ := 0, due := c.issueX + (p.due - c.issueA) } else p }

/-- 01 R26: the next tuple of indices, level 0 fastest; none after the last. -/
def nextTuple (depth : Nat) (count idx : Vector (BitVec 32) 6) : Option (Vector (BitVec 32) 6) :=
  match (List.range depth).find? fun l => idx.getD l 0 + 1 != count.getD l 0 with
  | none => none
  | some l => some (Vector.ofFn fun j =>
      if j.val < l then 0 else if j.val == l then idx.getD l 0 + 1 else idx.getD j.val 0)

/-- 01 R26, R30, R33: a slice goes on to its next bundle. -/
def Ctx.advance (c : Ctx) (acc : Bool) : Ctx :=
  let n := c.nest
  if !c.inNest acc then { c with pc := c.pc + 64 }
  else if acc && n.dec then
    if n.apos != n.len then { c with nest := { n with apos := n.apos + 1 } }
    else match nextTuple (n.depth.toNat + 1) n.count n.aidx with
      | some t => { c with nest := { n with apos := 0, aidx := t } }
      | none => { c with nest := { n with adone := true } }
  else
    if n.xpos != n.len then { c with nest := { n with xpos := n.xpos + 1 } }
    else match nextTuple (n.depth.toNat + 1) n.count n.xidx with
      | some t => { c with nest := { n with xpos := 0, xidx := t } }
      | none =>
        let c := { c with pc := n.body + 64 * (n.len.setWidth 64 + 1), nest := { n with xdone := true, xidx := Vector.replicate 6 0 } }
        if n.dec then c else c.endNest true

/-- 01 R33: the address of the next bundle of a slice. -/
def Ctx.nextPc (c : Ctx) (acc : Bool) : Word :=
  if c.inNest acc then
    c.nest.body + 64 * ((if acc && c.nest.dec then c.nest.apos else c.nest.xpos).setWidth 64)
  else c.pc

/-- 11 R284: the context resumes at TPC. -/
def Ctx.leaveTrap (c : Ctx) : Ctx :=
  let c := if c.susp.isNone && c.nest.active then c.endNest true else c
  let c := { c.exchange with hmode := false, waitX := c.suspX, waitA := c.suspA, suspX := .none, suspA := .none }
  match c.susp with
  | none => { c with pc := codeAddr c.tpc }
  | some n =>
    let off := c.tpc - n.body
    let inBody := decide (off.toNat < 64 * (n.len.toNat + 1)) && off.extractLsb' 0 6 == 0
    if c.dnest && inBody then
      let pos := off.extractLsb' 6 6
      if n.dec && c.aslice then
        { c with
          susp := none, nest := { n with apos := pos, adone := false },
          pc := if n.xdone then c.resumePc else n.body + 64 * (n.xpos.setWidth 64 : Word) }
      else { c with susp := none, nest := { n with xpos := pos, xdone := false }, pc := c.tpc }
    else { c with susp := none, nest := { Nest.none with xidx := n.xidx }, wrote := [], pc := codeAddr c.tpc }

/-! ### Attributed causes (11 R278) -/

/-- A context's scoreboard entries of a request leave, and the queue entries it reserved are withdrawn. -/
def Ctx.withdraw (c : Ctx) (id : Nat) (dests : List Reg) : Ctx :=
  let c := { c with score := c.score.filter fun e => e.id != id }
  dests.foldl (fun c r => match r with
    | .q n e =>
      let q := c.q[n.toNat]'(n.isLt)
      { c with q := c.q.set n.toNat { q with ents := q.ents.filter fun x => x.id != e } n.isLt }
    | _ => c) c

/-- 11 R278: a cause of a request is reported. -/
def State.reportReq (s : State) (r : Req) (code : Nat) (addr info : Word) (elem : Nat) (data : Word) : State :=
  s.modCtx r.core r.ctx fun c =>
    let c := c.withdraw r.id r.dests
    if c.life == .leaving || c.life == .free then c
    else { c with reports := c.reports ++ [⟨r.id, r.acc, r.bundle, elem, r.handler, ⟨BitVec.ofNat 9 code, r.slot, addr, info⟩, data, 0⟩] }

/-- 11 R278: a cause of a request is reported: the request is not performed. -/
def State.failReq (s : State) (r : Req) (code : Nat) (addr info : Word) (elem : Nat) (data : Word) : State :=
  (s.dropReq r.id).reportReq r code addr info elem data

/-- 11 R280: the causes that may be taken at the next boundary: in handler mode, only the handler's own. -/
def Ctx.takable (c : Ctx) : List Report := if c.hmode then c.reports.filter (·.handler) else c.reports

/-- 11 R274: TINFO of the memory-error, memory-permission and tagless traps, without DIST. -/
def kindInfo (kind : Nat) : Word := BitVec.ofNat 64 (kind * 65536)

end Sys2Proof.Machine
end

