-- ==== Sys2Proof/Machine/Checks.lean ====
section
/-! DEFINITION. The checks behind the causes that a bundle's operations raise at issue (11 R276): illegal in their nest (05 R124
reason 9), a value check (reason 10, 02 R48), privilege (02 R52, 09 R210), the access of 08 R180, and the ranges of 09 R226,
R227, R247 and 13 R333. -/
namespace Sys2Proof.Machine

/-- Bits of a vector register. -/
def vbits (v : Vec) (hi lo : Nat) : Nat := bitsOf v.toNat hi lo
/-- The 64-bit word at a byte offset of a vector. -/
def vword (v : Vec) (off : Nat) : Nat := vbits v (8 * off + 63) (8 * off)
/-- The bytes `lo` to `hi - 1` of a vector are all 0. -/
def vzero (v : Vec) (lo hi : Nat) : Bool := v.toNat >>> (8 * lo) % 2 ^ (8 * (hi - lo)) == 0

/-- 02 R54: a legal pair of input types. -/
def pairOk (a b : Nat) : Bool :=
  ([11, 12, 13].contains a && [11, 12, 13].contains b) || ([0, 4, 14].contains a && [0, 4, 14].contains b) ||
  (a == 9 && b == 9) || (a == 10 && b == 10)
/-- 02 R54: a legal P format. -/
def pOk (p : Nat) : Bool := [9, 11, 13].contains p

/-- 02 R54: a legal value for FMT. -/
def fmtOk (w : Word) : Bool :=
  w.extractLsb' 16 48 == 0 && pairOk (bitsOf w.toNat 3 0) (bitsOf w.toNat 7 4) && pOk (bitsOf w.toNat 11 8)

/-- 02 R47: the width of field `j` of an extraction pattern, and a consistent pattern. -/
def patWidth (x : BitVec 128) (j : Nat) : Nat := let w := bitsOf x.toNat (27 + 6 * j + 5) (27 + 6 * j); if w == 0 then 64 else w
def patFields (x : BitVec 128) : Nat := bitsOf x.toNat 10 7 + 1
def patPeriod (x : BitVec 128) : Nat := let p := bitsOf x.toNat 6 0; if p == 0 then 128 else p
def patSum (x : BitVec 128) (n : Nat) : Nat := ((List.range n).map (patWidth x)).foldl (· + ·) 0
def patOk (x : BitVec 128) : Bool := x.extractLsb' 123 5 == 0 && decide (patSum x (patFields x) ≤ patPeriod x)

/-- 09 R213: a value that MPSET may write. -/
def mpOk (w : Word) : Bool :=
  w.extractLsb' 29 35 == 0 && (w.getLsbD 28 || pairOk (bitsOf w.toNat 23 20) (bitsOf w.toNat 27 24))

/-- 09 R221: a legal CH.CFG, with the P format that PDEF stands for. -/
def cfgOk (cfg : BitVec 1536) (pfmt : Nat) : Bool :=
  let g := cfgField cfg
  let p := if g 8 16 16 == 1 then pfmt else g 8 15 12
  g 0 63 32 == 0 && g 0 23 19 == 0 && g 0 15 14 == 0 && g 0 7 6 == 0 && g 8 63 21 == 0 && g 0x10 63 56 == 0 &&
  g 0x18 63 32 == 0 && g 0x30 63 32 == 0 && cfg.toNat >>> (8 * 0x48) == 0 &&
  pairOk (g 8 3 0) (g 8 7 4) && pOk p && pairOk p (g 8 11 8) && g 8 19 18 != 3 &&
  decide (g 0 3 0 ≤ 5) && decide (g 0 11 8 ≤ 5) && decide (g 0 27 24 ≤ 5)

/-- 09 R221: the CH.CFG of a bound chain names its P format itself. -/
def cfgResolve (cfg : BitVec 1536) (pfmt : BitVec 4) : BitVec 1536 :=
  if cfg.getLsbD 80 then
    (cfg &&& ~~~((0x1F#1536) <<< 76)) ||| ((pfmt.setWidth 1536) <<< 76)
  else cfg

/-- 01 R12: the physical core of a partition-relative index of a tenant on a die. -/
def partCore (d : Die) (tenant : BitVec 8) (idx : Nat) : Option (BitVec 8) :=
  let cl := (List.range 16).filter fun c => d.clusterOwner.getD c 0xFF == tenant
  match cl[idx / 16]? with
  | some c => some (BitVec.ofNat 8 (16 * c + idx % 16))
  | none => none

/-- The bytes of the scratchpad window (08 R178). -/
def spadBytes : Nat := 0xC0000

/-- 09 R230: the completion kind of a C-slot operation. -/
def complKind (f : FC) : Nat := (f.sub.extractLsb' 6 2).toNat

/-- 09 R232: the copy family's descriptor check. -/
def copyDescOk (d : Die) (tenant : BitVec 8) (i : Instr) (f : FC) (v : Vec) : Bool :=
  let w10 := vword v 0x10
  let ssp := bitsOf w10 1 0
  let dsp := bitsOf w10 3 2
  let elog := bitsOf w10 6 4
  let dst := vword v 8
  vzero v 0x60 256 && bitsOf w10 63 52 == 0 && bitsOf w10 31 21 == 0 && bitsOf w10 7 7 == 0 && elog != 7 &&
  (match i with
    | .cp _ _ => (f.tag == 0 || (dsp == 2 && decide (3 ≤ elog))) && (f.tag != 3 || ssp == 2)
    | .cpq _ _ => dst == 0 && vzero v 0x48 0x60
    | .wstr _ _ => ssp == 2 && vzero v 0x20 0x30 && vzero v 0x30 0x60 && elog == 0 && dst == 0
    | _ => (ssp == 0 || ssp == 2) && decide (dst < 64) && decide (dst % 16 ≤ 5)) &&
  (match complKind f with
    | 2 => (partCore d tenant (bitsOf w10 15 8)).isSome && bitsOf w10 35 32 == 0 && decide (bitsOf w10 51 32 + 16 ≤ spadBytes)
    | 3 => (partCore d tenant (bitsOf w10 15 8)).isSome
    | _ => true)

/-- 17 R386: the layout of a franked packet from its second word on. -/
def packetOk (w : Nat → Nat) (frank : Bool) : Bool :=
  let c := w 1
  let act := bitsOf c 25 24
  bitsOf c 63 27 == 0 && act != 3 && bitsOf c 15 9 == 0 && (!frank || bitsOf c 8 0 == 0) &&
  (match act with
    | 0 => bitsOf (w 4) 63 8 == 0 && bitsOf (w 5) 5 0 == 0
    | 1 => bitsOf (w 4) 2 0 == 0 && bitsOf (w 5) 63 9 == 0
    | _ => bitsOf (w 4) 63 13 == 0 && bitsOf (w 5) 63 16 == 0) &&
  (act == 1 || (w 6 == 0 && w 7 == 0))

/-- 09 R242: KVWALK's descriptor. -/
def walkDescOk (v : Vec) : Bool :=
  vword v 0 % 32 == 0 && decide (vword v 0 < vword v 8) && bitsOf (vword v 16) 63 9 == 0 && vzero v 24 256
/-- 09 R245: KVTRUNC's descriptor. -/
def truncDescOk (v : Vec) : Bool :=
  v.toNat < 2 ^ 20 && v.toNat % 32 == 0 && decide (v.toNat + 32 ≤ spadBytes)
/-- 09 R248: STRMCOMMIT's vector. -/
def commitVecOk (v : Vec) : Bool :=
  let n := vbits v 95 64
  decide (1 ≤ n) && decide (n ≤ 32) && vzero v 12 128 && vzero v (128 + 4 * n) 256

/-- The vector a C- or M-slot operation names. -/
def descOf (s : State) (h : Head) (r : BitVec 6) : Vec := s.readReg (.v (r.setWidth 5)) (saltOf s h.slot 0)

/-- 02 R48: an executing operation whose value its check refuses (reason 10). -/
def valueBad (s : State) (i : Instr) : Bool :=
  let d := s.die s.cur.core.die
  let tn := (s.stream s.cx.stream).tenant
  match i with
  | .setx h f => !patOk (s.readS h f.b 2 ++ s.readS h f.a 1)
  | .setfmt _ f => !fmtOk (f.imm.setWidth 64)
  | .setsr h f => f.imm.toNat == 0x40 && !fmtOk (s.readS h f.a 1)
  | .mpset h f => !mpOk (s.readS h f.cnt 1)
  | .txbind h f =>
    let v := descOf s h f.vec
    !(vzero v 192 256 && cfgOk (v.setWidth 1536) (bitsOf (s.cx.fmtNow s.cur.acc).toNat 11 8))
  | .cp h f | .cpq h f | .wstr h f | .lsend h f => !copyDescOk d tn i f (descOf s h f.desc)
  | .frank h f =>
    let v := descOf s h f.desc
    !(vword v 0 == 5 && packetOk (fun k => vword v (8 * k)) true)
  | .kvwalk h f => !walkDescOk (descOf s h f.desc)
  | .kvtrunc h f => !truncDescOk (descOf s h f.desc)
  | .strmcommit h f => !commitVecOk (descOf s h f.desc)
  | _ => false

/-- 01 R27, R32, 11 R282: an operation that its place forbids (reason 9). -/
def nestBad (s : State) (i : Instr) : Bool :=
  let c := s.cx
  let body := c.decoupled && c.inNest s.cur.acc
  match i with
  | .loop _ _ => c.nest.active || c.susp.isSome
  | .br _ _ | .call _ _ | .ret _ _ | .safept _ _ | .halt _ _ | .txstep _ _ => body
  | .loopbrk h _ => body && h.acc == 1
  | _ => false

/-- 09 R210: the DETAIL of an M-slot privilege trap, or 0. -/
def matrixPriv (s : State) (i : Instr) : Nat :=
  let o := s.cc.owner
  match i with
  | .mlds _ _ | .mms _ _ | .mmsp _ _ | .mmv _ _ | .accclr _ _ | .accscl _ _ => if o == some s.cur.ctx then 1 else 0
  | .txbind _ _ | .txrest _ _ => if o == some s.cur.ctx then 2 else 0
  | .txstep _ _ | .txfin _ _ | .txsave _ _ | .txabort _ _ => if o.isNone then 3 else 0
  | _ => 0

/-- 02 R52: a system register is read-only; it is RH. -/
def sysRO (n : Nat) : Bool :=
  n ≤ 9 || n == 0x46 || (0x50 ≤ n && n ≤ 0x55) || n == 0xC1 || n == 0xC2 || n == 0xC3
def sysRH (n : Nat) : Bool := (0x41 ≤ n && n ≤ 0x43) || (0x80 ≤ n && n ≤ 0x85) || n == 0xC0

/-- The privilege cause of an operation: DETAIL and SREG (11 R273). -/
def privilege (s : State) (i : Instr) : Option Word :=
  match i with
  | .setsr _ f =>
    if sysRO f.imm.toNat then some (BitVec.ofNat 64 (f.imm.toNat * 256 + 4))
    else if sysRH f.imm.toNat && !s.cx.hmode then some (BitVec.ofNat 64 (f.imm.toNat * 256 + 5)) else none
  | .rft _ _ => if s.cx.hmode then none else some 6
  | _ => let k := matrixPriv s i; if k == 0 then none else some (BitVec.ofNat 64 k)

/-- A memory access as the checks of 08 R180 see it. -/
structure MemOp where
  space : BitVec 2
  ea : Word
  bytes : Nat
  /-- log2 of the alignment unit -/
  unit : Nat
  write : Bool
  atomic : Bool
  /-- the race detector sees it -/
  raced : Bool
  deriving DecidableEq, Repr

/-- log2 of the bytes of a type's element; i4 counts one byte (08 R180). -/
def unitOf (t : Ty) : Nat := match tyWidth t with | 16 => 1 | 32 => 2 | 64 => 3 | _ => 0
def bytesOf (t : Ty) : Nat := 2 ^ unitOf t

/-- 08 R184: the bytes an extracting load reads. -/
def ldxBytes (x : BitVec 128) (t : Ty) : Nat :=
  let n := patFields x
  let fin := (List.range (tyLanes t)).foldl (fun m i =>
    let e := i / n * patPeriod x + patSum x (i % n) + patWidth x (i % n)
    if 16384 < e then m else max m e) 0
  (fin + 7) / 8

/-- 08 R180: the access of a memory operation. -/
def memOp (s : State) (i : Instr) : Option MemOp :=
  let plain := fun (h : Head) (f : FM) (bytes unit : Nat) (write : Bool) =>
    some ⟨f.space, effAddr s h f (shortOffset i), bytes, unit, write, f.order != 0, true⟩
  let atom := fun (h : Head) (f : FM) (bytes : Nat) (write : Bool) =>
    some ⟨f.space, effAddr s h f (shortOffset i), bytes, Nat.log2 bytes, write, true, true⟩
  match i with
  | .ld h f | .ldg h f | .ldvs h f => plain h f (bytesOf f.ty) (unitOf f.ty) false
  | .ldv h f | .ldgv h f => plain h f 256 (unitOf f.ty) false
  | .ldx h f => some ⟨f.space, effAddr s h f false, ldxBytes (s.readX h f.order 3) f.ty, 0, false, false, true⟩
  | .st h f | .stg h f | .stvs h f => plain h f (bytesOf f.ty) (unitOf f.ty) true
  | .stv h f | .stgv h f => plain h f 256 (unitOf f.ty) true
  | .ldw h f | .ldt h f => atom h f 8 false
  | .ldc h f | .stf h f | .sts h f | .tage h f | .wake h f | .barr h f => atom h f 8 true
  | .park h f => some ⟨f.space, effAddr s h f true, 8, 3, true, true, true⟩
  | .bwait h f => atom h f 8 false
  | .amo h f | .cas h f => atom h f (bytesOf f.ty) true
  | .gath h f | .probe h f => some ⟨2, s.readS h f.b 2, 4, 2, false, false, false⟩
  | .scat h f => some ⟨2, s.readS h f.b 2, 4, 2, true, false, false⟩
  | .aarm h f => some ⟨0, s.readS h f.a 1, 16, 4, true, true, true⟩
  | .await h f => some ⟨0, s.readS h f.a 1, 16, 4, false, true, false⟩
  | _ => none

/-- 08 R178: the core and offset a scratchpad access reaches. -/
def spadTarget (c : CoreRef) (space : BitVec 2) (ea : Word) : CoreRef × Nat :=
  if space == 0 then (c, ea.toNat)
  else (⟨c.die, (c.core &&& 0xF0) ||| (ea.extractLsb' 20 4).setWidth 8⟩, (ea.extractLsb' 0 20).toNat)

/-- 08 R180: every byte lies in the window of space 00 or 01. -/
def inWindowOf (m : MemOp) : Bool :=
  if m.space == 0 then decide (m.ea.toNat + m.bytes ≤ spadBytes)
  else decide (m.ea.toNat < 2 ^ 24) && decide (m.ea.toNat % 2 ^ 20 + m.bytes ≤ spadBytes)

/-- The context of the current environment. -/
def Env.ref (e : Env) : CtxRef := ⟨e.core.die, e.core.core, e.ctx⟩

/-- 10 R268: the access of a scratchpad operation as the race detector sees it. -/
def spadProbe (s : State) (m : MemOp) : Probe :=
  let t := spadTarget s.cur.core m.space m.ea
  ⟨.ls s.cur.ref, 0, (s.stream s.cx.stream).tenant, s.cx.coreIdx, spadKey t.1.die t.1.core t.2, m.bytes, m.write, m.atomic⟩

/-- 08 R201: the phase of a barrier word has passed. -/
def barrierPassed (w : Word) (p : BitVec 16) : Bool :=
  let d := w.extractLsb' 48 16 - p
  d != 0 && decide (d.toNat ≤ 32767)

/-- 08 R201: a BWAIT on a scratchpad word that would pass now. -/
def bwaitPasses (s : State) (i : Instr) (m : MemOp) : Bool :=
  match i with
  | .bwait h f =>
    barrierPassed (BitVec.ofNat 64 (readNat s.mem (spadProbe s m).key 8)) ((s.readS h f.data 1).setWidth 16)
  | _ => true

def slotOf (i : Instr) : BitVec 3 := match slotView i with | some v => v.h.slot | none => 0

/-- 09 R226: bytes that TXFIN writes. -/
def txfinBytes (cfg : BitVec 1536) (bf : Bool) (stats : Bool) : Nat :=
  let row := if bf then 256 else 512
  let e := if bf then 2 else 4
  if stats then 64 * row + 528 else cfgField cfg 0x10 19 14 * row + (cfgField cfg 0x10 13 7 + 1) * e

/-- The bytes of a chain state image (02 R61). -/
def imageBytes : Nat := 50176

/-- 09 R221: the CH.CFG that a TXBIND leaves with the chain it binds. -/
def bindCfg (o : ArrayOp) : BitVec 1536 := cfgResolve (((o.vs.head?).getD 0).setWidth 1536) (o.fmt.extractLsb' 8 4)

/-- 09 R209, R226: the CH.CFG of the chain that a TXFIN of the current context will find: that of its last TXBIND in the
array queue, else of the chain bound; none while a TXREST has yet to read its image, or another context is the owner. -/
def finCfg (k : Core) (x : BitVec 2) : Option (BitVec 1536) :=
  if k.owner != some x then none
  else
    match k.arrayQ.reverse.find? fun o => match o.instr with | .txbind _ _ | .txrest _ _ => true | _ => false with
    | none => some k.chain.cfg
    | some o => match o.instr with | .txbind _ _ => some (bindCfg o) | _ => none

/-- 09 R226, R227, R247, 13 R333: the scratchpad range of an M- or C-slot operation, or an address that is only
aligned. -/
def engineRange (s : State) (i : Instr) : Option (Word × Option Nat) :=
  let low := fun (w : Word) => w &&& 0xFFFFF
  match i with
  | .txfin h f =>
    (finCfg s.cc s.cur.ctx).map fun cfg =>
      (low (s.readS h f.cnt 1), some (txfinBytes cfg ((s.cx.fmtNow s.cur.acc).getLsbD 15) (f.imm.getLsbD 0)))
  | .txsave h f | .txrest h f => some (s.readS h f.cnt 1, if f.imm.getLsbD 0 then none else some imageBytes)
  | .strmrd h f => some (low (s.readS h f.b 2), some 64)
  | .strmin h f => some (low (s.readS h f.b 2), some 256)
  | _ => none

def rangeCause (s : State) (i : Instr) : Option Cause :=
  match engineRange s i with
  | none => none
  | some (a, n) =>
    if a.toNat % 64 != 0 then some ⟨4, slotOf i, a, 6⟩
    else match n with
      | some n => if spadBytes < a.toNat + n then some ⟨5, slotOf i, a, 0⟩ else none
      | none => none

end Sys2Proof.Machine
end

