-- ==== Sys2Proof/Machine/Order.lean ====
section
/-! DEFINITION. What an access touches, and the accesses that it comes after: the on-chip map (02 R57, R58), the bytes
and pages of a request, and the order that 08 R181, 10 R251, R256, R259 and R261 give the accesses of a context. -/
namespace Sys2Proof.Machine

/-! ### The on-chip map -/

/-- 02 R57, R58: what an on-chip address names: a place in a region. -/
inductive ChipPlace where
  | spad (c : CoreRef) (off : Nat)
  | window (c : CoreRef) (x : BitVec 2) (off : Nat)
  | bank (c : CoreRef) (com : Bool) (off : Nat)
  | flags (c : CoreRef) (off : Nat)
  | mps (c : CoreRef) (off : Nat)
  | chain (c : CoreRef) (off : Nat)
  | link (chan off : Nat)
  | counter (off : Nat)
  deriving DecidableEq, Repr

/-- 02 R58: the place of offset `o` of a core window, and the bytes from there to the end of its region. -/
def windowAt (c : CoreRef) (o : Nat) : Option (ChipPlace × Nat) :=
  if o < spadBytes then some (.spad c o, spadBytes - o)
  else if decide (0x1000000 ≤ o) && decide (o < 0x1400000) then
    let w := o % 0x100000
    if decide (0x100 ≤ w) && decide (w < 0x3000) then some (.window c (BitVec.ofNat 2 (o / 0x100000)) w, 0x3000 - w) else none
  else if decide (0x2000000 ≤ o) && decide (o < 0x2008000) then some (.bank c false (o - 0x2000000), 0x2008000 - o)
  else if decide (0x2008000 ≤ o) && decide (o < 0x2010000) then some (.bank c true (o - 0x2008000), 0x2010000 - o)
  else if decide (0x2100000 ≤ o) && decide (o < 0x2100100) then some (.flags c (o - 0x2100000), 0x2100100 - o)
  else if decide (0x2100100 ≤ o) && decide (o < 0x2100180) then some (.mps c (o - 0x2100100), 0x2100180 - o)
  else if decide (0x2200000 ≤ o) && decide (o < 0x2200000 + imageBytes) then
    some (.chain c (o - 0x2200000), 0x2200000 + imageBytes - o)
  else none

/-- 02 R57: a virtual channel that some stream of the tenant on the die has been granted. -/
def State.linkGranted (s : State) (d : BitVec 2) (tenant : BitVec 8) (port chan : Nat) : Bool :=
  decide (port < 6) && s.streams.any fun x => x.die == d && x.tenant == tenant && x.link.getLsbD (4 * port + chan)

/-- 02 R57: the place that an on-chip address of a die names, as a tenant reaches it, and the bytes from there to the end
of its region. -/
def State.chipAt (s : State) (d : BitVec 2) (tenant : BitVec 8) (ea : Word) : Option (ChipPlace × Nat) :=
  let x := s.die d
  if ea.extractLsb' 40 24 != 0 then none
  else
    match (ea.extractLsb' 36 4).toNat with
    | 0 => (partCore x tenant (ea.extractLsb' 28 8).toNat).bind fun p => windowAt ⟨d, p⟩ (ea.extractLsb' 0 28).toNat
    | 1 =>
      let p := (ea.extractLsb' 32 4).toNat
      let v := (ea.extractLsb' 30 2).toNat
      let o := (ea.extractLsb' 0 30).toNat
      if s.linkGranted d tenant p v && decide (o < 65536) then some (.link (chanOf p v) o, 65536 - o) else none
    | 2 =>
      let o := (ea.extractLsb' 0 36).toNat
      if decide (o < 2048) && x.ctrOwner.getD (o / 8) 0xFF == tenant then some (.counter o, 8 - o % 8) else none
    | _ => none

/-- 02 R57: the places of `n` bytes of the on-chip map, region by region; none where a byte is not reachable. -/
def State.chipSegs (s : State) (d : BitVec 2) (tenant : BitVec 8) : Nat → Word → Nat → Option (List (ChipPlace × Nat))
  | 0, _, _ => some []
  | fuel + 1, ea, n =>
    if n == 0 then some []
    else
      match s.chipAt d tenant ea with
      | none => none
      | some (p, k) => (s.chipSegs d tenant fuel (ea + BitVec.ofNat 64 (min k n)) (n - min k n)).map ((p, min k n) :: ·)

def State.chipPlace (s : State) (d : BitVec 2) (tenant : BitVec 8) (ea : Word) (n : Nat) : Option (List (ChipPlace × Nat)) :=
  s.chipSegs d tenant n ea n

/-- The scratchpad bytes among places of the on-chip map, as key ranges (02 R59). -/
def chipSpads (l : List (ChipPlace × Nat)) : List (Nat × Nat) :=
  l.filterMap fun p => match p.1 with | .spad c o => some (spadKey c.die c.core o, p.2) | _ => none

/-! ### Kinds of requests -/

/-- 18 R397: what an access needs: R, W, and its tags at home (18 R404; a BARR too, log entry 14). -/
def reqNeeds (r : Req) : Bool × Bool × Bool :=
  match r.instr with
  | .ldw _ _ | .ldt _ _ | .park _ _ => (true, false, true)
  | .stf _ _ | .sts _ _ | .tage _ _ | .wake _ _ => (false, true, true)
  | .ldc _ _ | .amo _ _ | .cas _ _ | .barr _ _ => (true, true, true)
  | .st _ _ | .stg _ _ | .stv _ _ | .stgv _ _ | .stvs _ _ | .scat _ _ | .aarm _ _ | .frankEnqueue _ => (false, true, false)
  | .nop => (r.mask.getLsbD 0, r.mask.getLsbD 1, r.mask.getLsbD 2)
  | _ => (true, false, false)

/-- 08 R180: the bytes of an access. -/
def reqBytes (r : Req) : Nat :=
  match r.instr with
  | .ld _ f | .ldg _ f | .ldvs _ f | .st _ f | .stg _ f | .stvs _ f | .amo _ f | .cas _ f => bytesOf f.ty
  | .ldv _ _ | .ldgv _ _ | .stv _ _ | .stgv _ _ => 256
  | .aarm _ _ | .await _ _ => 16
  | .frankEnqueue _ => r.mask.toNat
  | .fpost _ _ | .hbar _ _ => 0
  | .nop => 1
  | _ => 8

/-- A full/empty operation, PARK or WAKE (08 R182: the tagless trap). -/
def isTagOp (i : Instr) : Bool :=
  match i with
  | .ldw _ _ | .ldc _ _ | .ldt _ _ | .stf _ _ | .sts _ _ | .tage _ _ | .park _ _ | .wake _ _ => true
  | _ => false

/-- An access that writes. -/
def reqWrites (r : Req) : Bool := match r.instr with | .nop => false | _ => (reqNeeds r).2.1
/-- 18 R402: a store, or the write of an engine, which wait in a replay queue. -/
def reqStores (r : Req) : Bool := reqWrites r || (r.instr == .nop && !r.office && r.mask.getLsbD 1)
/-- The page that holds a request up. -/
def Req.heldVa (r : Req) : Word := if r.instr == .nop then r.va else r.aux
/-- An array operation that makes accesses on the MX path (08 R202, 09 R222, R226, R227). -/
def accessesMx (i : Instr) : Bool :=
  match i with | .txstep _ _ | .txfin _ _ | .txsave _ _ | .txrest _ _ => true | _ => false
/-- A fence: it makes no access (08 R204, R205). -/
def isFence (i : Instr) : Bool := match i with | .fence _ _ | .fencex _ _ => true | _ => false
def isElements (i : Instr) : Bool := match i with | .gath _ _ | .probe _ _ | .scat _ _ => true | _ => false

def ReqPhase.isHeld : ReqPhase → Bool | .held _ => true | _ => false
def ReqPhase.waiting : ReqPhase → Bool | .issued => true | .held _ => true | _ => false

/-! ### What a request touches -/

/-- The addresses of the elements of a request on elements. -/
def elementVas (r : Req) : List Word := ((List.range 64).filter fun e => r.mask.getLsbD e).map fun e => elementAddr r.va r.idx e

/-- 08 R180, R186, R187: the addresses of an access and the bytes at each; PROBE reads none. -/
def reqSpans (r : Req) : List (Word × Nat) :=
  match r.instr with
  | .gath _ _ | .scat _ _ => (elementVas r).map fun a => (a, 4)
  | .probe _ _ => []
  | _ => [(r.va, reqBytes r)]

/-- The key ranges of memory that an access of a request touches, as far as they can be told: a page that is not there
has none. -/
def State.reqRanges (s : State) (r : Req) : List (Nat × Nat) :=
  match r.space.toNat with
  | 2 =>
    (reqSpans r).flatMap fun x =>
      match s.rangeAt r.core.die r.asid x.1 x.2 false false false with
      | .ok l => l.map fun p => (p.1.key, p.2)
      | _ => []
  | 3 =>
    chipSpads ((s.chipPlace r.core.die r.tenant r.va (reqBytes r)).getD [])
  | _ => let t := spadTarget r.core r.space r.va; [(spadKey t.1.die t.1.core t.2, reqBytes r)]

/-- 10 R253: a range widened to whole aligned units of 8 bytes. -/
def wholeRange (a : Nat × Nat) : Nat × Nat := if a.2 == 0 then a else (a.1 / 8 * 8, (a.1 + a.2 + 7) / 8 * 8 - a.1 / 8 * 8)

/-- Two lists of ranges touch a common unit. -/
def rangesMeet (l m : List (Nat × Nat)) : Bool :=
  l.any fun x => m.any fun y =>
    let a := wholeRange x
    let b := wholeRange y
    decide (max a.1 b.1 < min (a.1 + a.2) (b.1 + b.2))

/-- 08 R181, 10 R253: two accesses touch a common unit, by one address or by two. -/
def State.overlaps (s : State) (a b : Req) : Bool :=
  (a.space == b.space &&
    rangesMeet ((reqSpans a).map fun x => (x.1.toNat, x.2)) ((reqSpans b).map fun x => (x.1.toNat, x.2))) ||
  rangesMeet (s.reqRanges a) (s.reqRanges b)

/-- The pages of device space that a request touches. -/
def reqPages (r : Req) : List Nat :=
  if r.space != 2 || isFence r.instr then []
  else if isElements r.instr then (elementVas r).map fun a => a.toNat / 65536
  else [r.va.toNat / 65536, (r.va + BitVec.ofNat 64 (reqBytes r - 1)).toNat / 65536]

/-! ### What an access comes after -/

/-- 18 R399: the MTU slice of a page: its die, and two bits of its address. -/
def sliceOf (page : Nat) : Nat × Nat := (page / 2 ^ 29 % 4, page % 4)
/-- 18 R402: an access goes to the slice of the page that holds a store. -/
def sameSlice (x r : Req) : Bool := (reqPages r).any fun p => sliceOf p == sliceOf (x.heldVa.toNat / 65536)

/-- 18 R402: stores of one page leave the replay queue in the order of their arrival. -/
def leavesBefore (x r : Req) : Bool :=
  x.replay && r.replay && decide (x.heldTurn < r.heldTurn) && x.asid == r.asid && (reqPages r).contains (x.heldVa.toNat / 65536)

/-- 08 R181, 10 R251, R256, R259, R261: an earlier request `x` of the context holds the request `r` back: an acquire of its
agent that has not completed; an access of its agent to the same units; for a release, every access of its agent and every
store in a replay queue; for an acquire, a release of its agent; a store that waits in a replay queue for a page that `r`
touches; a store of its agent that has found the replay queue of its slice full (18 R402). A store of another context holds
it back where both wait in a replay queue for one page. -/
def State.blocksReq (s : State) (r x : Req) : Bool :=
  leavesBefore x r ||
  x.core == r.core && x.ctx == r.ctx && !x.office && decide (x.id < r.id) && x.instr != .nop &&
  ((x.path == r.path &&
    (isAcquire x.instr ||
      (x.phase.isHeld && !x.replay && !r.replay && reqWrites x && sameSlice x r) ||
      (x.phase != .performed && x.phase != .remote && !isFence x.instr && s.overlaps x r) ||
      (x.phase != .performed && !isFence x.instr && isRelease r.instr) ||
      (x.phase != .performed && isRelease x.instr && isAcquire r.instr))) ||
    (x.replay && (isRelease r.instr || (!r.replay && (reqPages x).any (reqPages r).contains))))

/-- 08 R204, 10 R251 to R259: an LS access to the ranges, by an operation that makes it as it issues, may be made now. -/
def State.lsFree (s : State) (c : CoreRef) (x : BitVec 2) (i : Instr) (store : Bool) (l : List (Nat × Nat)) : Bool :=
  !s.acquiring c x 0 && !((s.ctx c x).holdIds 0 store).any (s.pendingId c) && (!isRelease i || s.released c x) &&
  (!isAcquire i || !s.releasing c x 0) && !((s.openReqs c x 0).any fun q => rangesMeet (s.reqRanges q) l)

/-- A store, a release or an atomic of the current operation in a scratchpad may be made as its bundle issues; where it
may not, it becomes a request and is made in its place (10 R256: it is held, and the context goes on). -/
def State.actsNow (s : State) (i : Instr) (l : List (Nat × Nat)) : Bool := s.lsFree s.cur.core s.cur.ctx i true l

end Sys2Proof.Machine
end

