-- ==== Sys2Proof/Machine/Causes.lean ====
section
/-! DEFINITION. The cause that an operation raises at issue (11 R276): in its nest, by its value, by its privilege, and by the
checks of 08 R180; and the form of an operation that may raise one. -/
namespace Sys2Proof.Machine

/-- 10 R268: a scratchpad access is compared as it is performed: with its bundle, or later where it comes after accesses that
have not been performed (log entry 66). -/
def racesNow (s : State) (i : Instr) (m : MemOp) : Bool :=
  m.raced && bwaitPasses s i m && s.lsFree s.cur.core s.cur.ctx i m.write [((spadProbe s m).key, m.bytes)]

/-- 08 R180: alignment, then bounds, then a scratchpad race. -/
def memCause (s : State) (i : Instr) : Option Cause :=
  match memOp s i with
  | none => none
  | some m =>
    if m.ea.toNat % 2 ^ m.unit != 0 then some ⟨4, slotOf i, m.ea, BitVec.ofNat 64 m.unit⟩
    else if m.space == 0 || m.space == 1 then
      if !inWindowOf m then
        some ⟨5, slotOf i, m.ea, (match i with | .aarm _ _ | .await _ _ => 2 | _ => m.space.setWidth 64)⟩
      else if racesNow s i m then
        match s.findRace (spadProbe s m) s.cx.acqTime with
        | some y => some ⟨6, slotOf i, m.ea, raceInfo s (spadProbe s m) y⟩
        | none => none
      else none
    else none

/-- 11 R276: the bundle-precise cause an executing operation raises by itself. -/
def opCause (i : Instr) (s : State) : Option Cause :=
  if nestBad s i then some ⟨1, slotOf i, 0, 9⟩
  else if valueBad s i then some ⟨1, slotOf i, 0, 10⟩
  else
    match privilege s i with
    | some w => some ⟨3, slotOf i, 0, w⟩
    | none =>
      match memCause s i with
      | some c => some c
      | none =>
        match rangeCause s i with
        | some c => some c
        | none =>
          match i with
          | .trap _ f => some ⟨7, 0, 0, f.imm.setWidth 64⟩
          | _ => none

/-- 11 R276: the place of a cause in the order of one bundle. -/
def causeRank (c : Cause) : Nat :=
  match c.code.toNat with
  | 1 => 0
  | 3 => 1
  | 7 => 4
  | _ => if c.slot == 3 || c.slot == 6 then 3 else 2

/-- An operation that may raise a cause of its own at issue: the trap is taken, or the operation has its effect. -/
def slotOpC (h : Head) (i : Instr) (k : State → State) (s : State) : Out :=
  .next (if opRuns s h then
    (match opCause i s with
      | some c => s.takeTrap c s.cur.pc
      | none => k s)
    else s)

end Sys2Proof.Machine
end

