-- ==== Sys2Proof/Machine/LoadStore.lean ====
section
/-! DEFINITION. L and W slots (08 R178 to R191): loads, stores, gathers and full/empty operations. A scratchpad
access is made as its bundle issues, or as a request where it comes after accesses that have not been performed; an access
to device memory or through the on-chip map becomes a request. -/
namespace Sys2Proof.Machine

/-! ### Values -/

/-- 08 R183: the bits of an `n`-bit-type element as a register shows them. -/
def widenS (t : Ty) (x : Nat) : Vec := (if tyIsFloat t then fltResult x else extendTo64 t x).setWidth 2048

/-- 08 R183, R188, R196, R197: what a load delivers from the bytes it read. -/
def loadValue (i : Instr) (x : Nat) : Vec :=
  match i with
  | .ld _ f | .ldg _ f | .ldw _ f | .ldc _ f | .ldt _ f | .amo _ f | .cas _ f => widenS f.ty x
  | .ldvs _ f => bcast f.ty (BitVec.ofNat 64 x)
  | _ => BitVec.ofNat 2048 x

/-- 08 R183: the bytes that a store writes: its data is a register's value. -/
def storeBytes (i : Instr) (data : Vec) : List Byte :=
  match i with
  | .st _ f | .stg _ f | .stvs _ f => bytesOfNat data.toNat (bytesOf f.ty)
  | .stf _ _ | .sts _ _ => bytesOfNat data.toNat 8
  | _ => bytesOfNat data.toNat 256

/-- 08 R196: the new value of an AMO. -/
def amoValue (t : Ty) (op m x : Nat) : Nat :=
  let w := tyWidth t
  let c : Ctl := ⟨.rne, false, none⟩
  match op with
  | 0 => (m + x) % 2 ^ w
  | 1 => Nat.land m x
  | 2 => Nat.lor m x
  | 3 => Nat.xor m x
  | 4 => if signedOf w x < signedOf w m then x else m
  | 5 => if signedOf w m < signedOf w x then x else m
  | 6 => min m x
  | 7 => max m x
  | 8 => x
  | 9 => (laneAdd t c m x).1
  | 10 => (laneMax t c m x).1
  | _ => (laneMin t c m x).1

/-- 05 R123: the sub-operation of an AMO, and its form without a response. -/
def amoOp (f : FM) : Nat := (f.offs.extractLsb' 17 4).toNat
def amoNr (f : FM) : Bool := f.offs.getLsbD 16

/-- 08 R201: the step of BARR on a barrier word, for phase `p`. -/
def barrWord (m p : Nat) : Nat :=
  let odd := p % 2
  let n := bitsOf m 47 32
  let old := bitsOf m (16 * odd + 15) (16 * odd)
  let cnt := (old + 1) % 65536
  let rest := m - old * 2 ^ (16 * odd)
  if n != 0 && cnt == n then rest % 2 ^ 48 + ((p + 1) % 65536) * 2 ^ 48 else rest + cnt * 2 ^ (16 * odd)

/-- 08 R201: a breach of the phase discipline that the word shows: a phase that is neither the one under way nor the next, or
more arrivals for a phase than parties (log entry 79). -/
def barrBreach (m p : Nat) : Bool :=
  let d := (p + 65536 - bitsOf m 63 48) % 65536
  let n := bitsOf m 47 32
  decide (1 < d) || (n != 0 && decide (n ≤ bitsOf m (16 * (p % 2) + 15) (16 * (p % 2))))

/-- 08 R196, R197, R201: the new word that an atomic writes: `x` is its data, `y` the second data of CAS. After a breach the
counts of a barrier word are undefined: the bits `u`; which breaches the model takes is log entry 79. -/
def atomicValue (i : Instr) (m x y u : Nat) : Nat :=
  match i with
  | .amo _ f => amoValue f.ty (amoOp f) m (x % 2 ^ tyWidth f.ty)
  | .cas _ f => if m == x % 2 ^ tyWidth f.ty then y % 2 ^ tyWidth f.ty else m
  | .barr _ _ =>
    let t := barrWord m (x % 65536)
    if barrBreach m (x % 65536) then t / 2 ^ 32 * 2 ^ 32 + u % 2 ^ 32 else t
  | _ => m

/-! ### Requests -/

/-- A request of the context, for the accesses that space 10 and 11 take (08 R178). -/
def State.request (s : State) (slot : BitVec 3) (i : Instr) (path : BitVec 3) (va : Word) (space : BitVec 2)
    (data idx : Vec) (mask aux : Word) (store : Bool) (dests : List Reg) : State :=
  let e := s.cur
  let c := s.cx
  let st := s.stream c.stream
  let r : Req :=
    { id := s.nextId, core := e.core, ctx := e.ctx, acc := e.acc, slot := slot
      bundle := if e.acc then c.countA else c.issueX
      handler := c.hmode, path := path, instr := i, asid := st.asid, tenant := st.tenant, stream := c.stream, va := va
      space := space, data := data, idx := idx, mask := mask, aux := aux, budget := c.retry.toNat
      waits := c.holdIds path (store || isRelease i), admitted := false, phase := .issued, dests := dests, res := 0
      res2 := 0, replay := false, heldAt := 0, heldTurn := 0, failed := false, turn := 0, office := false }
  let s := { s with reqs := s.reqs ++ [r], nextId := s.nextId + 1 }
  s.modCx fun c => { c with
    score := c.score ++ dests.map fun d => (⟨r.id, d⟩ : Score)
    wrote := if c.decoupled then c.wrote ++ dests.map fun d => (⟨e.acc, d⟩ : Wrote) else c.wrote }

/-- 11 R278: an attributed cause of an access that the scratchpad could not perform. -/
def State.reportNow (s : State) (slot : BitVec 3) (code : Nat) (addr info : Word) : State :=
  let e := s.cur
  let id := s.nextId
  let s : State := { s with nextId := id + 1 }
  s.modCx fun c => { c with
    reports := c.reports ++ [⟨id, e.acc, if e.acc then c.countA else c.issueX, 0, c.hmode,
      ⟨BitVec.ofNat 9 code, slot, addr, info⟩, 0, 0⟩] }

/-- 10 R267: an acquire completes. -/
def State.acquireIf (s : State) (i : Instr) : State := if isAcquire i then s.modCx fun c => c.acquired s.time else s

/-- 08 R180: the access of an instruction that has one. -/
def theOp (s : State) (i : Instr) : MemOp := (memOp s i).getD ⟨0, 0, 0, 0, false, false, false⟩

/-- 08 R182: the bound of a scratchpad load. -/
def spadBound (space : BitVec 2) : Nat := if space == 0 then 5 else 12

/-- A load from a scratchpad: the record of the race detector, and the value of its bytes (18 R414). -/
def State.spadLoad (s : State) (h : Head) (i : Instr) (bound : Nat) (dest : State → State × Reg) (g : Nat → Vec) : State :=
  let m := theOp s i
  let p := spadProbe s m
  if isPoisoned s.poison p.key m.bytes then s.reportNow h.slot 0x111 (poisonVa s.poison p.key m.bytes m.ea) (kindInfo 2)
  else
    let v := g (readNat s.mem p.key m.bytes)
    let t := dest (s.recordRace p)
    (t.1.result t.2 v allBits bound 0).acquireIf i

/-- The undefined counts of a barrier word (log entries 1 and 79). -/
def State.breachBits (s : State) : Nat := (s.freeVal 32 2800).toNat

/-- 08 R183: a load of any space into a destination. LDC writes too: it empties its word. -/
def State.loadTo (s : State) (h : Head) (f : FM) (i : Instr) (dest : State → State × Reg) : State :=
  if f.space == 0 || f.space == 1 then s.spadLoad h i (spadBound f.space) dest (loadValue i)
  else
    let t := dest s
    t.1.request h.slot i 0 (theOp s i).ea f.space 0 0 0 0 (theOp s i).write [t.2]

/-- 08 R183: a store of any space. -/
def State.storeFrom (s : State) (h : Head) (f : FM) (i : Instr) (data : Vec) : State :=
  let m := theOp s i
  let p := spadProbe s m
  if (f.space == 0 || f.space == 1) && s.actsNow i [(p.key, m.bytes)] then
    (s.recordRace p).storeAt p.key (storeBytes i data)
  else s.request h.slot i 0 m.ea f.space data 0 0 0 true []

/-! ### Loads -/

/-- LD (08 R183). -/
def execLd (h : Head) (f : FM) : State → Out := slotOpC h (.ld h f) fun s => s.loadTo h f (.ld h f) fun s => (s, .s f.data)

/-- LDV (08 R183). -/
def execLdv (h : Head) (f : FM) : State → Out := slotOpC h (.ldv h f) fun s => s.loadTo h f (.ldv h f) fun s => s.destV f.data

/-- LDVS (08 R183). -/
def execLdvs (h : Head) (f : FM) : State → Out := slotOpC h (.ldvs h f) fun s => s.loadTo h f (.ldvs h f) fun s => s.destV f.data

/-- LDG (08 R183). -/
def execLdg (h : Head) (f : FM) : State → Out := slotOpC h (.ldg h f) fun s => s.loadTo h f (.ldg h f) fun s => (s, .s f.data)

/-- LDGV (08 R183). -/
def execLdgv (h : Head) (f : FM) : State → Out := slotOpC h (.ldgv h f) fun s => s.loadTo h f (.ldgv h f) fun s => s.destV f.data

/-- 08 R184: the lanes of an extracting load, from the bits of the stream. -/
def ldxValue (x : BitVec 128) (t : Ty) (bits : Nat) : Vec :=
  let n := patFields x
  ofLanes (tyWidth t) ((List.range (tyLanes t)).map fun i =>
    let start := i / n * patPeriod x + patSum x (i % n)
    let w := patWidth x (i % n)
    if 16384 < start + w then 0
    else
      let v := bits >>> start % 2 ^ w
      if x.getLsbD (11 + i % n) then wrapInt (tyWidth t) (signedOf w v) else v % 2 ^ tyWidth t)

/-- LDX (08 R184). -/
def execLdx (h : Head) (f : FM) : State → Out := slotOpC h (.ldx h f) fun s =>
  s.spadLoad h (.ldx h f) (if f.space == 0 then 7 else 14) (fun s => (s, .v (f.data.setWidth 5)))
    (ldxValue (s.readX h f.order 3) f.ty)

/-- GATH (08 R186). -/
def execGath (h : Head) (f : F4) : State → Out := slotOpC h (.gath h f) fun s =>
  let k := s.readK h f.k 14
  let b := s.readS h f.b 2
  let a := s.readV f.a (saltOf s h.slot 1)
  a.1.request h.slot (.gath h f) 4 b 2 0 a.2 k 0 false [.v (f.d.setWidth 5), .k f.k]

/-- PROBE (08 R186). -/
def execProbe (h : Head) (f : F4) : State → Out := slotOpC h (.probe h f) fun s =>
  let k := s.readK h f.k 14
  let b := s.readS h f.b 2
  let a := s.readV f.a (saltOf s h.slot 1)
  a.1.request h.slot (.probe h f) 4 b 2 0 a.2 k 0 false [.k f.k]

/-- LDW (08 R188). -/
def execLdw (h : Head) (f : FM) : State → Out := slotOpC h (.ldw h f) fun s => s.loadTo h f (.ldw h f) fun s => (s, .s f.data)

/-- LDC (08 R188). -/
def execLdc (h : Head) (f : FM) : State → Out := slotOpC h (.ldc h f) fun s => s.loadTo h f (.ldc h f) fun s => (s, .s f.data)

/-- LDT (08 R188). -/
def execLdt (h : Head) (f : FM) : State → Out := slotOpC h (.ldt h f) fun s =>
  s.request h.slot (.ldt h f) 0 (theOp s (.ldt h f)).ea 2 0 0 0 0 false [.s f.data, .s (f.data + 1)]

/-! ### Stores -/

/-- ST (08 R183). -/
def execSt (h : Head) (f : FM) : State → Out := slotOpC h (.st h f) fun s =>
  s.storeFrom h f (.st h f) ((s.readS h f.data 1).setWidth 2048)

/-- STG (08 R183). -/
def execStg (h : Head) (f : FM) : State → Out := slotOpC h (.stg h f) fun s =>
  s.storeFrom h f (.stg h f) ((s.readS h f.data 1).setWidth 2048)

/-- STV (08 R183). -/
def execStv (h : Head) (f : FM) : State → Out := slotOpC h (.stv h f) fun s =>
  let a := s.readV f.data (saltOf s h.slot 1)
  a.1.storeFrom h f (.stv h f) a.2

/-- STGV (08 R183). -/
def execStgv (h : Head) (f : FM) : State → Out := slotOpC h (.stgv h f) fun s =>
  let a := s.readV f.data (saltOf s h.slot 1)
  a.1.storeFrom h f (.stgv h f) a.2

/-- STVS (08 R183). -/
def execStvs (h : Head) (f : FM) : State → Out := slotOpC h (.stvs h f) fun s =>
  let a := s.readV f.data (saltOf s h.slot 1)
  a.1.storeFrom h f (.stvs h f) a.2

/-- SCAT (08 R187). -/
def execScat (h : Head) (f : F4) : State → Out := slotOpC h (.scat h f) fun s =>
  let k := s.readK h f.k 14
  let b := s.readS h f.b 2
  let v := s.readReg (.v (f.d.setWidth 5)) (saltOf s h.slot 0)
  let a := s.readV f.a (saltOf s h.slot 1)
  a.1.request h.slot (.scat h f) 4 b 2 v a.2 k 0 true []

/-- STF (08 R188). -/
def execStf (h : Head) (f : FM) : State → Out := slotOpC h (.stf h f) fun s =>
  s.storeFrom h f (.stf h f) ((s.readS h f.data 1).setWidth 2048)

/-- STS (08 R188). -/
def execSts (h : Head) (f : FM) : State → Out := slotOpC h (.sts h f) fun s =>
  s.storeFrom h f (.sts h f) ((s.readS h f.data 1).setWidth 2048)

/-- TAGE (08 R188). -/
def execTage (h : Head) (f : FM) : State → Out := slotOpC h (.tage h f) fun s => s.storeFrom h f (.tage h f) 0

end Sys2Proof.Machine
end

