-- ==== Sys2Proof/Machine/Sync.lean ====
section
/-! DEFINITION. Y slot (08 R192 to R207): flags, arrival words, barriers, fences, parking, tokens and atomics. -/
namespace Sys2Proof.Machine

/-! ### Fences -/

/-- A fence that has to wait: a request that waits for accesses, and makes none. -/
def State.fenceRequest (s : State) (slot : BitVec 3) (i : Instr) (path : BitVec 3) (ids : List Nat) : State :=
  (s.request slot i path 0 2 0 0 0 0 false []).modReq s.nextId fun r => { r with waits := ids }

/-- 08 R204, R205: a hold on later accesses of the context; holds whose accesses have all ended go. -/
def State.hold (s : State) (h : HoldRec) : State :=
  s.modCx fun c => { c with holds := (c.holds.filter fun h => h.ids.any (s.pendingId s.cur.core)) ++ [h] }

/-- What the context has caused on the paths of a mask and has not come to its end: accesses, commands, array operations, and
counted bytes that have landed (10 R258). -/
def State.causedOn (s : State) (mask : BitVec 8) : List Nat :=
  let e := s.cur
  (s.reqs.filter fun r => r.mine e.core e.ctx && mask.getLsbD r.path.toNat).map (·.id) ++
  ((s.core e.core).cmds.filter fun k => k.ctx == e.ctx && mask.getLsbD k.path.toNat).map (·.id) ++
  ((s.core e.core).arrayQ.filter fun o => o.ctx == e.ctx && mask.getLsbD 3 && accessesMx o.instr).map (·.id) ++
  (s.arrivals.filter fun a => a.agent.ref == e.ref && mask.getLsbD a.path.toNat).map (·.cmd)

/-- 08 R202, R205: a fence over paths: what the context causes later on them waits for what it caused earlier, and, as a
release, for its stores in replay queues. When it has to wait, its completion is a request of its own. -/
def State.fencePaths (s : State) (slot : BitVec 3) (mask : BitVec 8) : State :=
  let ids := s.causedOn mask
  if ids.isEmpty && !s.replays s.cur.core s.cur.ctx then
    s.modCx fun c => { c with acqTime := s.time, gsAcqTime := if mask.getLsbD 4 then s.time else c.gsAcqTime }
  else
    (s.hold ⟨mask, true, s.nextId :: ids⟩).fenceRequest slot (.fencex ⟨slot, 0, 0, 0, 0, none⟩ ⟨0, 0, 0, 0, 0, 0, mask, 0⟩) 7 ids

/-- 08 R204, 10 R256: a release of the LS agent: later stores and releases wait for its earlier accesses, and for the stores of
the context in replay queues. -/
def State.releaseFence (s : State) (h : Head) (f : FM) : State :=
  let e := s.cur
  let ids := (s.reqs.filter fun r => r.mine e.core e.ctx && r.path == 0).map (·.id)
  if ids.isEmpty && !s.replays e.core e.ctx then s
  else (s.hold ⟨1, false, [s.nextId]⟩).fenceRequest h.slot (.fence h { f with order := 2 }) 7 ids

/-- An acquire of the LS agent that completes once accesses have ended: now where there are none. -/
def State.acquireAfter (s : State) (slot : BitVec 3) (ids : List Nat) : State :=
  if ids.isEmpty then s.modCx fun c => c.acquired s.time
  else s.fenceRequest slot (.fence ⟨slot, 0, 0, 0, 0, none⟩ ⟨0, 0, 0, 0, 0, 0, 1, 0⟩) 0 ids

/-- FENCEX (08 R205). -/
def execFencex (h : Head) (f : FC) : State → Out := slotOp h fun s => s.fencePaths h.slot f.path

/-- FENCE (08 R204). -/
def execFence (h : Head) (f : FM) : State → Out := slotOp h fun s =>
  let loads := (s.reqs.filter fun r => r.mine s.cur.core s.cur.ctx && r.path == 0 && !r.dests.isEmpty).map (·.id)
  let s := if f.order.getLsbD 1 then s.releaseFence h f else s
  if f.order.getLsbD 0 then s.acquireAfter h.slot loads else s

/-! ### Flags and arrival words -/

/-- 08 R198, R200, R202, 10 R256, R259: a wait that passes is an acquire, which comes after the acquires and releases that the
agent made before it, and then a fence over its path mask. -/
def State.waitPassed (s : State) (slot : BitVec 3) (mask : BitVec 8) : State :=
  let s := s.acquireAfter slot ((s.reqs.filter fun r =>
    r.mine s.cur.core s.cur.ctx && r.path == 0 && (isAcquire r.instr || isRelease r.instr)).map (·.id))
  if mask == 0 then s else s.fencePaths slot mask

/-- The standing wait of a slice. -/
def standing (e : Env) (w : FlagWait) : Bool := w.ctx == e.ctx && w.acc == e.acc && w.pc == e.pc

/-- 08 R198: an FWAIT presented for issue: its wait stands, and the flag is tested. -/
def State.presentWait (s : State) (f : BitVec 5) (n : BitVec 16) (consume : Bool) : State :=
  if s.cc.fwaits.any (standing s.cur) then s
  else s.modCc fun k => Core.testFlag { k with fwaits := k.fwaits ++ [⟨s.cur.ctx, s.cur.acc, s.cur.pc, f, n, consume, n == 0⟩] } f

/-- 08 R198: the standing wait has passed. -/
def State.waitGranted (s : State) : Bool := s.cc.fwaits.any fun w => standing s.cur w && w.granted

/-- FWAIT (08 R198): a wait that has not passed stays standing. -/
def execFwait (h : Head) (f : FC) : State → Out := slotOp h fun s =>
  let s := s.presentWait f.tgt ((s.readS h f.a 1).setWidth 16) (f.sub == 0)
  if s.waitGranted then
    (s.modCc fun k => { k with fwaits := k.fwaits.filter fun w => !standing s.cur w }).waitPassed h.slot f.path
  else s

/-- FPOST (08 R198): a release, made when what comes before it has been performed. -/
def execFpost (h : Head) (f : FC) : State → Out := slotOp h fun s =>
  let n : BitVec 16 := (s.readS h f.a 1).setWidth 16
  if s.actsNow (.fpost h f) [] then s.modCc fun k => k.post f.tgt n
  else s.request h.slot (.fpost h f) 0 0 0 (n.setWidth 2048) 0 0 0 true []

/-- 08 R200: the arrival word that sA names, as a key. -/
def arrivalKey (s : State) (h : Head) (f : FC) : Nat := spadKey s.cur.core.die s.cur.core.core (s.readS h f.a 1).toNat

/-- 08 R200: an arrival word is armed: TARGET, COUNT and AUTO are written, GEN keeps its value. -/
def State.armWord (s : State) (k target auto : Nat) : State :=
  (s.storeAt k (bytesOfNat target 4 ++ bytesOfNat 0 4)).storeAt (k + 12) (bytesOfNat auto 4)

/-- AARM (08 R200). -/
def execAarm (h : Head) (f : FC) : State → Out := slotOpC h (.aarm h f) fun s =>
  let p := spadProbe s (theOp s (.aarm h f))
  let n := s.readS h f.b 2
  if s.actsNow (.aarm h f) [(p.key, 16)] then
    (s.recordRace p).armWord (arrivalKey s h f) n.toNat (f.sub.extractLsb' 0 1).toNat
  else s.request h.slot (.aarm h f) 0 (s.readS h f.a 1) 0 (n.setWidth 2048) 0 0 0 true []

/-- 08 R200: the generation of the arrival word at a key has passed one that is waited for. -/
def genPassed (m : Memory) (k : Nat) (old : BitVec 32) : Bool :=
  let d : BitVec 32 := BitVec.ofNat 32 (readNat m (k + 8) 4) - old
  d != 0 && decide (d.toNat < 2 ^ 31)

/-- 08 R200: AWAIT passes. -/
def awaitPasses (s : State) (h : Head) (f : FC) : Bool := genPassed s.mem (arrivalKey s h f) ((s.readS h f.b 2).setWidth 32)

/-- AWAIT (08 R200). Its passing is tested before its bundle issues; where it comes after an access of its own bundle that has
not been performed, or no longer passes, it waits as a request. -/
def execAwait (h : Head) (f : FC) : State → Out := slotOpC h (.await h f) fun s =>
  let k := arrivalKey s h f
  if !s.lsFree s.cur.core s.cur.ctx (.await h f) false [(k, 16)] || !(isPoisoned s.poison k 16 || awaitPasses s h f) then
    s.request h.slot (.await h f) 0 (s.readS h f.a 1) 0 ((s.readS h f.b 2).setWidth 2048) 0 0 0 false []
  else if isPoisoned s.poison k 16 then
    s.reportNow h.slot 0x111 (poisonVa s.poison k 16 (s.readS h f.a 1)) (kindInfo 2)
  else s.waitPassed h.slot f.path

/-! ### Barriers -/

/-- 08 R196, R197, R201: an atomic in any of its spaces, with the registers that receive the old word. In a scratchpad it
is made as its bundle issues where nothing comes before it: the race record, the new word, and the old one, which returns
like that of a request. -/
def State.atomicOp (s : State) (h : Head) (f : FM) (i : Instr) (x y : Word) (dests : List Reg) : State :=
  let m := theOp s i
  let p := spadProbe s m
  if f.space == 2 || !s.actsNow i [(p.key, m.bytes)] then
    s.request h.slot i 0 m.ea f.space (x.setWidth 2048) (y.setWidth 2048) 0 0 true dests
  else if isPoisoned s.poison p.key m.bytes then
    s.reportNow h.slot 0x111 (poisonVa s.poison p.key m.bytes m.ea) (kindInfo 2)
  else
    let old := readNat s.mem p.key m.bytes
    let t := ((s.recordRace p).storeAt p.key (bytesOfNat (atomicValue i old x.toNat y.toNat s.breachBits) m.bytes)).acquireIf i
    if dests.isEmpty then t
    else (t.request h.slot i 0 m.ea f.space 0 0 0 0 true dests).modReq t.nextId fun r =>
      { r with phase := .performed, res := loadValue i old }

/-- BARR (08 R201). -/
def execBarr (h : Head) (f : FM) : State → Out := slotOpC h (.barr h f) fun s =>
  s.atomicOp h f (.barr h f) (s.readS h f.data 1) 0 []

/-- BWAIT (08 R201): its passing is tested before it issues. It is a request in device memory, and where it comes after an access
of its own bundle that has not been performed, or no longer passes. -/
def execBwait (h : Head) (f : FM) : State → Out := slotOpC h (.bwait h f) fun s =>
  let m := theOp s (.bwait h f)
  let p := spadProbe s m
  if f.space == 2 || !s.lsFree s.cur.core s.cur.ctx (.bwait h f) false [(p.key, 8)] ||
      !(isPoisoned s.poison p.key 8 || bwaitPasses s (.bwait h f) m) then
    s.request h.slot (.bwait h f) 0 m.ea f.space ((s.readS h f.data 1).setWidth 2048) 0 0 0 false []
  else if isPoisoned s.poison p.key 8 then s.reportNow h.slot 0x111 (poisonVa s.poison p.key 8 m.ea) (kindInfo 2)
  else (s.recordRace p).acquireIf (.bwait h f)

/-- 08 R203: the group and party count that HBAR reads. -/
def hbarGroup (w : Word) : BitVec 3 := w.setWidth 3
def hbarParties (w : Word) : Nat := (w.extractLsb' 16 9).toNat

/-- A barrier arrival that has been counted stands where it was held back, in the context or under its trap. -/
def Ctx.arrived (c : Ctx) (id : Nat) (g : BitVec 3) (ph : Nat) : Ctx :=
  let f := fun (w : Wait) => if w == .arrive id then .hbar g ph else w
  { c with
    hbarPhase := c.hbarPhase.set g.toNat (ph + 1) g.isLt
    waitX := f c.waitX, waitA := f c.waitA, suspX := f c.suspX, suspA := f c.suspA }

/-- 08 R203: the arrival of a context for its next phase of a group is counted; a bad party count kills the stream. -/
def State.arrive (s : State) (c : CoreRef) (x : BitVec 2) (id : Nat) (w : Word) : State :=
  let k := s.ctx c x
  let g := hbarGroup w
  let n := hbarParties w
  let ph := k.hbarPhase[g.toNat]'(g.isLt)
  let old := (s.stream k.stream).hbar.find? fun e => e.1 == g && e.2.1 == ph
  if n == 0 || decide (k.rowsize.toNat < n) || (match old with | some e => e.2.2.1 != n | none => false) then
    s.killStream k.stream 5 (c, x)
  else
    let s := s.modStream k.stream fun y => { y with hbar := match old with
      | some _ => y.hbar.map fun e => if e.1 == g && e.2.1 == ph then (e.1, e.2.1, e.2.2.1, e.2.2.2 + 1) else e
      | none => y.hbar ++ [(g, ph, n, 1)] }
    s.modCtx c x fun k => k.arrived id g ph

/-- 08 R203: a phase of a group is complete. -/
def State.phaseDone (s : State) (stream : Nat) (g : BitVec 3) (ph : Nat) : Bool :=
  (s.stream stream).hbar.any fun e => e.1 == g && e.2.1 == ph && decide (e.2.2.1 ≤ e.2.2.2)

/-- HBAR (08 R203): the arrival, a release. Its slice then stands at the barrier, and issues its next bundle when the phase
is complete. -/
def execHbar (h : Head) (f : F3) : State → Out := slotOp h fun s =>
  let w := s.readS h f.a 1
  let id := s.nextId
  let s' := s.modCx fun c => if s.cur.acc then { c with waitA := .arrive id } else { c with waitX := .arrive id }
  if s.actsNow (.hbar h f) [] then { s' with nextId := id + 1 }.arrive s.cur.core s.cur.ctx id w
  else s'.request h.slot (.hbar h f) 0 0 0 (w.setWidth 2048) 0 0 0 true []

/-! ### Parking -/

/-- PARK (08 R194). -/
def execPark (h : Head) (f : FM) : State → Out := slotOpC h (.park h f) fun s =>
  s.request h.slot (.park h f) 0 (theOp s (.park h f)).ea 2 0 0 0 0 true [.s f.data]

/-- WAKE (08 R195). -/
def execWake (h : Head) (f : FM) : State → Out := slotOpC h (.wake h f) fun s =>
  s.request h.slot (.wake h f) 0 (theOp s (.wake h f)).ea 2 ((s.readS h f.data 1).setWidth 2048) 0 0 0 true []

/-! ### Operand queue tokens -/

/-- QEOS (08 R206). -/
def execQeos (h : Head) (f : F3) : State → Out := slotOp h fun s =>
  let n : BitVec 2 := f.a.setWidth 2
  (s.reserve n true).result (.q n s.nextId) 0 allBits 1 0

/-- 08 R207: how many entries a QDRAIN discards, and whether a token is the last of them. -/
def drainCount : List QEntry → Nat × Bool
  | [] => (0, false)
  | e :: r => if !e.landed then (0, false) else if e.token then (1, true) else ((drainCount r).1 + 1, (drainCount r).2)

/-- QDRAIN (08 R207). -/
def execQdrain (h : Head) (f : F3) : State → Out := slotOp h fun s =>
  let n : BitVec 2 := f.a.setWidth 2
  let k := (drainCount (s.cx.q[n.toNat]'(n.isLt)).ents).1
  s.modIss fun i => { i with pop := i.pop.set n.toNat (max k (i.pop[n.toNat]'(n.isLt))) n.isLt }

/-! ### Atomics -/

/-- AMO (08 R196). -/
def execAmo (h : Head) (f : FM) : State → Out := slotOpC h (.amo h f) fun s =>
  s.atomicOp h f (.amo h f) (s.readS h f.data 1) 0 (if amoNr f then [] else [.s f.data])

/-- CAS (08 R197). -/
def execCas (h : Head) (f : FM) : State → Out := slotOpC h (.cas h f) fun s =>
  s.atomicOp h f (.cas h f) (s.readS h f.data 1) (s.readS h (f.data + 1) 2) [.s f.data]

end Sys2Proof.Machine
end

