-- ==== Sys2Proof/Machine/Array.lean ====
section
/-! DEFINITION. The M slot's array queue and plain array instructions (09 R208 to R219). An operation reads its
registers at issue and enters the queue; ARRAY_OP_EXECUTE takes its FIFO entries as they come and then performs it. -/
namespace Sys2Proof.Machine

/-! ### Issue -/

/-- 09 R209: an operation enters the array queue. -/
def State.enqueueArray (s : State) (i : Instr) (mp : BitVec 128) (sA : Word) (vs : List Vec) (dests : List Reg) : State :=
  let e := s.cur
  let c := s.cx
  let o : ArrayOp :=
    { id := s.nextId, ctx := e.ctx, acc := e.acc, bundle := if e.acc then c.countA else c.issueX, handler := c.hmode
      instr := i, mp := mp, fmt := c.fmtNow e.acc, sA := sA, vs := vs, pc := e.pc
      waits := c.holdIds 3 true, got := [], gotB := [], gotC := [] }
  let s := { s with nextId := s.nextId + 1 }.modCc fun k => { k with arrayQ := k.arrayQ ++ [o] }
  s.modCx fun c => { c with
    score := c.score ++ dests.map fun d => (⟨o.id, d⟩ : Score)
    wrote := if c.decoupled then c.wrote ++ dests.map fun d => (⟨e.acc, d⟩ : Wrote) else c.wrote }

/-- 09 R223, R226, R227: the slice waits for the operation it has just queued. -/
def State.blockOnArray (s : State) : State :=
  let w := Wait.array (s.nextId - 1)
  s.modCx fun c => if s.cur.acc then { c with waitA := w } else { c with waitX := w }

def State.mpReg (s : State) (n : BitVec 3) : BitVec 128 := s.cc.mp[n.toNat]'(n.isLt)

/-- MPSET (09 R213). -/
def execMpset (h : Head) (f : FX) : State → Out := slotOpC h (.mpset h f) fun s =>
  let w := s.readS h f.cnt 1
  s.modCc fun k => { k with mp := k.mp.set f.mp.toNat (w.setWidth 128) f.mp.isLt }

/-- MLDS (09 R215). -/
def execMlds (h : Head) (f : FX) : State → Out := slotOpC h (.mlds h f) fun s =>
  s.enqueueArray (.mlds h f) (s.mpReg f.mp) 0 [] []

/-- The destinations of an MMS: `v(D)` to `v(D + n - 1)`. -/
def mmsRegs (f : FX) : List Reg := (List.range (f.cnt.toNat + 1)).map fun j => .v (BitVec.ofNat 5 (f.vec.toNat + j))

def State.queueMms (s : State) (i : Instr) (h : Head) (f : FX) : State :=
  s.enqueueArray i (s.mpReg f.mp) 0 ((mmsRegs f).map fun r => s.readReg r (saltOf s h.slot 0)) (mmsRegs f)

/-- MMS (09 R216). -/
def execMms (h : Head) (f : FX) : State → Out := slotOpC h (.mms h f) fun s => s.queueMms (.mms h f) h f

/-- MMSP (09 R216). -/
def execMmsp (h : Head) (f : FX) : State → Out := slotOpC h (.mmsp h f) fun s => s.queueMms (.mmsp h f) h f

/-- MMV (09 R217). -/
def execMmv (h : Head) (f : FX) : State → Out := slotOpC h (.mmv h f) fun s =>
  s.enqueueArray (.mmv h f) (s.mpReg f.mp) 0 [] []

/-- 09 R218: the rows ACCRD reads with their destinations: a row's number and the registers of its parts. -/
def accrdRows (f : FX) (bf : Bool) (sA : Word) : List (Nat × List (BitVec 5 × Nat)) :=
  (List.range ((f.imm.extractLsb' 0 4).toNat + 1)).filterMap fun i =>
    let d := f.vec.toNat
    let parts := if bf then [(d + i, 0)] else [(d + 2 * i, 0), (d + 2 * i + 1, 1)]
    let parts := (parts.filter fun p => decide (p.1 < 32)).map fun p => (BitVec.ofNat 5 p.1, p.2)
    if parts.isEmpty then none else some (((sA.extractLsb' 0 6).toNat + i) % 64, parts)

/-- ACCRD (09 R218). -/
def execAccrd (h : Head) (f : FX) : State → Out := slotOpC h (.accrd h f) fun s =>
  let w := s.readS h f.cnt 1
  let bf := (s.cx.fmtNow s.cur.acc).getLsbD 15
  s.enqueueArray (.accrd h f) 0 w [] ((accrdRows f bf w).flatMap fun r => r.2.map fun p => .v p.1)

/-- ACCCLR (09 R219). -/
def execAccclr (h : Head) (f : FX) : State → Out := slotOpC h (.accclr h f) fun s => s.enqueueArray (.accclr h f) 0 0 [] []

/-- ACCSCL (09 R219). -/
def execAccscl (h : Head) (f : FX) : State → Out := slotOpC h (.accscl h f) fun s =>
  s.enqueueArray (.accscl h f) 0 (s.readS h f.cnt 1) [] []

/-! ### Execution -/

/-- 09 R212: the types and sizes an operation works with. -/
def ArrayOp.aTy (o : ArrayOp) : Ty := if o.mp.getLsbD 28 then o.fmt.extractLsb' 0 4 else o.mp.extractLsb' 20 4
def ArrayOp.bTy (o : ArrayOp) : Ty := if o.mp.getLsbD 28 then o.fmt.extractLsb' 4 4 else o.mp.extractLsb' 24 4
def ArrayOp.mrows (o : ArrayOp) : Nat := (o.mp.extractLsb' 14 6).toNat
def ArrayOp.ncols (o : ArrayOp) : Nat := (o.mp.extractLsb' 7 7).toNat
def ArrayOp.klen (o : ArrayOp) : Nat := (o.mp.extractLsb' 0 7).toNat

/-- Entries taken from a FIFO until an operation holds `need` of them: what it holds, and the rest. -/
def takeFrom (fifo got : List FifoEntry) (need : Nat) : List FifoEntry × List FifoEntry :=
  (got ++ fifo.take (need - got.length), fifo.drop (need - got.length))

/-- Row cells of 32 bits. -/
def cell (row : BitVec 4096) (c : Nat) : Nat := (row.extractLsb' (32 * c) 32).toNat
def ofCells (l : List Nat) : BitVec 4096 := BitVec.ofNat 4096 (l.foldr (fun x acc => x % 2 ^ 32 + 2 ^ 32 * acc) 0)

/-- Values with their flags, collected. -/
def orFlags (l : List (Nat × Flags)) : Flags := l.foldl (fun f x => f ||| x.2) 0

/-- The head operation of a core's array queue goes, with the packets it has sent; its context's waits for it end. -/
def State.popArray (s : State) (c : CoreRef) (o : ArrayOp) : State :=
  let s := (s.donePackets (.unit c o.id)).modCore c fun k => { k with arrayQ := k.arrayQ.filter fun x => x.id != o.id }
  s.modCtx c o.ctx fun x => { x with
    waitX := if x.waitX == .array o.id then .none else x.waitX
    waitA := if x.waitA == .array o.id then .none else x.waitA }

/-- 11 R278: a cause of an array operation is reported: its destinations leave the scoreboard. -/
def State.reportArray (s : State) (c : CoreRef) (o : ArrayOp) (code : Nat) (addr info : Word) : State :=
  s.modCtx c o.ctx fun x =>
    let x := { x with score := x.score.filter fun e => e.id != o.id }
    if x.life == .leaving || x.life == .free then x
    else { x with reports := x.reports ++ [⟨o.id, o.acc, o.bundle, 0, o.handler, ⟨BitVec.ofNat 9 code, 3, addr, info⟩, 0, 0⟩] }

/-- 08 R205, 04 R102: the accesses of an array operation wait for what its context's fences name, and its results for the
earlier results of their registers. -/
def State.arrayWaits (s : State) (c : CoreRef) (o : ArrayOp) : Bool :=
  (accessesMx o.instr && o.waits.any (s.pendingId c)) ||
  (s.ctx c o.ctx).score.any fun y => y.id == o.id && (s.ctx c o.ctx).awaits o.id y.reg

/-- The results of an array operation land, and its flags with them (09 R211). -/
def State.landArray (s : State) (c : CoreRef) (o : ArrayOp) (l : List (Reg × Vec)) (fl : Flags) : State :=
  s.modCtx c o.ctx fun x => (l.foldl (fun x p => x.landScore o.id p.1 p.2 allBits) x).raiseFlags fl

/-- 09 R215: a tile from its entries. -/
def tileOf (o : ArrayOp) (sparse : Bool) (l : List FifoEntry) : Tile :=
  { rows := Vector.ofFn fun r => (l.getD r.val ⟨0, false, false, 0, 0, []⟩).val
    poison := BitVec.ofNat 64 ((List.range 64).foldl (fun a r => a + if (l.getD r ⟨0, false, false, 0, 0, []⟩).poison then 2 ^ r else 0) 0)
    sparse := sparse, valid := !sparse || tyWidth o.aTy == 8, aty := o.aTy }

/-- 09 R216: lane `r` of the destination of entry `fa`. -/
def mmsLane (o : ArrayOp) (t : Tile) (sparse accum : Bool) (fa old : Vec) (r : Nat) : Nat × Flags :=
  let prev := lane 32 old r
  if o.mrows < r then (if accum then prev else 0, 0)
  else if t.sparse != sparse || !t.valid || !pairOk t.aty.toNat o.bTy.toNat then (canonNaN 8, fNV)
  else
    let row := t.rows.getD r 0
    let products :=
      if sparse then
        (List.range 64).flatMap fun g =>
          let ix := lane 4 row (256 + g)
          [(lane 8 row (2 * g), lane 8 fa (4 * g + ix % 4)), (lane 8 row (2 * g + 1), lane 8 fa (4 * g + ix / 4))]
      else
        (List.range (o.klen + 1)).map fun k => (lane (tyWidth t.aty) row k, lane (tyWidth o.bTy) fa k)
    if accum then stepInto t.aty o.bTy products prev else stepAlone t.aty o.bTy products

/-- 09 R216: the poison that keeps a destination from being written. -/
def mmsPoisoned (o : ArrayOp) (t : Tile) (e : FifoEntry) : Bool :=
  e.poison || t.poison.toNat % 2 ^ (o.mrows + 1) != 0

/-- 09 R216: an MMS or MMSP with all its entries. Model's choice: the memory error of a poisoned entry has TADDR 0 (11 R272,
log entry 85). -/
def State.doMms (s : State) (c : CoreRef) (o : ArrayOp) (f : FX) (sparse : Bool) (l : List FifoEntry) : State :=
  let t := (s.core c).tile
  let accum := f.imm.getLsbD 0
  let rows := (List.range l.length).filterMap fun j =>
    let e := l.getD j ⟨0, false, false, 0, 0, []⟩
    if mmsPoisoned o t e then none
    else
      let r := (List.range 64).map (mmsLane o t sparse accum e.val (o.vs.getD j 0))
      some ((mmsRegs f).getD j .none, ofLanes 32 (r.map (·.1)), orFlags r)
  let s := s.landArray c o (rows.map fun r => (r.1, r.2.1)) (rows.foldl (fun a r => a ||| r.2.2) 0)
  let s := if rows.length < l.length then
      s.reportArray c o 0x111 0 (kindInfo 3)
    else s
  (s.dropPins l).popArray c o

/-- 09 R217: a working-bank row after an MMV. -/
def mmvRow (o : ArrayOp) (fc fb : List FifoEntry) (r : Nat) (row : BitVec 4096) : BitVec 4096 × Flags :=
  if o.mrows < r then (row, 0)
  else
    let cs := (List.range 128).map fun k =>
      if o.ncols < k then (cell row k, (0 : Flags))
      else stepInto o.aTy o.bTy ((fc.zip fb).map fun p => (lane (tyWidth o.aTy) p.1.val r, lane (tyWidth o.bTy) p.2.val k)) (cell row k)
    (ofCells (cs.map (·.1)), orFlags cs)

/-- The poison bits of rows 0 to `m`. -/
def rowBits (m : Nat) : BitVec 64 := BitVec.ofNat 64 (2 ^ (m + 1) - 1)

/-- 09 R217: an MMV with all its entries. -/
def State.doMmv (s : State) (c : CoreRef) (o : ArrayOp) (fc fb : List FifoEntry) : State :=
  let k := s.core c
  let rows := (List.range 64).map fun r => mmvRow o fc fb r (k.work.getD r 0)
  let poisoned := (fc ++ fb).any (·.poison)
  let s := s.modCore c fun k => { k with
    work := Vector.ofFn fun r => (rows.getD r.val (0, 0)).1
    workPoison := if poisoned then k.workPoison ||| rowBits o.mrows else k.workPoison }
  (((s.landArray c o [] (rows.foldl (fun a r => a ||| r.2) 0)).dropPins (fc ++ fb))).popArray c o

/-- 09 R218: part `p` of a row of a bank in the drain type; the drain to bf16 consumes its cells (03 R69). -/
def drainPart (bf : Bool) (row : BitVec 4096) (p : Nat) : Vec × Flags :=
  if bf then
    let l := (List.range 128).map fun k =>
      let x := decodeF 8 (cell row k)
      ((roundF 9 .rne false x).1, (roundF 9 .rne false x).2 ||| x.sigFlag)
    (ofLanes 16 (l.map (·.1)), orFlags l)
  else (ofLanes 32 ((List.range 64).map fun k => cell row (64 * p + k)), 0)

/-- 09 R218: ACCRD. -/
def State.doAccrd (s : State) (c : CoreRef) (o : ArrayOp) (f : FX) : State :=
  let k := s.core c
  let com := f.imm.getLsbD 4
  let bf := o.fmt.getLsbD 15
  let rows := accrdRows f bf o.sA
  let mask := if com then k.chain.poison else k.workPoison
  if (rows.any fun r => mask.getLsbD r.1) then
    (s.reportArray c o 0x111 0 (kindInfo (if com then 5 else 4))).popArray c o
  else
    let outs := rows.flatMap fun r => r.2.map fun p =>
      ((Reg.v p.1, drainPart bf ((if com then k.chain.com else k.work).getD r.1 0) p.2) : Reg × Vec × Flags)
    (s.landArray c o (outs.map fun x => (x.1, x.2.1)) (outs.foldl (fun a x => a ||| x.2.2) 0)).popArray c o

/-- 09 R219: ACCSCL on a row. -/
def sclRow (w : Word) (row : BitVec 4096) : BitVec 4096 × Flags :=
  let l := (List.range 128).map fun k => laneMul 8 ⟨.rne, false, none⟩ (cell row k) (w.toNat % 2 ^ 32)
  (ofCells (l.map (·.1)), orFlags l)

/-- The head operation stores the FIFO entries it has taken. -/
def State.keepGot (s : State) (c : CoreRef) (o : ArrayOp) : State :=
  s.modCore c fun k => { k with arrayQ := k.arrayQ.map fun x => if x.id == o.id then o else x }

/-- 09 R209: the plain operations at the head of the queue. An operation whose entries have not all come keeps
those it has. -/
def State.plainArray (s : State) (c : CoreRef) (o : ArrayOp) : State :=
  let k := s.core c
  match o.instr with
  | .mlds _ f =>
    let t := takeFrom k.fs o.got (o.mrows + 1)
    let s := s.modCore c fun k => { k with fs := t.2 }
    if t.1.length < o.mrows + 1 then s.keepGot c { o with got := t.1 }
    else ((s.modCore c fun k => { k with tile := tileOf o (f.imm.getLsbD 0) t.1 }).dropPins t.1).popArray c o
  | .mms _ f | .mmsp _ f =>
    let n := f.cnt.toNat + 1
    let t := takeFrom k.fa o.got n
    let s := s.modCore c fun k => { k with fa := t.2 }
    if t.1.length < n then s.keepGot c { o with got := t.1 }
    else s.doMms c o f (match o.instr with | .mmsp _ _ => true | _ => false) t.1
  | .mmv _ f =>
    let n := (f.imm.extractLsb' 0 7).toNat + 1
    let t := takeFrom k.fc o.got n
    let u := takeFrom k.fb o.gotB n
    let s := s.modCore c fun k => { k with fc := t.2, fb := u.2 }
    if t.1.length < n || decide (u.1.length < n) then s.keepGot c { o with got := t.1, gotB := u.1 }
    else s.doMmv c o t.1 u.1
  | .accrd _ f => s.doAccrd c o f
  | .accclr _ _ =>
    (s.modCore c fun k => { k with work := Vector.replicate 64 0, workPoison := 0 }).popArray c o
  | .accscl _ _ =>
    let rows := k.work.map (sclRow o.sA)
    let s := s.modCore c fun k => { k with work := rows.map (·.1) }
    (s.landArray c o [] (rows.toList.foldl (fun a r => a ||| r.2) 0)).popArray c o
  | _ => s.popArray c o

end Sys2Proof.Machine
end

