-- ==== Sys2Proof/Machine/Chain.lean ====
section
/-! DEFINITION. Chains (09 R220 to R228, 12 R297 to R306): binding, stepping, finishing, saving and restoring. -/
namespace Sys2Proof.Machine

/-! ### Issue -/

/-- TXBIND (09 R221): the context owns the Triptych from now on (02 R50). -/
def execTxbind (h : Head) (f : FX) : State → Out := slotOpC h (.txbind h f) fun s =>
  let v := descOf s h f.vec
  (s.modCc fun k => { k with owner := some s.cur.ctx }).enqueueArray (.txbind h f) 0 0 [v] []

/-- TXSTEP (09 R223): the context stays at its bundle until the step ends. -/
def execTxstep (h : Head) (f : FX) : State → Out := slotOpC h (.txstep h f) fun s =>
  ((s.enqueueArray (.txstep h f) 0 (s.readS h f.cnt 1) [] []).blockOnArray).modIss fun i => { i with stay := true }

/-- TXFIN (09 R226). -/
def execTxfin (h : Head) (f : FX) : State → Out := slotOpC h (.txfin h f) fun s =>
  (s.enqueueArray (.txfin h f) 0 (s.readS h f.cnt 1) [] []).blockOnArray

/-- TXSAVE (09 R227). -/
def execTxsave (h : Head) (f : FX) : State → Out := slotOpC h (.txsave h f) fun s =>
  (s.enqueueArray (.txsave h f) 0 (s.readS h f.cnt 1) [] []).blockOnArray

/-- TXREST (09 R227): the context owns the Triptych from now on. -/
def execTxrest (h : Head) (f : FX) : State → Out := slotOpC h (.txrest h f) fun s =>
  let w := s.readS h f.cnt 1
  ((s.modCc fun k => { k with owner := some s.cur.ctx }).enqueueArray (.txrest h f) 0 w [] []).blockOnArray

/-- TXABORT (09 R228). -/
def execTxabort (h : Head) (f : FX) : State → Out := slotOpC h (.txabort h f) fun s => s.enqueueArray (.txabort h f) 0 0 [] []

/-! ### The chain's configuration -/

def cfgQTy (g : BitVec 1536) : Ty := BitVec.ofNat 4 (cfgField g 8 3 0)
def cfgKTy (g : BitVec 1536) : Ty := BitVec.ofNat 4 (cfgField g 8 7 4)
def cfgVTy (g : BitVec 1536) : Ty := BitVec.ofNat 4 (cfgField g 8 11 8)
def cfgPTy (g : BitVec 1536) : Ty := BitVec.ofNat 4 (cfgField g 8 15 12)
def cfgRows (g : BitVec 1536) : Nat := cfgField g 0x10 19 14
def cfgCols (g : BitVec 1536) : Nat := cfgField g 0x10 13 7
def cfgKlen (g : BitVec 1536) : Nat := cfgField g 0x10 6 0
def cfgScMode (g : BitVec 1536) : Nat := cfgField g 8 19 18

/-! ### The chain state image (02 R61) -/

/-- A row of the Q tile as the image holds it: 2 bytes an element. -/
def qImage (t : Ty) (v : Vec) : List Byte := (List.range 128).flatMap fun k => bytesOfNat (lane (tyWidth t) v k) 2

/-- The chain state image. -/
def chainImage (ch : Chain) : List Byte :=
  (ch.q.toList.flatMap (qImage (cfgQTy ch.cfg))) ++ (ch.com.toList.flatMap fun r => bytesOfNat r.toNat 512) ++
  (ch.m.toList.flatMap fun x => bytesOfNat x.toNat 4) ++ (ch.l.toList.flatMap fun x => bytesOfNat x.toNat 4) ++
  (ch.a.toList.flatMap fun x => bytesOfNat x.toNat 4) ++ bytesOfNat ch.blk.toNat 8 ++ bytesOfNat ch.qpos.toNat 8 ++
  bytesOfNat ch.kpos.toNat 8 ++ bytesOfNat ch.left.toNat 8 ++ bytesOfNat ch.poison.toNat 8 ++
  bytesOfNat ch.empty.toNat 8 ++ bytesOfNat 0 16 ++ bytesOfNat ch.cfg.toNat 192

/-- `n` bytes of an image from an offset, as a number. -/
def natAt (l : List Byte) (off n : Nat) : Nat := natOfBytes ((l.drop off).take n)

/-- The chain of an image; none where a reserved field is not 0 or its CH.CFG is rejected (09 R227). Model's choice: an
`i4` element of the Q tile stands in bits 3:0, and bits 15:4 above it are reserved (log entry 72). -/
def chainOfImage (l : List Byte) (pfmt : BitVec 4) : Option Chain :=
  let cfg : BitVec 1536 := BitVec.ofNat 1536 (natAt l 0xC340 192)
  let w := tyWidth (cfgQTy cfg)
  let qel := fun r k => natAt l (256 * r + 2 * k) 2
  let clean := (List.range 64).all fun r => (List.range 128).all fun k => decide (qel r k < 2 ^ w)
  if !cfgOk cfg pfmt.toNat || !clean || natAt l 0xC330 16 != 0 then none
  else
    let f32 := fun off => Vector.ofFn fun (r : Fin 64) => BitVec.ofNat 32 (natAt l (off + 4 * r.val) 4)
    let word := fun off => BitVec.ofNat 64 (natAt l off 8)
    some
      { q := Vector.ofFn fun r => ofLanes w ((List.range 128).map (qel r.val))
        com := Vector.ofFn fun r => BitVec.ofNat 4096 (natAt l (0x4000 + 512 * r.val) 512)
        m := f32 0xC000, l := f32 0xC100, a := f32 0xC200, blk := word 0xC300, qpos := word 0xC308
        kpos := word 0xC310, left := word 0xC318, poison := word 0xC320, empty := word 0xC328
        cfg := cfgResolve cfg pfmt }

/-! ### Operations of the array queue -/

/-- The Triptych is released; the committed state stays as it is (09 R228). Model's choice: an operation of the owner that
is still queued behind its TXABORT runs on that state (log entry 81). -/
def State.release (s : State) (c : CoreRef) : State := s.modCore c fun k => { k with owner := none, stepDone := 0 }

/-- 09 R221: a chain bound with its Q rows. Model's choice: the rows above MROWS are 0 (log entry 83). -/
def bindChain (cfg : BitVec 1536) (l : List FifoEntry) : Chain :=
  let w := tyWidth (cfgQTy cfg)
  let e := fun r => l.getD r ⟨0, false, false, 0, 0, []⟩
  { q := Vector.ofFn fun r => if r.val < l.length then (e r.val).val &&& laneSpan w 0 128 else 0
    com := Vector.replicate 64 0, m := Vector.replicate 64 0xFF800000, l := Vector.replicate 64 0
    a := Vector.replicate 64 0x3F800000, blk := 0, qpos := BitVec.ofNat 64 (cfgField cfg 0x20 63 0)
    kpos := BitVec.ofNat 64 (cfgField cfg 0x28 63 0), left := BitVec.ofNat 64 (cfgField cfg 0x30 31 0)
    poison := BitVec.ofNat 64 ((List.range 64).foldl (fun a r => a + if (e r).poison then 2 ^ r else 0) 0)
    empty := 0, cfg := cfg }

/-- An access of the matrix agent leaves its records (10 R250, R266). -/
def State.recordMx (s : State) (c : CoreRef) (o : ArrayOp) (l : List (Nat × Nat)) (write : Bool) : State :=
  let x := s.ctx c o.ctx
  l.foldl (fun s w =>
    s.recordRace ⟨.mx ⟨c.die, c.core, o.ctx⟩, 3, (s.stream x.stream).tenant, x.coreIdx, w.1, w.2, write, false⟩) s

/-- A matrix agent's write of scratchpad bytes. -/
def State.mxWrite (s : State) (c : CoreRef) (o : ArrayOp) (off : Nat) (b : List Byte) (poison : Bool) : State :=
  let k := spadKey c.die c.core off
  let s := s.recordMx c o [(k, b.length)] true
  let s := s.storeAt k b
  if poison then { s with poison := addPoison s.poison k b.length } else s

/-- 09 R226: a row as TXFIN writes it. -/
def finRow (ch : Chain) (bf : Bool) (r : Nat) : List Byte × Flags :=
  let l := ch.l.getD r 0
  let outs := (List.range (cfgCols ch.cfg + 1)).map fun k =>
    if l == 0 then (0, (0 : Flags))
    else
      let q := fltDiv (decodeF 8 (cell (ch.com.getD r 0) k)) (decodeF 8 l.toNat)
      let x := roundF (if bf then 9 else 8) .rne false q.1
      (x.1, q.2 ||| x.2)
  (outs.flatMap fun x => bytesOfNat x.1 (if bf then 2 else 4), orFlags outs)

/-- 09 R226: TXFIN. -/
def State.doTxfin (s : State) (c : CoreRef) (o : ArrayOp) (stats : Bool) : State :=
  let ch := (s.core c).chain
  let bf := o.fmt.getLsbD 15
  let rowbytes := if bf then 256 else 512
  let base := o.sA.toNat % 2 ^ 20
  let rows := (List.range (cfgRows ch.cfg + 1)).map fun r => (r, finRow ch bf r)
  let empty := ch.empty ||| BitVec.ofNat 64 (rows.foldl (fun a r => a + if ch.l.getD r.1 0 == 0 then 2 ^ r.1 else 0) 0)
  let s := rows.foldl (fun s r => s.mxWrite c o (base + r.1 * rowbytes) r.2.1 (ch.poison.getLsbD r.1)) s
  let s := s.modCore c fun k => { k with chain := { k.chain with empty := empty } }
  let s :=
    if stats then
      s.mxWrite c o (base + 64 * rowbytes)
        ((ch.m.toList.flatMap fun x => bytesOfNat x.toNat 4) ++ (ch.l.toList.flatMap fun x => bytesOfNat x.toNat 4) ++
          bytesOfNat ch.poison.toNat 8 ++ bytesOfNat empty.toNat 8) false
    else s
  ((s.landArray c o [] (rows.foldl (fun a r => a ||| r.2.2) 0)).release c).popArray c o

/-- What an array operation finds at a range of device space. -/
def State.meetArray (s : State) (c : CoreRef) (o : ArrayOp) (va : Word) (n : Nat) (wr : Bool) (data : List Byte) : State × Met :=
  let st := s.stream (s.ctx c o.ctx).stream
  s.meet c.die (.unit c o.id) st.tenant st.asid va n (!wr) wr false data

/-- 09 R227: TXSAVE. -/
def State.doTxsave (s : State) (c : CoreRef) (o : ArrayOp) (dev : Bool) : State :=
  let img := chainImage (s.core c).chain
  if dev then
    let t := s.meetArray c o o.sA imageBytes true img
    match t.2 with
    | .ok l => (((t.1.recordMx c o (racedPieces l) true).spanWrite l img).release c).popArray c o
    | .far _ => (t.1.release c).popArray c o
    | .held va => t.1.bringHome c o.ctx va 2 o.id
    | .stall => t.1
    | .bad va k => (t.1.reportArray c o 0x112 va (kindInfo k)).popArray c o
  else ((s.mxWrite c o o.sA.toNat img false).release c).popArray c o

/-- 09 R227: TXREST from the bytes of an image. -/
def State.bindImage (s : State) (c : CoreRef) (o : ArrayOp) (img : List Byte) : State :=
  match chainOfImage img (o.fmt.extractLsb' 8 4) with
  | some ch => (s.modCore c fun k => { k with chain := ch }).popArray c o
  | none => s.killStream (s.ctx c o.ctx).stream 4 (c, o.ctx)

/-- 09 R227: TXREST. Poisoned bytes of the image are a memory error, and the Triptych is released as after any other error
(log entry 82). -/
def State.doTxrest (s : State) (c : CoreRef) (o : ArrayOp) (dev : Bool) : State :=
  let fail := fun (s : State) (code : Nat) (va : Word) (k : Nat) => ((s.reportArray c o code va (kindInfo k)).release c).popArray c o
  if dev then
    let t := s.meetArray c o o.sA imageBytes false []
    match t.2 with
    | .ok l =>
      (match t.1.spanPoisonVa l o.sA with
      | some va => fail t.1 0x111 va 1
      | none =>
        ((t.1.recordMx c o (racedPieces l) false).countSubst (t.1.stream (t.1.ctx c o.ctx).stream).asid l).bindImage c o (t.1.spanRead l))
    | .far p => if farWord p 1 == 1 then fail t.1 0x111 o.sA 1 else t.1.bindImage c o (farBytes p imageBytes)
    | .held va => t.1.bringHome c o.ctx va 1 o.id
    | .stall => t.1
    | .bad va k => fail t.1 0x112 va k
  else
    let key := spadKey c.die c.core o.sA.toNat
    if isPoisoned s.poison key imageBytes then fail s 0x111 (poisonVa s.poison key imageBytes o.sA) 2
    else (s.recordMx c o [(key, imageBytes)] false).bindImage c o (readBytes s.mem key imageBytes)

/-- 09 R228: TXABORT. -/
def State.doTxabort (s : State) (c : CoreRef) (o : ArrayOp) (keep : Bool) : State :=
  let k := s.core c
  if keep then
    let s := s.dropPins (k.fs ++ k.fa ++ k.fb ++ k.fc)
    let s := s.modCore c fun k => { k with fs := [], fa := [], fb := [], fc := [] }
    (s.freeLinks c fun _ => true).popArray c o
  else (s.release c).popArray c o

/-! ### Stepping -/

/-- 09 R223, R224: a TXSTEP ends: its scalar is written, and the context goes on at the next bundle or stays. -/
def State.endStep (s : State) (c : CoreRef) (o : ArrayOp) (f : FX) (advance : Bool) : State :=
  let n := o.sA.toNat % 2 ^ 32
  let left := if n == 0 then 0 else n - (s.core c).stepDone
  let s := s.modCtx c o.ctx fun x =>
    let x := x.landScore o.id (.s f.cnt) (BitVec.ofNat 2048 left) allBits
    if advance then x.advance false else x
  (s.modCore c fun k => { k with stepDone := 0 }).popArray c o

/-- 12 R322: two entries that one block of a KVWALK pushed. -/
def FifoEntry.sameBlock (e m : FifoEntry) : Bool := !m.link && m.cmd == e.cmd && m.idx == e.idx

/-- 12 R298, R322: entries without the pins of the blocks that other entries belong to. -/
def withoutPins (l mine : List FifoEntry) : List FifoEntry :=
  l.map fun e => if mine.any e.sameBlock then { e with pins := [] } else e

/-- 12 R298: the pins of the blocks that entries belong to, which the last entry of a block holds, are dropped where that
entry has not been consumed. -/
def State.dropBlockPins (s : State) (c : CoreRef) (mine : List FifoEntry) : State :=
  let strip := fun l => withoutPins l mine
  let k := s.core c
  let s := s.dropPins ((k.fa ++ k.fb ++ k.cmds.flatMap fun m => m.outA ++ m.outB).filter fun e => mine.any e.sameBlock)
  s.modCore c fun k => { k with
    fa := strip k.fa, fb := strip k.fb, cmds := k.cmds.map fun m => { m with outA := strip m.outA, outB := strip m.outB } }

/-- 12 R298: the block in progress is abandoned: link entries stay, other entries are lost with the pins of their block,
the working bank holds undefined values. -/
def State.abandonBlock (s : State) (c : CoreRef) (o : ArrayOp) : State :=
  let s := (s.chainChans c).foldl (fun s i => s.modDie c.die fun x =>
    let l := x.chan i
    x.setChan i { l with ents := l.ents.map fun e => { e with held := false } }) s
  let s := (s.dropPins (o.got ++ o.gotB ++ o.gotC)).dropBlockPins c (o.got ++ o.gotB)
  (s.modCore c fun k => { k with work := s.freeBank c }).keepGot c { o with got := [], gotB := [], gotC := [] }

/-- Entries for a chain from a link buffer channel (09 R225): they stay there until the block commits. -/
def State.takeLink (s : State) (c : CoreRef) (i : Nat) (got : List FifoEntry) (need : Nat) : State × List FifoEntry :=
  let d := c.die
  let l := (s.die d).chan i
  let n := if s.ownLink c i then need - got.length else 0
  let fresh := (l.ents.filter fun e => !e.held).take n
  let mark := fun (acc : List LinkEntry × Nat) (e : LinkEntry) =>
    if !e.held && decide (0 < acc.2) then (acc.1 ++ [{ e with held := true }], acc.2 - 1) else (acc.1 ++ [e], acc.2)
  (s.modDie d fun x => x.setChan i { l with ents := (l.ents.foldl mark ([], n)).1 },
    got ++ fresh.map fun e => ⟨e.val, e.poison, true, 0, 0, []⟩)

/-- 12 R301: entries for a block from a link channel, or from the core's FIFO. -/
def State.feedA (s : State) (c : CoreRef) (got : List FifoEntry) (need : Nat) : State × List FifoEntry :=
  match cfgKChan (s.core c).chain.cfg with
  | some i => s.takeLink c i got need
  | none =>
    let t := takeFrom (s.core c).fa got need
    (s.modCore c fun k => { k with fa := t.2 }, t.1)
def State.feedB (s : State) (c : CoreRef) (got : List FifoEntry) (need : Nat) : State × List FifoEntry :=
  match cfgVChan (s.core c).chain.cfg with
  | some i => s.takeLink c i got need
  | none =>
    let t := takeFrom (s.core c).fb got need
    (s.modCore c fun k => { k with fb := t.2 }, t.1)

/-- 09 R222: what a block works with, besides the chain. -/
structure BlockIn where
  valid : Nat
  kbase : Word
  kscale : Nat
  vscale : Nat
  ks : List Vec
  vs : List Vec
  bitmap : Option Vec
  poison : Bool
  deriving DecidableEq, Repr

def c32 : Ctl := ⟨.rne, false, none⟩
def negInf32 : Nat := 0xFF800000
def one32 : Nat := 0x3F800000
/-- Exp2 of an f32 (03 R84). -/
def exp2f (x : Nat) : Nat × Flags := fltOut 8 c32 (fltExp2 (decodeF 8 x))

/-- 09 R222: an exact product times log2 e, with a tail below 2 ^ -256. -/
def timesLog2e (x : FVal) : FVal :=
  match x with
  | .fin n m e t => if m == 0 then .fin n m e t else .fin n (m * (2 ^ 512 / ln2Units)) (e - 256) true
  | y => y

/-- 09 R222: the scale of the scores. -/
def blockScale (cfg : BitVec 1536) (ks : Nat) : Nat × Flags :=
  let p := fltMul (decodeF 8 ks) (decodeF 8 (cfgField cfg 0x18 31 0))
  let x := rne32 (if cfgField cfg 8 17 17 == 1 then timesLog2e p.1 else p.1)
  (x.1, p.2 ||| x.2)

/-- 09 R222: key `j` is masked for row `r`. -/
def keyMasked (ch : Chain) (b : BlockIn) (r j : Nat) : Bool :=
  let cfg := ch.cfg
  let qp : Int := ch.qpos.toNat + (r >>> cfgField cfg 0x10 22 20)
  let kp : Int := b.kbase.toNat + j
  let win := cfgField cfg 0x10 55 24
  decide (b.valid ≤ j) || (cfgField cfg 0x10 23 23 == 1 && decide (qp < kp)) ||
  (win != 0 && decide ((win : Int) ≤ qp - kp)) ||
  (match b.bitmap with | some v => !v.getLsbD (32 * r + j) | none => false)

/-- 09 R222: a row of a block: the new M, L and A, the row of the working bank, and the flags. A row whose every key is
masked keeps all of its state, bit for bit, as 12 R303 states it (log entry 63). -/
def blockRow (ch : Chain) (b : BlockIn) (scale : Nat) (r : Nat) : (BitVec 32 × BitVec 32 × BitVec 32) × BitVec 4096 × Flags :=
  let cfg := ch.cfg
  if (List.range 32).all (keyMasked ch b r) then ((ch.m.getD r 0, ch.l.getD r 0, ch.a.getD r 0), ch.com.getD r 0, 0)
  else
  let qt := cfgQTy cfg
  let kt := cfgKTy cfg
  let vt := cfgVTy cfg
  let pt := cfgPTy cfg
  let q := ch.q.getD r 0
  let ts := (List.range 32).map fun j =>
    if keyMasked ch b r j then (negInf32, (0 : Flags))
    else
      let kv := b.ks.getD j 0
      let x := stepAlone qt kt ((List.range (cfgKlen cfg + 1)).map fun k => (lane (tyWidth qt) q k, lane (tyWidth kt) kv k))
      let y := laneMul 8 c32 x.1 scale
      (y.1, x.2 ||| y.2)
  let m0 := (ch.m.getD r 0).toNat
  let mx := ts.foldl (fun (a : Nat × Flags) t => let y := laneMax 8 c32 a.1 t.1; (y.1, a.2 ||| y.2)) (m0, 0)
  let mn := mx.1
  let a := if mn == negInf32 then (one32, (0 : Flags))
    else
      let d := laneSub 8 c32 m0 mn
      let e := exp2f d.1
      (e.1, d.2 ||| e.2)
  let ps := ts.map fun t =>
    if t.1 == negInf32 then (0, (0 : Flags))
    else
      let d := laneSub 8 c32 t.1 mn
      let e := exp2f d.1
      (e.1, d.2 ||| e.2)
  let la := laneMul 8 c32 (ch.l.getD r 0).toNat a.1
  let sm := pairwise32 (ps.map (·.1))
  let ln := laneAdd 8 c32 la.1 sm.1
  let pq := ps.map fun p => roundF pt .rne false (decodeF 8 p.1)
  let us := (List.range (cfgCols cfg + 1)).map fun k =>
    let u := stepAlone pt vt ((List.range b.valid).map fun j => ((pq.getD j (0, 0)).1, lane (tyWidth vt) (b.vs.getD j 0) k))
    let x := laneMul 8 c32 (cell (ch.com.getD r 0) k) a.1
    let y := laneMul 8 c32 u.1 b.vscale
    let z := laneAdd 8 c32 x.1 y.1
    (z.1, u.2 ||| x.2 ||| y.2 ||| z.2)
  let row := (List.range 128).map fun k => if k ≤ cfgCols cfg then (us.getD k (0, 0)).1 else cell (ch.com.getD r 0) k
  ((BitVec.ofNat 32 mn, BitVec.ofNat 32 ln.1, BitVec.ofNat 32 a.1), ofCells row,
    orFlags ts ||| mx.2 ||| a.2 ||| orFlags ps ||| la.2 ||| sm.2 ||| ln.2 ||| orFlags pq ||| orFlags us)

/-- 09 R222: the chain after a block, the working bank's rows and the flags. -/
def txBlock (ch : Chain) (b : BlockIn) : Chain × List (BitVec 4096) × Flags :=
  let sc := blockScale ch.cfg b.kscale
  let n := cfgRows ch.cfg
  let rows := (List.range (n + 1)).map (blockRow ch b sc.1)
  let at_ := fun r => rows.getD r ((0, 0, 0), 0, 0)
  let ch' := { ch with
    com := Vector.ofFn fun r => if r.val ≤ n then (at_ r.val).2.1 else ch.com.getD r.val 0
    m := Vector.ofFn fun r => if r.val ≤ n then (at_ r.val).1.1 else ch.m.getD r.val 0
    l := Vector.ofFn fun r => if r.val ≤ n then (at_ r.val).1.2.1 else ch.l.getD r.val 0
    a := Vector.ofFn fun r => if r.val ≤ n then (at_ r.val).1.2.2 else ch.a.getD r.val 0
    blk := ch.blk + 1, left := ch.left - 1, poison := if b.poison then ch.poison ||| rowBits n else ch.poison }
  (ch', rows.map (·.2.1), rows.foldl (fun f r => f ||| r.2.2) sc.2)

/-- 09 R222: an FA header is malformed, an FB header is malformed. -/
def badHeaderA (v : Vec) : Bool := decide (32 < vbits v 135 128) || !vzero v 4 8 || !vzero v 17 256
def badHeaderB (v : Vec) : Bool := !vzero v 4 256

/-- 09 R222: the scale elements of SCMODE 1. -/
inductive Scales where
  | wait (va : Word)
  | bad (va : Word) (kind : Nat)
  /-- no turn of the tenant, or a fence that holds the read -/
  | stall
  /-- with the pieces that hold them here -/
  | ok (k v : Nat) (poison : Bool) (l : List (Place × Nat))
  deriving DecidableEq, Repr

/-- 09 R222: one scale element: its bytes, whether they are poisoned, and the pieces that hold it here; none where it cannot
be read now. -/
def State.scaleAt (s : State) (m : Met) : Option (Nat × Bool × List (Place × Nat)) :=
  match m with
  | .ok l => some (natOfBytes (s.spanRead l), s.spanPoison l, l)
  | .far p => some (natOfBytes (farBytes p 4), farWord p 1 == 1, [])
  | _ => none

def scalesStop (m : Met) : Scales :=
  match m with
  | .held va => .wait va
  | .bad va n => .bad va n
  | _ => .stall

def State.scaleElems (s : State) (c : CoreRef) (o : ArrayOp) (ch : Chain) : State × Scales :=
  let at_ := fun (off : Nat) => BitVec.ofNat 64 (cfgField ch.cfg off 63 0) + 4 * ch.blk
  let k := s.meetArray c o (at_ 0x38) 4 false []
  match k.1.scaleAt k.2 with
  | none => (k.1, scalesStop k.2)
  | some x =>
    let v := k.1.meetArray c o (at_ 0x40) 4 false []
    match v.1.scaleAt v.2 with
    | none => (v.1, scalesStop v.2)
    | some y => (v.1.donePackets (.unit c o.id), .ok x.1 y.1 (x.2.1 || y.2.1) (x.2.2 ++ y.2.2))

/-- 12 R305: the packets that a block forwards leave, FA before FB. -/
def State.forward (s : State) (c : CoreRef) (cfg : BitVec 1536) (o : ArrayOp) : State :=
  if cfgField cfg 0 18 18 == 0 then s
  else
    let port := cfgField cfg 0 27 24
    let out := fun (vc : Nat) (s : State) (e : FifoEntry) =>
      if e.link && s.ownLink c (chanOf port vc) && (s.die c.die).portUp.getLsbD port then
        s.sends (.link c.die (BitVec.ofNat 3 port) (BitVec.ofNat 2 vc) ⟨e.val, e.poison, 256, false, false, 0⟩)
      else s
    o.gotB.foldl (out (cfgField cfg 0 31 30)) (o.got.foldl (out (cfgField cfg 0 29 28)) s)

/-- 09 R222: the columns 0 to `n` of a row taken from another. -/
def colMerge (n : Nat) (old new : BitVec 4096) : BitVec 4096 :=
  let m := BitVec.allOnes 4096 >>> (4096 - 32 * (n + 1))
  (old &&& ~~~m) ||| (new &&& m)

/-- 09 R222 to R225: a block with all its entries commits, and the TXSTEP goes on or ends. -/
def State.commitBlock (s : State) (c : CoreRef) (o : ArrayOp) (f : FX) (b : BlockIn) : State :=
  let ch := (s.core c).chain
  let t := txBlock ch b
  let fresh := t.1.poison != ch.poison
  let s := s.forward c ch.cfg o
  let s := (s.freeLinks c fun e => e.held).dropPins (o.got ++ o.gotB ++ o.gotC)
  let s := s.modCore c fun k => { k with
    chain := t.1, stepDone := k.stepDone + 1
    work := Vector.ofFn fun r =>
      let old := k.work.getD r.val 0
      if r.val < t.2.1.length then colMerge (cfgCols ch.cfg) old (t.2.1.getD r.val 0) else old }
  let s := s.landArray c o [] t.2.2
  let x := s.ctx c o.ctx
  let o' := { o with got := [], gotB := [], gotC := [] }
  let n := o.sA.toNat % 2 ^ 32
  if fresh then
    let s := s.endStep c o' f true
    s.reportArray c o' 0x111 0 (kindInfo 3)
  else if t.1.left == 0 || (n != 0 && (s.core c).stepDone == n) then s.endStep c o' f true
  else if !x.takable.isEmpty then s.endStep c o' f false
  else if x.preempt && !x.hmode then
    -- 12 R298: the block after it is abandoned
    let s := s.modCore c fun k => { k with work := s.freeBank c }
    (s.endStep c o' f false).modCtx c o.ctx fun x => { x with life := .saving, resumePc := o.pc }
  else s.keepGot c o'

/-- 12 R301: the FIFOs that a chain reads: bit 1 FA, 2 FB, 3 FC. -/
def chainFeeds (cfg : BitVec 1536) : BitVec 4 :=
  BitVec.ofBool (cfgField cfg 8 20 20 == 1) ++ BitVec.ofBool (cfgVChan cfg).isNone ++ BitVec.ofBool (cfgKChan cfg).isNone ++ (0#1)

/-- 12 R300: an engine error of a command that feeds the chain's FIFOs. -/
def feedError (cfg : BitVec 1536) (r : Report) : Bool := r.cause.code == 0x116 && r.feeds &&& chainFeeds cfg != 0

/-- 09 R222, 12 R298 to R301: the TXSTEP at the head of the queue takes the entries that its next block needs, and
commits the block when it has them all. -/
def State.stepChain (s : State) (c : CoreRef) (o : ArrayOp) (f : FX) : State :=
  let ch := (s.core c).chain
  let cfg := ch.cfg
  let x := s.ctx c o.ctx
  if ch.left == 0 then s.endStep c o f true
  else if x.takable.any (feedError cfg) then (s.abandonBlock c o).endStep c { o with got := [], gotB := [], gotC := [] } f false
  else
    let banded := cfgScMode cfg == 2
    let t := s.feedA c o.got 1
    let head := (t.2.getD 0 ⟨0, false, false, 0, 0, []⟩).val
    let valid := if banded then min 32 (vbits head 135 128) else 32
    let need := if banded then (if t.2.isEmpty then 1 else 1 + (if badHeaderA head then 32 else valid)) else 32
    let a := t.1.feedA c t.2 need
    let u := a.1.feedB c o.gotB 1
    let headB := (u.2.getD 0 ⟨0, false, false, 0, 0, []⟩).val
    let bad := banded && (badHeaderA head || badHeaderB headB)
    let needB := if banded && bad then 33 else need
    let needA := if banded && bad && !a.2.isEmpty && !u.2.isEmpty then 33 else need
    let a' := u.1.feedA c a.2 needA
    let b := a'.1.feedB c u.2 (if u.2.isEmpty then 1 else needB)
    let wantC := if cfgField cfg 8 20 20 == 1 then 1 else 0
    let g := takeFrom (b.1.core c).fc o.gotC wantC
    let s := b.1.modCore c fun k => { k with fc := g.2 }
    let o := { o with got := a'.2, gotB := b.2, gotC := g.1 }
    if o.got.length < needA || decide (o.gotB.length < needB) || decide (o.gotC.length < wantC) || o.got.isEmpty then s.keepGot c o
    else
      let poison := bad || (o.got ++ o.gotB ++ o.gotC).any (·.poison)
      let skip := if banded then 1 else 0
      let mk := fun (kb : Word) (ks vs : Nat) (p : Bool) =>
        ({ valid := if bad then 32 else valid, kbase := kb, kscale := ks, vscale := vs
           ks := (o.got.drop skip).map (·.val), vs := (o.gotB.drop skip).map (·.val)
           bitmap := if wantC == 1 then (o.gotC.head?).map (·.val) else none, poison := p } : BlockIn)
      -- 09 R225, 12 R306: the link takes the forwarded packets only when it has credit
      if cfgField cfg 0 18 18 == 1 && s.freeVal 1 4094 == 0 then s.keepGot c o
      else if banded then
        s.commitBlock c o f (mk (BitVec.ofNat 64 (vbits head 127 64)) (vbits head 31 0) (vbits headB 31 0) poison)
      else
        let kb := ch.kpos + 32 * ch.blk
        if cfgScMode cfg == 0 then s.commitBlock c o f (mk kb one32 one32 poison)
        else
          let t := if o.waits.any (s.pendingId c) then (s, Scales.stall) else s.scaleElems c o ch
          match t.2 with
          | .ok k v p l =>
            ((t.1.recordMx c o (racedPieces l) false).countSubst (t.1.stream x.stream).asid l).commitBlock c o f (mk kb k v (poison || p))
          | .stall => t.1.keepGot c o
          | .wait va => (t.1.keepGot c o).bringHome c o.ctx va 1 o.id
          | .bad va k =>
            let o' := { o with got := [], gotB := [], gotC := [] }
            ((t.1.abandonBlock c o).endStep c o' f false).reportArray c o' 0x112 va (kindInfo k)

/-- CHAIN_BLOCK_COMMIT (09 R222). -/
def execChainBlockCommit (c : CoreRef) (s : State) : Out :=
  .next (match (s.core c).arrayQ with
    | [] => s
    | o :: _ => match o.instr with
      | .txstep _ f => if (s.ctx c o.ctx).score.any fun e => decide (e.id < o.id) && e.reg == .s f.cnt then s else s.stepChain c o f
      | _ => s)

/-- ARRAY_OP_EXECUTE (09 R209): the operation at the head of the array queue. Model's choice: after a TXBIND the stationary
tile is empty and not valid (09 R215, log entries 6 and 83). -/
def execArrayOpExecute (c : CoreRef) (s : State) : Out :=
  .next (match (s.core c).arrayQ with
    | [] => s
    | o :: _ => if s.arrayWaits c o then s else match o.instr with
      | .txbind _ _ =>
        let cfg := bindCfg o
        let t := takeFrom (s.core c).fs o.got (cfgRows cfg + 1)
        let s := s.modCore c fun k => { k with fs := t.2 }
        if t.1.length < cfgRows cfg + 1 then s.keepGot c { o with got := t.1 }
        else ((s.modCore c fun k => { k with chain := bindChain cfg t.1, tile := Tile.empty }).dropPins t.1).popArray c o
      | .txstep _ f => if (s.core c).chain.left == 0 then s.endStep c o f true else s
      | .txfin _ f => s.doTxfin c o (f.imm.getLsbD 0)
      | .txsave _ f => s.doTxsave c o (f.imm.getLsbD 0)
      | .txrest _ f => s.doTxrest c o (f.imm.getLsbD 0)
      | .txabort _ f => s.doTxabort c o (f.imm.getLsbD 0)
      | _ => s.plainArray c o)

end Sys2Proof.Machine
end

