-- ==== Sys2Proof/Machine/ChipMap.lean ====
section
/-! DEFINITION. The save-area layout of a context (02 R61, R64, R435) and the on-chip map (02 R57 to R60, R436). -/
namespace Sys2Proof.Machine

/-! ### The layout of registers -/

/-- Words of `n` bytes, one after the other. -/
def wordsBytes (n : Nat) (l : List Nat) : List Byte := l.flatMap fun x => bytesOfNat x n
/-- Zero bytes. -/
def pad (n : Nat) : List Byte := List.replicate n 0

/-- 02 R435: the nest state, first part. -/
def nestBytes (n : Nest) : List Byte :=
  let on := fun (x : Nat) => if n.active then x else 0
  wordsBytes 4 (n.count.toList.map fun x => on x.toNat) ++ wordsBytes 4 (n.xidx.toList.map (·.toNat)) ++
  bytesOfNat (on (8 * n.xdone.toNat + 4 * n.adone.toNat + 2 * n.dec.toNat + 1)) 1 ++ bytesOfNat (on n.depth.toNat) 1 ++
  bytesOfNat (on n.len.toNat) 1 ++ bytesOfNat (on n.xpos.toNat) 1 ++ bytesOfNat (on (if n.dec then n.apos.toNat else 0)) 1 ++
  pad 3 ++ bytesOfNat (on n.body.toNat) 8

/-- 02 R435: the nest state, second part. -/
def nestBytes2 (n : Nest) : List Byte :=
  wordsBytes 4 (n.aidx.toList.map fun x => if n.active && n.dec then x.toNat else 0) ++ pad 40

/-- 02 R435: the state of a queue. -/
def queueBytes (q : OpQueue) : List Byte :=
  bytesOfNat q.ents.length 1 ++ bytesOfNat q.head.toNat 1 ++
  bytesOfNat ((q.ents.mapIdx fun i e => if e.token then 2 ^ i else 0).foldl (· + ·) 0) 2 ++ pad 12

/-- 02 R61: save-area offsets 0x100 to 0x2FFF of a context. -/
def windowBytes (k : Core) (x : BitVec 2) : List Byte :=
  let c := k.getCtx x
  let n := c.susp.getD c.nest
  wordsBytes 8 ((c.s.set 0 0).toList.map (·.toNat)) ++ wordsBytes 8 (c.shadow.toList.map (·.toNat)) ++ pad 16 ++
  bytesOfNat (c.p ||| 1).toNat 8 ++ pad 8 ++ wordsBytes 8 (c.b.toList.map (·.toNat)) ++ pad 16 ++
  wordsBytes 8 ((c.k.set 0 (BitVec.allOnes 64)).toList.map (·.toNat)) ++ wordsBytes 16 (c.x.toList.map (·.toNat)) ++
  (c.g.toList.flatMap fun g => bytesOfNat g.base.toNat 8 ++ wordsBytes 4 (g.stride.toList.map (·.toNat))) ++ nestBytes n ++
  wordsBytes 8 [c.fmt.toNat, c.codeBase.toNat, c.codeLimit.toNat, c.tvec.toNat, c.retry.toNat, c.sticky.toNat] ++
  wordsBytes 8 (c.lcnt.toList.map (·.toNat)) ++
  wordsBytes 8 [c.tcause.toNat, c.tpc.toNat, c.tslot.toNat, c.taddr.toNat, (c.getSys 0x84).toNat, c.tstate.toNat, c.hmode.toNat] ++
  pad 40 ++ wordsBytes 2 (k.f.toList.map (·.toNat)) ++ wordsBytes 16 (k.mp.toList.map (·.toNat)) ++ nestBytes2 n ++ pad 256 ++
  (c.q.toList.flatMap queueBytes) ++ pad 1984 ++ wordsBytes 256 (c.v.toList.map (·.toNat))

/-- 02 R61: the contents of the queues, 4 KiB each. -/
def queueContents (c : Ctx) : List Byte :=
  c.q.toList.flatMap fun q => (wordsBytes 256 (q.ents.map fun e => e.val.toNat)) ++ pad (256 * (16 - q.ents.length))

/-- The first `n` bytes of a list replaced from an offset. -/
def patch (l : List Byte) (off : Nat) (b : List Byte) : List Byte := l.take off ++ b ++ l.drop (off + b.length)

/-- 02 R58: the registers that a write through the window may change: bytes `o` on of the save-area layout. -/
def windowWritable (o n : Nat) : Bool :=
  (List.range n).all fun i =>
    let a := o + i
    (decide (0x108 ≤ a) && decide (a < 0x2C0)) || (decide (0x2C8 ≤ a) && decide (a < 0x300)) ||
    (decide (0x388 ≤ a) && decide (a < 0x3C0)) || (decide (0x1000 ≤ a) && decide (a < 0x3000))

/-- A context with bytes of its window written. -/
def windowWrite (k : Core) (x : BitVec 2) (o : Nat) (b : List Byte) : Ctx :=
  let c := k.getCtx x
  let img := patch (windowBytes k x) (o - 0x100) b
  let at_ := fun off n => natAt img (off - 0x100) n
  { c with
    s := Vector.ofFn fun i => BitVec.ofNat 64 (at_ (0x100 + 8 * i.val) 8)
    k := Vector.ofFn fun i => BitVec.ofNat 64 (at_ (0x380 + 8 * i.val) 8)
    v := Vector.ofFn fun i => BitVec.ofNat 2048 (at_ (0x1000 + 256 * i.val) 256) }

/-! ### The on-chip map -/

/-- The bytes of a bank. -/
def bankBytes (b : Vector (BitVec 4096) 64) : List Byte := b.toList.flatMap fun r => bytesOfNat r.toNat 512

/-- The place, counted from the oldest, of the entry that would lie in the slot of a byte of a link buffer. -/
def LinkChan.slotOf (l : LinkChan) (a : Nat) : Nat := (a / 256 + 256 - l.gone % 256) % 256

/-- Bytes written into a link buffer: those of slots that hold entries (log entry 44). -/
def LinkChan.write (l : LinkChan) (o : Nat) (b : List Byte) : LinkChan :=
  { l with ents := l.ents.mapIdx fun i e =>
      { e with val := BitVec.ofNat 2048 (natOfBytes ((List.range 256).map fun j =>
          let a := 256 * ((l.gone + i) % 256) + j
          let old := e.val.extractLsb' (8 * j) 8
          if o ≤ a then b.getD (a - o) old else old)) } }

/-- `n` bytes of a link buffer channel: the slots that hold entries, and a free value elsewhere (log entry 1). -/
def State.linkBytes (s : State) (d : BitVec 2) (chan off n : Nat) : List Byte :=
  let l := (s.die d).chan chan
  (List.range n).map fun i =>
    let a := off + i
    match l.ents[l.slotOf a]? with
    | some e => e.val.extractLsb' (8 * (a % 256)) 8
    | none => s.freeVal 8 (2100 + i)

/-- 02 R58: the bytes that a read through the map returns. -/
def State.chipRead (s : State) (d : BitVec 2) (p : ChipPlace) (n : Nat) : List Byte :=
  match p with
  | .spad c o => readBytes s.mem (spadKey c.die c.core o) n
  | .window c x o => ((windowBytes (s.core c) x).drop (o - 0x100)).take n
  | .bank c com o => ((bankBytes (if com then (s.core c).chain.com else (s.core c).work)).drop o).take n
  | .flags c o => ((wordsBytes 8 ((s.core c).f.toList.map (·.toNat))).drop o).take n
  | .mps c o => ((wordsBytes 16 ((s.core c).mp.toList.map (·.toNat))).drop o).take n
  | .chain c o => ((chainImage (s.core c).chain).drop o).take n
  | .link ch o => s.linkBytes d ch o n
  | .counter o => ((wordsBytes 8 ((s.die d).counters.toList.map (·.toNat))).drop o).take n

/-- The row of a chain image that a byte belongs to: of the Q tile, of the committed bank, or of M, L and A (02 R61). -/
def imageRow (o : Nat) : Option Nat :=
  if o < 0x4000 then some (o / 256)
  else if decide (0x4000 ≤ o) && decide (o < 0xC000) then some ((o - 0x4000) / 512)
  else if decide (0xC000 ≤ o) && decide (o < 0xC300) then some (o % 256 / 4) else none

/-- 09 R211, 18 R411: whether the byte at an offset of a place is poisoned, and the KIND of 11 R274. -/
def State.chipPoisoned (s : State) (d : BitVec 2) (p : ChipPlace) (i : Nat) : Option Nat :=
  match p with
  | .spad c o => if s.poison.contains (poisonBase (spadKey c.die c.core (o + i))) then some 2 else none
  | .bank c com o =>
    let k := s.core c
    if (if com then k.chain.poison else k.workPoison).getLsbD ((o + i) / 512) then some (if com then 5 else 4) else none
  | .chain c o => (imageRow (o + i)).bind fun r => if (s.core c).chain.poison.getLsbD r then some 5 else none
  | .link ch o =>
    let l := (s.die d).chan ch
    (l.ents[l.slotOf (o + i)]?).bind fun e => if e.poison then some 3 else none
  | _ => none

/-- The first poisoned byte of `n`: its offset and KIND. -/
def State.chipPoison (s : State) (d : BitVec 2) (p : ChipPlace) (n : Nat) : Option (Nat × Nat) :=
  (List.range n).findSome? fun i => (s.chipPoisoned d p i).map fun k => (i, k)

/-- Poison carried into the rows of a bank or of a chain, or the entries of a link buffer, by a write through the map (09 R211). -/
def State.chipTaint (s : State) (d : BitVec 2) (p : ChipPlace) (bad : List Bool) : State :=
  let rows := fun (f : Nat → Option Nat) =>
    (bad.zipIdx.filterMap fun x => if x.1 then f x.2 else none).foldl (fun (m : BitVec 64) r => m ||| (1#64 <<< r)) 0
  match p with
  | .bank c com o =>
    let m := rows fun i => some ((o + i) / 512)
    s.modCore c fun k =>
      if com then { k with chain := { k.chain with poison := k.chain.poison ||| m } } else { k with workPoison := k.workPoison ||| m }
  | .chain c o => let m := rows fun i => imageRow (o + i)
    s.modCore c fun k => { k with chain := { k.chain with poison := k.chain.poison ||| m } }
  | .link ch o =>
    let m := bad.zipIdx.filterMap fun x => if x.1 then some (o + x.2) else none
    s.modDie d fun x =>
      let l := x.chan ch
      x.setChan ch { l with ents := l.ents.mapIdx fun i e => { e with poison := e.poison || m.any fun a => l.slotOf a == i } }
  | _ => s

/-- A bank with bytes written. -/
def bankWrite (b : Vector (BitVec 4096) 64) (o : Nat) (l : List Byte) : Vector (BitVec 4096) 64 :=
  let img := patch (bankBytes b) o l
  Vector.ofFn fun r => BitVec.ofNat 4096 (natAt img (512 * r.val) 512)

/-- A chain with bytes of its image written. -/
def chainWrite (ch : Chain) (o : Nat) (b : List Byte) : Chain :=
  let l := patch (chainImage ch) o b
  let cfg : BitVec 1536 := BitVec.ofNat 1536 (natAt l 0xC340 192)
  let w := tyWidth (cfgQTy cfg)
  let f32 := fun off => Vector.ofFn fun (r : Fin 64) => BitVec.ofNat 32 (natAt l (off + 4 * r.val) 4)
  let word := fun off => BitVec.ofNat 64 (natAt l off 8)
  { q := Vector.ofFn fun r => ofLanes w ((List.range 128).map fun k => natAt l (256 * r.val + 2 * k) 2)
    com := Vector.ofFn fun r => BitVec.ofNat 4096 (natAt l (0x4000 + 512 * r.val) 512)
    m := f32 0xC000, l := f32 0xC100, a := f32 0xC200, blk := word 0xC300, qpos := word 0xC308, kpos := word 0xC310
    left := word 0xC318, poison := word 0xC320, empty := word 0xC328, cfg := cfg }

/-- 17 R385, R387: a franking entry on its counter after a step: it fires, and disarms or steps on. -/
def fireEntry (v : Word) (k : Nat) (x : Die) : Die :=
  match x.frank.getD k none with
  | none => x
  | some e =>
    let thr := e.words.getD 2 0
    if decide (thr.toNat ≤ v.toNat) then
      let next := if (e.words.getD 1 0).getLsbD 26 then
          some { e with words := e.words.set 2 (thr + e.words.getD 3 0), seen := true } else none
      { x with fired := x.fired ++ [e], frank := x.frank.setIfInBounds k next }
    else { x with frank := x.frank.setIfInBounds k (some { e with seen := true }) }

/-- 17 R387: the entries that watch a counter are checked. -/
def Die.checkCounter (x : Die) (i : Nat) : Die :=
  let v := x.counters.getD i 0
  (List.range 512).foldl (fun x k =>
    match x.frank.getD k none with
    | some e => if ((e.words.getD 1 0).extractLsb' 16 8).toNat == i then fireEntry v k x else x
    | none => x) x

/-- 17 R385: a step of a postmark counter. -/
def Die.setCounter (x : Die) (i : Nat) (v : Word) : Die :=
  Die.checkCounter { x with counters := x.counters.setIfInBounds i v } i

/-- 17 R385: an increment that counts only for the counter's owner; otherwise it is dropped and counted. -/
def State.bumpCounter (s : State) (d : BitVec 2) (i : Nat) (n : Nat) (tenant : BitVec 8) : State :=
  let x := s.die d
  if x.ctrOwner.getD i 0xFF == tenant then s.setDie d (x.setCounter i (x.counters.getD i 0 + BitVec.ofNat 64 n))
  else s.count d 7 1

/-- 02 R436: the 8-byte units of a write, each with its number. -/
def unitsOf (o : Nat) (b : List Byte) : List (Nat × Word) :=
  (List.range (b.length / 8)).map fun i => (o / 8 + i, BitVec.ofNat 64 (natAt b (8 * i) 8))

/-- 02 R436: a unit of a write to the flags posts; to `mp0` to `mp7` it is written when its value passes. -/
def State.chipUnit (s : State) (c : CoreRef) (mps : Bool) (u : Nat × Word) : State × Bool :=
  if !mps then (s.modCore c fun k => k.post (BitVec.ofNat 5 u.1) (u.2.setWidth 16), true)
  else if u.1 % 2 == 1 then (s, u.2 == 0)
  else if mpOk u.2 then
    (s.modCore c fun k => { k with mp := k.mp.setIfInBounds (u.1 / 2) ((k.mp.getD (u.1 / 2) 0).extractLsb' 64 64 ++ u.2) }, true)
  else (s, false)

/-- 02 R436: the whole units of an aligned write from offset `o`, and whether every byte lies in one. -/
def wholeUnits (o : Nat) (b : List Byte) : List (Nat × Word) × Bool :=
  (unitsOf o (b.take (b.length / 8 * 8)), b.length % 8 == 0)

/-- 02 R58, R60, R436: a write through the map, and whether all of it is performed; `al`: it is a part of an access that is
aligned to 8 bytes. Flags and matrix parameters are checked unit by unit; elsewhere a write that is not allowed is not
performed at all. -/
def State.chipWrite (s : State) (d : BitVec 2) (al : Bool) (p : ChipPlace) (b : List Byte) : State × Bool :=
  match p with
  | .spad c o => (s.storeAt (spadKey c.die c.core o) b, true)
  | .window c x o =>
    let k := s.core c
    let l := (k.getCtx x).life
    if windowWritable o b.length && l != .free then (s.setCtx c x (windowWrite k x o b), true) else (s, false)
  | .bank c com o =>
    if (s.core c).owner.isSome then (s, false)
    else (s.modCore c fun k =>
      if com then { k with chain := { k.chain with com := bankWrite k.chain.com o b } } else { k with work := bankWrite k.work o b }, true)
  | .flags c o =>
    if !al then (s, false)
    else
      let u := wholeUnits o b
      let t := u.1.foldl (fun (s, ok) u => let t := s.chipUnit c false u; (t.1, ok && t.2)) (s, true)
      (t.1, t.2 && u.2)
  | .mps c o =>
    let u := wholeUnits o b
    if !al || (s.core c).owner.isSome then (s, false)
    else
      let t := u.1.foldl (fun (s, ok) u => let t := s.chipUnit c true u; (t.1, ok && t.2)) (s, true)
      (t.1, t.2 && u.2)
  | .chain c o =>
    if (s.core c).owner.isSome then (s, false) else (s.modCore c fun k => { k with chain := chainWrite k.chain o b }, true)
  | .link ch o => (s.modDie d fun x => x.setChan ch ((x.chan ch).write o b), true)
  | .counter o =>
    if o % 8 != 0 || b.length % 8 != 0 then (s, false)
    else ((unitsOf o b).foldl (fun s u => s.modDie d fun x => x.setCounter u.1 u.2) s, true)

/-- The places of an access, one after the other: what they hold. -/
def State.chipReadAll (s : State) (d : BitVec 2) (l : List (ChipPlace × Nat)) : List Byte := l.flatMap fun p => s.chipRead d p.1 p.2

/-- The first poisoned byte of an access: its offset and KIND. -/
def State.chipPoisonAll (s : State) (d : BitVec 2) : List (ChipPlace × Nat) → Nat → Option (Nat × Nat)
  | [], _ => none
  | p :: r, off =>
    match s.chipPoison d p.1 p.2 with
    | some x => some (off + x.1, x.2)
    | none => s.chipPoisonAll d r (off + p.2)

/-- The offset of a place in its region. -/
def ChipPlace.off : ChipPlace → Nat
  | .spad _ o | .window _ _ o | .bank _ _ o | .flags _ o | .mps _ o | .chain _ o | .link _ o | .counter o => o

/-- An access to places begins at an address aligned to 8 bytes: every region begins at one. -/
def chipAligned (l : List (ChipPlace × Nat)) : Bool := match l with | p :: _ => p.1.off % 8 == 0 | [] => true

/-- A write to places, one after the other, and whether all of it is performed. -/
def State.chipWriteFrom (s : State) (d : BitVec 2) (al : Bool) : List (ChipPlace × Nat) → List Byte → State × Bool
  | [], _ => (s, true)
  | p :: r, b =>
    let t := s.chipWrite d al p.1 (b.take p.2)
    let u := t.1.chipWriteFrom d al r (b.drop p.2)
    (u.1, t.2 && u.2)

/-- A write to the places of an access. -/
def State.chipWriteAll (s : State) (d : BitVec 2) (l : List (ChipPlace × Nat)) (b : List Byte) : State × Bool :=
  s.chipWriteFrom d (chipAligned l) l b

end Sys2Proof.Machine
end

