-- ==== Sys2Proof/Machine/Engine.lean ====
section
/-! DEFINITION. The engines (09 R229 to R241): the commands as they are issued, and the work of the copy family, of
page requests, and of the queue and franking engine. A command works element by element; a step that cannot go on
leaves it as it is. -/
namespace Sys2Proof.Machine

/-! ### Issue -/

/-- 09 R229, R231: the engine of a C-slot operation and its access path. -/
def engineOf (i : Instr) : EngineKind × BitVec 3 :=
  let ce := fun (f : FC) => if f.eng == 0 then EngineKind.ce0 else .ce1
  match i with
  | .cp _ f => if f.eng == 2 then (.bce, 2) else (ce f, 1)
  | .cpq _ f => (ce f, 3)
  | .lsend _ f => (ce f, 5)
  | .wstr _ _ => (.wsu, 3)
  | .pgreq _ _ => (.pages, 7)
  | .enq _ _ | .frank _ _ | .strmrd _ _ | .strmcommit _ _ | .strmin _ _ => (.queues, 7)
  | _ => (.walker, 6)

/-- 09 R229: a C-slot operation becomes a command of its engine. -/
def State.enqueueCommand (s : State) (h : Head) (f : FC) (i : Instr) : State :=
  let e := s.cur
  let c := s.cx
  let g := engineOf i
  let m : Command :=
    { id := s.nextId, ctx := e.ctx, acc := e.acc, bundle := if e.acc then c.countA else c.issueX, handler := c.hmode
      path := g.2, eng := g.1, instr := i, desc := descOf s h f.desc, sA := s.readS h f.a 1, sB := s.readS h f.b 2
      waits := c.holdIds g.2 true, started := false, pos := 0, fill := 0
      part := descOf s h (f.desc + 1), partPoison := false, done := false, err := none, counted := 0, susp := false
      outA := [], outB := [], skip := 0 }
  let s : State := { s with nextId := s.nextId + 1 }
  s.modCc fun k => { k with cmds := k.cmds ++ [m] }

/-- CP (09 R235). -/
def execCp (h : Head) (f : FC) : State → Out := slotOpC h (.cp h f) fun s => s.enqueueCommand h f (.cp h f)
/-- CPQ (09 R236). -/
def execCpq (h : Head) (f : FC) : State → Out := slotOpC h (.cpq h f) fun s => s.enqueueCommand h f (.cpq h f)
/-- WSTR (09 R237). -/
def execWstr (h : Head) (f : FC) : State → Out := slotOpC h (.wstr h f) fun s => s.enqueueCommand h f (.wstr h f)
/-- LSEND (09 R238). -/
def execLsend (h : Head) (f : FC) : State → Out := slotOpC h (.lsend h f) fun s => s.enqueueCommand h f (.lsend h f)
/-- PGREQ (09 R239). -/
def execPgreq (h : Head) (f : FC) : State → Out := slotOpC h (.pgreq h f) fun s => s.enqueueCommand h f (.pgreq h f)
/-- ENQ (09 R240). -/
def execEnq (h : Head) (f : FC) : State → Out := slotOpC h (.enq h f) fun s => s.enqueueCommand h f (.enq h f)
/-- FRANK (09 R241). -/
def execFrank (h : Head) (f : FC) : State → Out := slotOpC h (.frank h f) fun s => s.enqueueCommand h f (.frank h f)
/-- KVWALK (09 R242). -/
def execKvwalk (h : Head) (f : FC) : State → Out := slotOpC h (.kvwalk h f) fun s => s.enqueueCommand h f (.kvwalk h f)
/-- KVAPPEND (09 R243): the second vector is read at issue too. -/
def execKvappend (h : Head) (f : FC) : State → Out := slotOpC h (.kvappend h f) fun s => s.enqueueCommand h f (.kvappend h f)
/-- KVSEAL (09 R244). -/
def execKvseal (h : Head) (f : FC) : State → Out := slotOpC h (.kvseal h f) fun s => s.enqueueCommand h f (.kvseal h f)
/-- KVTRUNC (09 R245). -/
def execKvtrunc (h : Head) (f : FC) : State → Out := slotOpC h (.kvtrunc h f) fun s => s.enqueueCommand h f (.kvtrunc h f)
/-- BMAP (09 R246). -/
def execBmap (h : Head) (f : FC) : State → Out := slotOpC h (.bmap h f) fun s => s.enqueueCommand h f (.bmap h f)

/-! ### Commands -/

/-- The operand fields of a C-slot operation. -/
def fcOf (i : Instr) : FC :=
  match i with
  | .cp _ f | .cpq _ f | .wstr _ f | .lsend _ f | .pgreq _ f | .enq _ f | .frank _ f | .kvwalk _ f | .kvappend _ f
  | .kvseal _ f | .kvtrunc _ f | .bmap _ f | .strmrd _ f | .strmcommit _ f | .strmin _ f => f
  | _ => ⟨0, 0, 0, 0, 0, 0, 0, 0⟩

/-- 11 R290: a command that feeds the FIFOs of a chain. -/
def isFeed (i : Instr) : Bool := match i with | .cpq _ _ | .wstr _ _ | .kvwalk _ _ => true | _ => false

/-- 09 R236, R237, R242: the FIFOs that a command pushes to: bit 0 FS, 1 FA, 2 FB, 3 FC. -/
def feedsOf (i : Instr) : BitVec 4 :=
  match i with
  | .cpq _ f | .wstr _ f => 1#4 <<< f.tag.toNat
  | .kvwalk _ f => (f.tag.extractLsb' 0 2).setWidth 4 <<< 1
  | _ => 0

def State.cmd? (s : State) (c : CoreRef) (id : Nat) : Option Command := (s.core c).cmds.find? fun m => m.id == id
def State.setCmd (s : State) (c : CoreRef) (m : Command) : State :=
  s.modCore c fun k => { k with cmds := k.cmds.map fun x => if x.id == m.id then m else x }
def State.dropCmd (s : State) (c : CoreRef) (id : Nat) : State :=
  (s.donePackets (.unit c id)).modCore c fun k => { k with cmds := k.cmds.filter fun x => x.id != id }
/-- The command has done all its work. -/
def State.finishCmd (s : State) (c : CoreRef) (m : Command) : State := s.setCmd c { m with done := true }
/-- 09 R234: the command stops with an error. -/
def State.failCmd (s : State) (c : CoreRef) (m : Command) (code : Nat) (va : Word) : State :=
  s.setCmd c { m with done := true, err := some (BitVec.ofNat 8 code, va) }

/-- The stream of a command. -/
def State.cmdStream (s : State) (c : CoreRef) (m : Command) : Stream := s.stream (s.ctx c m.ctx).stream
def Command.ref (m : Command) (c : CoreRef) : CtxRef := ⟨c.die, c.core, m.ctx⟩

/-- 11 R274, 09 R234: the error code for a place that cannot be accessed. -/
def errOfKind (kind : Nat) : Nat := if kind == 5 then 4 else 1

/-! ### Where an element lies -/

/-- The bytes of an element: pieces of device or host memory, a scratchpad, a place of the on-chip map, or the packet by which
another package has answered. -/
inductive Spot where
  | bytes (l : List (Place × Nat))
  | spad (k : Nat)
  | chip (l : List (ChipPlace × Nat))
  | remote (pkt : Nat)
  deriving DecidableEq, Repr

/-- What an engine finds at an address: the spot, a page to bring home, no turn of the tenant, or an error. -/
inductive Reach where
  | ok (x : Spot)
  | held (va : Word)
  | stall
  | err (code : Nat)
  deriving DecidableEq, Repr

/-- What has been met at a range of device space, for an engine. -/
def Met.reach (m : Met) : Reach :=
  match m with
  | .ok l => .ok (.bytes l)
  | .far p => .ok (.remote p)
  | .held va => .held va
  | .stall => .stall
  | .bad _ k => .err (errOfKind k)

/-- 09 R232, 08 R178: `n` bytes at an address of a space, for a command that works on a core; `data` is what it writes there. -/
def State.reach (s : State) (c : CoreRef) (m : Command) (space : BitVec 2) (a : Word) (n : Nat) (rd wr tags : Bool)
    (data : List Byte) : State × Reach :=
  let st := s.cmdStream c m
  if space == 2 then
    let t := s.meet c.die (.unit c m.id) st.tenant st.asid a n rd wr tags data
    (t.1, t.2.reach)
  else if space == 3 then
    (s, match s.chipPlace c.die st.tenant a n with
    | some l => .ok (.chip l)
    | none => .err 1)
  else
    let o : MemOp := ⟨space, a, n, 0, wr, false, true⟩
    let t := spadTarget c space a
    (s, if inWindowOf o then .ok (.spad (spadKey t.1.die t.1.core t.2)) else .err 2)

/-- Bytes from a key with their poison. -/
def State.markedBytes (s : State) (k n : Nat) : List (Byte × Bool) :=
  (List.range n).map fun i => (readByte s.mem (k + i), s.poison.contains (poisonBase (k + i)))

/-- 09 R233: the bytes of an element with their poison. -/
def State.spotRead (s : State) (d : BitVec 2) (x : Spot) (n : Nat) : List (Byte × Bool) :=
  match x with
  | .bytes l => l.flatMap fun p =>
    let tolerant := match p.1 with | .dev _ _ f => f.pte.tolerant | _ => false
    (s.readDev p.1 p.2).mapIdx fun i b => (b, !tolerant && s.poison.contains (poisonBase (p.1.key + i)))
  | .spad k => s.markedBytes k n
  | .chip l => l.flatMap fun p => (s.chipRead d p.1 p.2).mapIdx fun i b => (b, (s.chipPoisoned d p.1 i).isSome)
  | .remote p => (farBytes p n).map fun b => (b, farWord p 1 == 1)

/-- 09 R233: bytes stored from a key, poisoned bytes as poison of their units. -/
def State.storeMarked (s : State) (k : Nat) (l : List (Byte × Bool)) : State :=
  let s := s.storeAt k (l.map (·.1))
  let bad := (l.zipIdx.filter fun b => b.1.2).map fun b => poisonBase (k + b.2)
  if bad.isEmpty then s else { s with poison := bad.foldl (fun p x => insertKey x p) s.poison }

def State.storePieces (s : State) : List (Place × Nat) → List (Byte × Bool) → State
  | [], _ => s
  | p :: r, b => (s.storeMarked p.1.key (b.take p.2)).storePieces r (b.drop p.2)

/-- 02 R57, 09 R233: bytes written through the on-chip map with their poison, and whether all of them are performed. A
register has no poison marker: what a copy writes into one is a plain value (log entry 64). -/
def State.chipStore (s : State) (d : BitVec 2) (al : Bool) : List (ChipPlace × Nat) → List (Byte × Bool) → State × Bool
  | [], _ => (s, true)
  | p :: r, b =>
    let l := b.take p.2
    let t := match p.1 with
      | .spad c o => (s.storeMarked (spadKey c.die c.core o) l, true)
      | x =>
        let t := s.chipWrite d al x (l.map fun (y : Byte × Bool) => y.1)
        if t.2 then (t.1.chipTaint d x (l.map fun (y : Byte × Bool) => y.2), true) else t
    let u := t.1.chipStore d al r (b.drop p.2)
    (u.1, t.2 && u.2)

/-- An element written, and whether all of it is performed (02 R57); a packet has taken it to another package. -/
def State.spotWrite (s : State) (d : BitVec 2) (asid : BitVec 12) (x : Spot) (l : List (Byte × Bool)) : State × Bool :=
  match x with
  | .bytes p => ((s.storePieces p l).countPoison s.poison asid p, true)
  | .spad k => (s.storeMarked k l, true)
  | .chip p => s.chipStore d (chipAligned p) p l
  | .remote _ => (s, true)

/-- 10 R266: the keys of an element that the race detector covers. -/
def Spot.watched (x : Spot) (n : Nat) : List (Nat × Nat) :=
  match x with
  | .bytes l => racedPieces l
  | .spad k => [(k, n)]
  | .chip l => chipSpads l
  | .remote _ => []

/-- 10 R266: an engine's access to key ranges leaves its records. -/
def State.recordKeys (s : State) (c : CoreRef) (m : Command) (l : List (Nat × Nat)) (write atomic : Bool) : State :=
  let k := s.ctx c m.ctx
  l.foldl (fun s w =>
    s.recordRace ⟨.eng (m.ref c) m.eng, m.path, (s.stream k.stream).tenant, k.coreIdx, w.1, w.2, write, atomic⟩) s

/-- 18 R410: a reader of an element gets substitution values for its granules with an error. -/
def State.spotSubst (s : State) (asid : BitVec 12) (x : Spot) : State :=
  match x with | .bytes l => s.countSubst asid l | _ => s

/-- The race records of an engine's access to an element, and the substitutions of a read. -/
def State.recordEngine (s : State) (c : CoreRef) (m : Command) (x : Spot) (n : Nat) (write atomic : Bool) : State :=
  (if write then s else s.spotSubst (s.cmdStream c m).asid x).recordKeys c m (x.watched n) write atomic

/-! ### Tags of a copy (09 R235, 08 R191) -/

/-- The words of pieces of device memory from an address: each word's address, die and tag; none where a page has no
tags. -/
def State.tagWords (s : State) : List (Place × Nat) → Word → Option (List (Word × BitVec 2 × (Nat × Nat)))
  | [], _ => some []
  | p :: r, va =>
    match p.1 with
    | .dev d _ l =>
      if !l.pte.tagged then none
      else
        (s.tagWords r (va + BitVec.ofNat 64 p.2)).map fun rest =>
          ((List.range (p.2 / 8)).map fun j =>
            let w := va + BitVec.ofNat 64 (8 * j)
            (w, d, s.tagAt d l (vaOff w))) ++ rest
    | _ => none

/-- 08 R191: the tag mode applied to one word: 1 fill, 2 empty, 3 as the source's FULL, 4 ordered fill. -/
def State.tagWord (s : State) (asid : BitVec 12) (mode : Nat) (w : Word × BitVec 2 × (Nat × Nat)) (full : Bool) : State :=
  if mode == 1 || mode == 4 || (mode == 3 && full) then s.fillWord w.2.1 asid w.1 w.2.2
  else s.emptyWord w.2.1 asid w.1 w.2.2

/-- The tags of an element: where the destination's words are and what the source's hold, or the address whose page has no
tags (error 3). The tags of a destination in another package are set there; those of a source there are free values (log
entry 1). -/
def State.elemTags (s : State) (mode : Nat) (sp dp : Spot) (src dst : Word) (n : Nat) :
    List ((Word × BitVec 2 × (Nat × Nat)) × Bool) ⊕ Word :=
  let words := fun (x : Spot) (a : Word) => match x with | .bytes l => s.tagWords l a | _ => none
  let fulls : Option (List Bool) :=
    if mode != 3 then some (List.replicate (n / 8) true)
    else match sp with
      | .remote p => some ((List.range (n / 8)).map fun i => (farWord p (n / 8)).getLsbD i)
      | _ => (words sp src).map fun vs => vs.map fun v => s.tagBit v.2.2 false
  if mode == 0 then .inl []
  else match dp, fulls with
    | _, none => .inr src
    | .remote _, _ => .inl []
    | _, some l => match words dp dst with
      | some ws => .inl (ws.zip l)
      | none => .inr dst

/-! ### The copy family -/

/-- 09 R232: a copy descriptor. -/
structure CopyDesc where
  src : Word
  dst : Word
  ssp : BitVec 2
  dsp : BitVec 2
  elog : Nat
  counts : List Nat
  ss : List Word
  ds : List Word
  deriving DecidableEq, Repr

def copyDesc (v : Vec) : CopyDesc :=
  let w10 := vword v 0x10
  let half := fun (o : Nat) => vbits v (8 * o + 31) (8 * o)
  { src := BitVec.ofNat 64 (vword v 0), dst := BitVec.ofNat 64 (vword v 8), ssp := BitVec.ofNat 2 w10
    dsp := BitVec.ofNat 2 (w10 / 4), elog := bitsOf w10 6 4
    counts := (List.range 6).map fun l => half (0x18 + 4 * l)
    ss := (List.range 6).map fun l => (BitVec.ofNat 32 (half (0x30 + 4 * l))).signExtend 64
    ds := (List.range 6).map fun l => (BitVec.ofNat 32 (half (0x48 + 4 * l))).signExtend 64 }

/-- 09 R233: how many elements it moves. -/
def CopyDesc.total (d : CopyDesc) : Nat := d.counts.foldl (· * ·) 1

/-- 09 R233: the indices of element `n`, index 0 fastest. -/
def tupleOf : List Nat → Nat → List Nat
  | [], _ => []
  | c :: r, n => n % c :: tupleOf r (n / c)

def strideSum (idx : List Nat) (st : List Word) : Word :=
  (idx.zip st).foldl (fun a p => a + BitVec.ofNat 64 p.1 * p.2) 0

def CopyDesc.srcAt (d : CopyDesc) (n : Nat) : Word := d.src + strideSum (tupleOf d.counts n) d.ss
def CopyDesc.dstAt (d : CopyDesc) (n : Nat) : Word := d.dst + strideSum (tupleOf d.counts n) d.ds
def CopyDesc.esize (d : CopyDesc) : Nat := 2 ^ d.elog
/-- 09 R233: the alignment of an element. -/
def CopyDesc.misaligned (d : CopyDesc) (a : Word) : Bool := a.toNat % min d.esize 8 != 0

/-- 09 R232: the core and arrival word, or flag, that a completion names. -/
def State.awCore (s : State) (c : CoreRef) (m : Command) : Option CoreRef :=
  (partCore (s.die c.die) (s.cmdStream c m).tenant (bitsOf (vword m.desc 0x10) 15 8)).map fun p => ⟨c.die, p⟩
def awOff (v : Vec) : Nat := bitsOf (vword v 0x10) 51 32

/-- 08 R199, 09 R230: the bytes a command has landed in all; those not counted before arrive at its arrival word. -/
def State.landBytes (s : State) (c : CoreRef) (m : Command) (total : Nat) : State × Command :=
  let m' := { m with counted := max m.counted total }
  if complKind (fcOf m.instr) == 2 && decide (m.counted < total) then
    match s.awCore c m with
    | some a =>
      let k := s.ctx c m.ctx
      ({ s with arrivals := s.arrivals ++ [⟨a, awOff m.desc, total - m.counted, .eng (m.ref c) m.eng, m.path,
          (s.stream k.stream).tenant, k.coreIdx, false, m.id⟩] }, m')
    | none => (s, m')
  else (s, m')

/-- 09 R235, 17 R385: the die that a write to an address reaches, and the tenant whose counter it may step there: the owner
of the page's address space, or the writer's own where there is no page. A write to another package is counted there; host
space has no die and no address space, so that a write to it steps no counter. -/
def State.tagDie (s : State) (x : Spot) (va : Word) (own : BitVec 2) (st : Stream) : Option (BitVec 2 × BitVec 8) :=
  match x with
  | .bytes _ => if va.getLsbD 63 then none else some (vaDie va, (s.die (vaDie va)).asidOwner.getD st.asid.toNat 0xFF)
  | .remote _ => none
  | _ => some (own, st.tenant)

/-- 09 R235: the increment of a tagged write of `n` bytes at its destination die. Model's choice: without the bytes flag each
element of a copy is one packet, inside the package too (log entry 39). -/
def State.tagwBump (s : State) (t : Option (BitVec 2 × BitVec 8)) (f : FC) (n : Nat) : State :=
  match t with
  | some (d, owner) => if f.sub.getLsbD 5 then s.bumpCounter d f.path.toNat (if f.sub.getLsbD 4 then n else 1) owner else s
  | none => s

/-- 09 R235: the next element of a CP. -/
def State.burstCp (s : State) (c : CoreRef) (m : Command) : State :=
  let f := fcOf m.instr
  let d := copyDesc m.desc
  let st := s.cmdStream c m
  let n := d.esize
  let mode := f.tag.toNat
  if d.total ≤ m.pos then s.finishCmd c m
  else
    let a := d.srcAt m.pos
    let b := d.dstAt m.pos
    if d.misaligned a then s.failCmd c m 2 a
    else if d.misaligned b then s.failCmd c m 2 b
    else
      let x := s.reach c m d.ssp a n true false (mode == 3) []
      match x.2 with
      | .err e => x.1.failCmd c m e a
      | .held va => x.1.bringHome c m.ctx va (if mode == 3 then 5 else 1) m.id
      | .stall => x.1
      | .ok sp =>
        let l := x.1.spotRead c.die sp n
        let y := x.1.reach c m d.dsp b n false true (mode != 0) (l.map (·.1))
        match y.2 with
        | .err e => y.1.failCmd c m e b
        | .held va => y.1.bringHome c m.ctx va (if mode != 0 then 6 else 2) m.id
        | .stall => y.1
        | .ok dp =>
          match y.1.elemTags mode sp dp a b n with
          | .inr va => y.1.failCmd c m 3 va
          | .inl tags =>
            let s := (y.1.donePackets (.unit c m.id)).recordEngine c m sp n false false
            let w := (s.recordEngine c m dp n true (mode != 0)).spotWrite c.die st.asid dp l
            if !w.2 then w.1.failCmd c m 1 b
            else
              let t := tags.foldl (fun t w => t.tagWord st.asid mode w.1 w.2) w.1
              let t := t.tagwBump (s.tagDie dp b c.die st) f n
              let r := t.landBytes c m (n * (m.pos + 1))
              let m' := { r.2 with pos := m.pos + 1 }
              r.1.setCmd c { m' with done := decide (d.total ≤ m'.pos) }

/-- The FIFO that a command names (09 R236), and its room (09 R208). -/
def Core.fifo (k : Core) (n : Nat) : List FifoEntry := match n with | 0 => k.fs | 1 => k.fa | 2 => k.fb | _ => k.fc
def Core.push (k : Core) (n : Nat) (e : FifoEntry) : Core :=
  match n with
  | 0 => { k with fs := k.fs ++ [e] }
  | 1 => { k with fa := k.fa ++ [e] }
  | 2 => { k with fb := k.fb ++ [e] }
  | _ => { k with fc := k.fc ++ [e] }
def Core.room (k : Core) (n : Nat) : Bool := decide ((k.fifo n).length < 16)

/-- Bytes as the low bytes of a vector, from a byte offset. -/
def vecOf (l : List Byte) (off : Nat) : Vec := BitVec.ofNat 2048 (natOfBytes l * 2 ^ (8 * off))

/-- 09 R236, R238: the next element of a CPQ or LSEND is packed; a full or last part goes on through `out`, which
says whether it could. Where the command meets an error, the part packed so far goes on first (09 R234). -/
def State.burstPack (s : State) (c : CoreRef) (m : Command) (out : State → Vec → Bool → Nat → Option State) : State :=
  let d := copyDesc m.desc
  let n := d.esize
  let fail := fun (s : State) (code : Nat) (va : Word) =>
    if m.fill == 0 then s.failCmd c m code va
    else match out s m.part m.partPoison m.fill with
      | none => s
      | some t =>
        let r := t.landBytes c m (n * m.pos)
        r.1.failCmd c { r.2 with fill := 0, part := 0, partPoison := false } code va
  if let some e := m.err then fail s e.1.toNat e.2
  else if d.total ≤ m.pos then s.finishCmd c m
  else
    let a := d.srcAt m.pos
    if d.misaligned a then fail s 2 a
    else
      let x := s.reach c m d.ssp a n true false false []
      match x.2 with
      | .err e => fail x.1 e a
      | .held va => x.1.bringHome c m.ctx va 1 m.id
      | .stall => x.1
      | .ok sp =>
        let s := x.1
        let l := s.spotRead c.die sp n
        let part := (if m.fill == 0 then 0 else m.part) ||| vecOf (l.map (·.1)) m.fill
        let bad := (m.fill != 0 && m.partPoison) || l.any (·.2)
        let last := decide (d.total ≤ m.pos + 1)
        let s' := (s.donePackets (.unit c m.id)).recordEngine c m sp n false false
        if m.fill + n == 256 || last then
          match out s' part bad (m.fill + n) with
          | none => s
          | some t =>
            let r := t.landBytes c m (n * (m.pos + 1))
            r.1.setCmd c { r.2 with pos := m.pos + 1, fill := 0, part := 0, partPoison := false, done := last }
        else s'.setCmd c { m with pos := m.pos + 1, fill := m.fill + n, part := part, partPoison := bad }

/-- CPQ at work (09 R236). -/
def State.burstCpq (s : State) (c : CoreRef) (m : Command) : State :=
  let q := (fcOf m.instr).tag.toNat
  s.burstPack c m fun s v bad _ =>
    if (s.core c).room q then
      some (s.modCore c fun k => k.push q ⟨v, bad, false, m.id, m.pos / (256 / (copyDesc m.desc).esize), []⟩)
    else none

/-- LSEND at work (09 R238): whether the link has credit is free (log entry 1). The elements of a packet that cannot be
delivered are an error at the first of them (20 R432). -/
def State.burstLsend (s : State) (c : CoreRef) (m : Command) : State :=
  let f := fcOf m.instr
  let d := copyDesc m.desc
  let p := bitsOf d.dst.toNat 3 0
  let v := bitsOf d.dst.toNat 5 4
  if !(s.cmdStream c m).link.getLsbD (4 * p + v) then s.failCmd c m 9 d.src
  else if decide (m.pos < d.total) && (!(s.die c.die).portUp.getLsbD p || s.lostOnWay) then
    s.failCmd c { m with fill := 0, part := 0, partPoison := false } 1 (d.srcAt (m.pos - m.fill / d.esize))
  else
    s.burstPack c m fun s x bad n =>
      if s.freeVal 1 4093 == 1 then
        some (s.sends (.link c.die (BitVec.ofNat 3 p) (BitVec.ofNat 2 v) ⟨x, bad, n, f.sub.getLsbD 5, f.sub.getLsbD 4, f.path⟩))
      else none

/-! ### WSTR (09 R237) -/

/-- The bytes of a compressed entry's body, once its first 33 bytes are known. -/
def bodyLen (mode : Nat) (bitmap : Nat) : Nat :=
  match mode with
  | 0 => 256
  | 1 => 1
  | 2 => 144
  | _ => 32 + popBits 256 bitmap

/-- 09 R237: the 256 bytes that a body stands for. -/
def expandBody (mode : Nat) (body : List Byte) : List Byte :=
  match mode with
  | 0 => body
  | 1 => List.replicate 256 (body.getD 0 0)
  | 2 => (List.range 256).map fun i =>
      let nib := (body.getD (16 + i / 2) 0).toNat / (if i % 2 == 0 then 1 else 16) % 16
      body.getD nib 0
  | _ => (List.range 256).map fun i =>
      if (body.getD (i / 8) 0).getLsbD (i % 8) then
        let before := (List.range i).foldl (fun n j => if (body.getD (j / 8) 0).getLsbD (j % 8) then n + 1 else n) 0
        body.getD (32 + before) 0
      else 0

/-- WSTR at work: one entry. `fill` is the place in the stream. -/
def State.burstWstr (s : State) (c : CoreRef) (m : Command) : State :=
  let q := (fcOf m.instr).tag.toNat
  let d := copyDesc m.desc
  let len := d.counts.getD 0 0
  let want := d.counts.getD 1 0
  let at_ := d.src + BitVec.ofNat 64 m.fill
  if want ≤ m.pos then s.finishCmd c m
  else if len ≤ m.fill then s.failCmd c m 5 at_
  else
    let get := fun (s : State) (n : Nat) (k : State → List (Byte × Bool) → Spot → State) =>
      let x := s.reach c m 2 at_ n true false false []
      match x.2 with
      | .err e => x.1.failCmd c m e at_
      | .held va => x.1.bringHome c m.ctx va 1 m.id
      | .stall => x.1
      | .ok sp => k x.1 (x.1.spotRead c.die sp n) sp
    get s 1 fun s hd _ =>
      let h := (hd.getD 0 (0, false)).1
      let mode := h.toNat % 4
      if h.toNat / 4 != 0 then s.failCmd c m 5 at_
      else if len < m.fill + (if mode == 3 then 33 else 1) then s.failCmd c m 5 at_
      else
        get s (if mode == 3 then 33 else 1) fun s bm _ =>
          let n := bodyLen mode (natOfBytes ((bm.drop 1).map (·.1)))
          if len < m.fill + 1 + n then s.failCmd c m 5 at_
          else
            get s (1 + n) fun s l sp =>
              let body := (l.drop 1).map (·.1)
              let m' := { m with pos := m.pos + 1, fill := m.fill + 1 + n }
              let m' := { m' with done := decide (want ≤ m'.pos) }
              if m.pos < m.skip then (s.donePackets (.unit c m.id)).setCmd c m'
              else if !(s.core c).room q then s
              else
                let s := (s.donePackets (.unit c m.id)).recordEngine c m sp (1 + n) false false
                let s := s.modCore c fun k => k.push q ⟨vecOf (expandBody mode body) 0, l.any (·.2), false, m.id, m.pos, []⟩
                let r := s.landBytes c m' (256 * (m.pos + 1))
                r.1.setCmd c r.2

/-! ### PGREQ (09 R239) -/

/-- A list without its repeats. -/
def distinct : List Word → List Word
  | [] => []
  | x :: r => x :: (distinct r).filter (· != x)

/-- 09 R239: page `n` of those a PGREQ requests, and how many there are. -/
def pgreqPage (m : Command) (n : Nat) : Word × Nat :=
  let f := fcOf m.instr
  if f.sub.getLsbD 1 then
    (if n == 0 then m.sA else (m.sA &&& ~~~0xFFFF) + BitVec.ofNat 64 (65536 * n),
      if m.sB == 0 then 0 else (m.sA.toNat % 65536 + m.sB.toNat + 65535) / 65536)
  else
    let l := ((List.range 64).filter fun e => m.sB.getLsbD e != f.sub.getLsbD 0).map fun e => elementAddr m.sA m.desc e
    let p := distinct (l.map (· &&& ~~~0xFFFF))
    let first := (l.find? fun a => a &&& ~~~0xFFFF == p.getD n 0).getD 0
    (first, p.length)

/-- PGREQ at work: the next page. -/
def State.burstPgreq (s : State) (c : CoreRef) (m : Command) : State :=
  let st := s.cmdStream c m
  let p := pgreqPage m m.pos
  if p.2 ≤ m.pos then s.finishCmd c m
  else
    let t := s.meet c.die (.unit c m.id) st.tenant st.asid p.1 1 false false true []
    let next := (t.1.donePackets (.unit c m.id)).setCmd c { m with pos := m.pos + 1, done := decide (p.2 ≤ m.pos + 1) }
    match t.2 with
    | .ok l => if l.all fun x => x.1.isDev then next else t.1.failCmd c m 1 p.1
    | .far _ => next
    | .held va => t.1.bringHome c m.ctx va 4 m.id
    | .stall => t.1
    | .bad _ k => t.1.failCmd c m (errOfKind k) p.1

/-! ### Command rings (17 R367, R369) -/

def QueueRec.owner (q : QueueRec) : BitVec 8 := q.word.setWidth 8
def QueueRec.asid (q : QueueRec) : BitVec 12 := q.ctl.extractLsb' 18 12
def QueueRec.rlog (q : QueueRec) : Nat := (q.ctl.extractLsb' 0 4).toNat
def QueueRec.clog (q : QueueRec) : Nat := (q.ctl.extractLsb' 4 4).toNat
/-- 17 R367: the address of command `i`. -/
def QueueRec.cmdAddr (q : QueueRec) (i : BitVec 32) : Word := q.rbase + BitVec.ofNat 64 (64 * (i.toNat % 2 ^ q.rlog))
/-- 17 R369: the ring is full. -/
def QueueRec.full (q : QueueRec) : Bool := decide (2 ^ q.rlog ≤ (q.tail - q.head).toNat)

/-- What a command appended to a ring comes to. -/
inductive Append where
  /-- with the ranges that the race detector sees -/
  | done (s : State) (l : List (Nat × Nat))
  /-- the ring is full, there is no turn of the tenant, or a packet is on its way -/
  | wait (s : State)
  | held (va : Word)
  | bad (s : State) (kind : Nat)

/-- 17 R369: a command written at TAIL, TAIL advanced and the doorbell bit set, in one step, by an agent that is admitted in
the turns of a tenant. -/
def State.append (s : State) (d : BitVec 2) (who : Sender) (q : BitVec 8) (turn : BitVec 8) (b : List Byte) : Append :=
  let r := s.qrec d q
  if r.full then .wait s
  else
    let ring := fun (s : State) =>
      (s.modQ d q fun r => { r with tail := r.tail + 1 }).modDie d fun x => { x with doorbells := x.doorbells ||| (1#256 <<< q.toNat) }
    let t := s.meet d who turn r.asid (r.cmdAddr r.tail) 64 false true false b
    match t.2 with
    | .held va => .held va
    | .stall => .wait t.1
    | .far _ => .done (ring (t.1.donePackets who)) []
    | .bad _ k => .bad t.1 k
    | .ok l => .done (ring (t.1.spanWrite l b)) (racedPieces l)

/-- ENQ at work (09 R240): a queue that is not ENABLED takes no command (17 R388). -/
def State.burstEnq (s : State) (c : CoreRef) (m : Command) : State :=
  let st := s.cmdStream c m
  let q : BitVec 8 := m.sA.setWidth 8
  let r := s.qrec c.die q
  if r.owner != st.tenant then s.failCmd c m 8 m.sA
  else if r.state != .enabled then s.failCmd c m 8 m.sA
  else
    match s.append c.die (.unit c m.id) q st.tenant (bytesOfNat m.desc.toNat 64) with
    | .done t l => (t.recordKeys c m l true false).finishCmd c m
    | .wait t => t
    | .held va => s.bringHome c m.ctx va 2 m.id
    | .bad t k => t.failCmd c m (errOfKind k) (r.cmdAddr r.tail)

/-- 17 R386, R387: an entry armed with a packet; it fires at once when its counter stands at the threshold. -/
def State.armEntry (s : State) (d : BitVec 2) (k : Nat) (words : Vector Word 8) (tenant : BitVec 8) (asid : BitVec 12) : State :=
  s.modDie d fun x =>
    let x := { x with frank := x.frank.setIfInBounds k (some ⟨words, tenant, asid, false⟩) }
    fireEntry (x.counters.getD ((words.getD 1 0).extractLsb' 16 8).toNat 0) k x

/-- 17 R386: the counter, and the queue of an ENQUEUE, that a packet names belong to the tenant. -/
def Die.packetOwned (x : Die) (words : Vector Word 8) (tenant : BitVec 8) : Bool :=
  x.ctrOwner.getD ((words.getD 1 0).extractLsb' 16 8).toNat 0xFF == tenant

/-- FRANK at work (09 R241). -/
def State.burstFrank (s : State) (c : CoreRef) (m : Command) : State :=
  let st := s.cmdStream c m
  let k := (m.sA.extractLsb' 0 9).toNat
  let x := s.die c.die
  let words : Vector Word 8 := Vector.ofFn fun i => BitVec.ofNat 64 (vword m.desc (8 * i.val))
  if x.frankOwner.getD k 0xFF != st.tenant || !x.packetOwned words st.tenant then s.failCmd c m 8 m.sA
  else (s.armEntry c.die k words st.tenant st.asid).finishCmd c m

end Sys2Proof.Machine
end

