-- ==== Sys2Proof/Machine/Folio.lean ====
section
/-! DEFINITION. The KV folio (09 R242 to R246, 12 R307 to R326): records, resolution of positions, and the steps of
KVWALK, KVAPPEND, KVSEAL, KVTRUNC and BMAP. A step either has all its effects or stops with none. -/
namespace Sys2Proof.Machine

/-- Why a folio step stops without effect: an engine error, a page to bring home, bytes to ask of another package, or a pinned
frame or an answer to wait for. -/
inductive Stop where
  | err (code : Nat) (va : Word)
  | held (va : Word) (need : Word)
  | ask (va : Word)
  | stall
  deriving DecidableEq, Repr

/-- For whom a step reads and writes: its address space, die and tenant, the sender of its packets, and the agent whose accesses
they are (10 R250). -/
structure Who where
  sender : Sender
  asid : BitVec 12
  die : BitVec 2
  tenant : BitVec 8
  agent : Agent
  path : BitVec 3
  coreIdx : BitVec 8
  deriving DecidableEq, Repr

/-- A folio step over the state. -/
abbrev Fol := StateT State (Except Stop)

def stop {α : Type} (x : Stop) : Fol α := fun _ => .error x
/-- 12 R314: an inconsistency is engine error 6. -/
def require (b : Bool) (va : Word) (code : Nat := 6) : Fol Unit := if b then pure () else stop (.err code va)

/-! ### Access to records -/

/-- The pieces of a range, where a step needs R and W, or the address from which another package holds it; `need` is what a page
must have to come home. -/
def reachPieces (a : Who) (need va : Word) (n : Nat) (r w : Bool) : Fol (List (Place × Nat) ⊕ Word) := do
  let s ← get
  match s.near a.die a.tenant a.asid va n r w false with
  | .ok l =>
    modify fun s => s.fillRange a.asid (s.routed a.die va) n
    pure (.inl l)
  | .held x => stop (.held x need)
  | .stall => stop .stall
  | .remote x => pure (.inr x)
  | .bad x k => stop (.err (errOfKind k) x)

/-- The pieces of a record: R and W for a step that updates it, R for a walk (18 R397); host space is error 1. -/
def pieces (a : Who) (upd : Bool) (va : Word) (n : Nat) : Fol (List (Place × Nat) ⊕ Word) :=
  if va.getLsbD 63 then stop (.err 1 va) else reachPieces a (if upd then 3 else 1) va n true upd

/-- 18 R393: the packet by which another package has answered a read; until it has, the step waits. -/
def asked (a : Who) (va : Word) : Fol Nat := do
  let s ← get
  match s.packetOf a.sender va false with
  | none => stop (.ask va)
  | some p => match p.phase with
    | .answered => pure p.id
    | .refused k => stop (.err (errOfKind k) va)
    | _ => stop .stall

/-- Bytes that another package holds, as a step reads them: its own writes, which leave when it is done, and the answer. -/
def State.farRead (s : State) (who : Sender) (pkt : Nat) (va : Word) (n : Nat) : List (Byte × Bool) :=
  let mine := s.packets.filter fun p => p.who == who && p.wr
  (farBytes pkt n).mapIdx fun i b =>
    let x := va + BitVec.ofNat 64 i
    match (mine.filter fun p => decide ((x - p.va).toNat < p.data.length)).getLast? with
    | some p => (p.data.getD (x - p.va).toNat b, false)
    | none => (b, farWord pkt 1 == 1)

/-- 10 R266, 18 R410: an access of the step leaves its records, and a read its substitutions. -/
def seen (a : Who) (l : List (Place × Nat)) (write : Bool) : Fol Unit :=
  modify fun s =>
    (racedPieces l).foldl (fun s w => s.recordRace ⟨a.agent, a.path, a.tenant, a.coreIdx, w.1, w.2, write, false⟩)
      (if write then s else s.countSubst a.asid l)

/-- The poison of each byte of pieces, as a reader meets it (18 R411). -/
def State.spanMarks (s : State) (l : List (Place × Nat)) : List Bool :=
  l.flatMap fun p =>
    let tolerant := match p.1 with | .dev _ _ f => f.pte.tolerant | _ => false
    (List.range p.2).map fun i => !tolerant && s.poison.contains (poisonBase (p.1.key + i))

/-- `n` bytes of a range with their poison. -/
def rdPieces (a : Who) (va : Word) (n : Nat) : List (Place × Nat) ⊕ Word → Fol (List (Byte × Bool))
  | .inl l => do
    seen a l false
    let s ← get
    pure ((s.spanRead l).zip (s.spanMarks l))
  | .inr x => do
    let p ← asked a x
    let s ← get
    pure (s.farRead a.sender p va n)

/-- Bytes written with their poison; those of another package leave in a packet when the step is done. -/
def wrPieces (a : Who) (va : Word) (l : List (Byte × Bool)) : List (Place × Nat) ⊕ Word → Fol Unit
  | .inl p => do
    seen a p true
    modify fun s => (s.storePieces p l).countPoison s.poison a.asid p
  | .inr _ => modify fun s => s.sendPacket a.die a.sender a.tenant a.asid va true (l.map (·.1))

/-- `n` bytes of a record with their poison. -/
def rdMarked (a : Who) (upd : Bool) (va : Word) (n : Nat) : Fol (List (Byte × Bool)) := do
  rdPieces a va n (← pieces a upd va n)

def rdBytes (a : Who) (upd : Bool) (va : Word) (n : Nat) : Fol (List Byte) := do
  return (← rdMarked a upd va n).map (·.1)

/-- 09 R211: whether one of `n` bytes is poisoned. -/
def poisonOf (a : Who) (upd : Bool) (va : Word) (n : Nat) : Fol Bool := do
  match ← pieces a upd va n with
  | .inl l => do
    let s ← get
    return s.spanPoison l
  | .inr x => do
    let p ← asked a x
    let s ← get
    return (s.farRead a.sender p va n).any (·.2)

def rd (a : Who) (upd : Bool) (va : Word) (n : Nat) : Fol Nat := do
  return natOfBytes (← rdBytes a upd va n)
/-- A number with its poison. -/
def rdBad (a : Who) (upd : Bool) (va : Word) (n : Nat) : Fol (Nat × Bool) := do
  let l ← rdMarked a upd va n
  return (natOfBytes (l.map (·.1)), l.any (·.2))

/-- Bytes written with their poison. -/
def wrMarked (a : Who) (va : Word) (l : List (Byte × Bool)) : Fol Unit := do
  wrPieces a va l (← pieces a true va l.length)

/-- Bytes written. -/
def wrBytes (a : Who) (va : Word) (l : List Byte) : Fol Unit := wrMarked a va (l.map fun b => (b, false))

def wr (a : Who) (va : Word) (n x : Nat) : Fol Unit := wrBytes a va (bytesOfNat x n)
/-- A number written with its poison. -/
def wrBad (a : Who) (va : Word) (n : Nat) (x : Nat × Bool) : Fol Unit := wrMarked a va ((bytesOfNat x.1 n).map fun b => (b, x.2))

/-- `n` zero bytes written. -/
def wrZero (a : Who) (va : Word) (n : Nat) : Fol Unit := do
  match ← pieces a true va n with
  | .inl p => do
    seen a p true
    modify fun s => p.foldl (fun s x =>
      { s with mem := clearBytes s.mem x.1.key x.2, poison := coverPoison s.poison x.1.key x.2 }) s
  | .inr _ => modify fun s => s.sendPacket a.die a.sender a.tenant a.asid va true (pad n)

def off (va : Word) (n : Nat) : Word := va + BitVec.ofNat 64 n

/-! ### Records (12 R308 to R313) -/

structure Entry where
  frame : Nat
  blkno : Nat
  fin : Nat
  lo : Nat
  state : Nat
  /-- what it holds comes from poisoned bytes (18 R411) -/
  bad : Bool
  deriving DecidableEq, Repr

def entryOf (x : Nat) (bad : Bool) : Entry :=
  ⟨bitsOf x 63 13 * 8192, bitsOf x 127 96, bitsOf x 85 80, bitsOf x 76 72, bitsOf x 65 64, bad⟩
def Entry.bits (e : Entry) : Nat :=
  e.frame + 2 ^ 64 * e.state + 2 ^ 72 * e.lo + 2 ^ 80 * e.fin + 2 ^ 96 * e.blkno

/-- 12 R308: an entry's reserved fields and ranges; an empty entry is not looked at. -/
def entryOk (x : Nat) : Bool :=
  bitsOf x 65 64 == 0 ||
  (bitsOf x 65 64 != 3 && bitsOf x 12 0 == 0 && bitsOf x 95 86 == 0 && bitsOf x 79 77 == 0 && bitsOf x 71 66 == 0 &&
    decide (bitsOf x 85 80 ≤ 32))

def rdEntry (a : Who) (u : Bool) (va : Word) : Fol Entry := do
  let x ← rdBad a u va 16
  require (entryOk x.1) va
  return entryOf x.1 x.2
def wrEntry (a : Who) (va : Word) (e : Entry) : Fol Unit := wrBad a va 16 (e.bits, e.bad)

structure Group where
  at_ : Word
  w : Nat
  nsink : Nat
  hdim : Nat
  heads : Nat
  nbeam : Nat
  ro : Bool
  seqtab : Word
  freeBlk : Word
  freeNode : Word
  freeRing : Word
  beams : List Nat
  live : Nat
  deriving DecidableEq, Repr

def rdGroup (a : Who) (u : Bool) (va : Word) : Fol Group := do
  let l ← rdBytes a u va 256
  let f := fun (o n : Nat) => natAt l o n
  let x := f 0 8
  let g : Group :=
    { at_ := va, w := bitsOf x 60 48, nsink := bitsOf x 42 40, hdim := bitsOf x 38 32, heads := bitsOf x 31 24
      nbeam := bitsOf x 22 16, ro := x.testBit 8, seqtab := BitVec.ofNat 64 (f 8 8), freeBlk := BitVec.ofNat 64 (f 16 8)
      freeNode := BitVec.ofNat 64 (f 24 8), freeRing := BitVec.ofNat 64 (f 32 8)
      beams := (List.range 64).map fun i => f (64 + i) 1, live := f 0x80 8 }
  require (bitsOf x 7 0 == 1 && bitsOf x 63 61 == 0 && bitsOf x 47 43 == 0 && bitsOf x 39 39 == 0 && bitsOf x 23 23 == 0 &&
    bitsOf x 15 9 == 0 && f 0x28 24 == 0 && f 0x88 120 == 0 && decide (1 ≤ g.w) && decide (g.w ≤ 4096) &&
    decide (g.nsink ≤ 4) && decide (1 ≤ g.heads) && decide (g.heads ≤ 64) && decide (g.nbeam ≤ 64) &&
    va.toNat % 256 == 0) va
  return g

structure Seq where
  at_ : Word
  slot : Nat
  group : Word
  next : Nat
  oldest : Nat
  prefEnd : Nat
  path : Word
  npath : Nat
  ring : Word
  /-- the address of the ring comes from poisoned bytes (18 R411) -/
  ringBad : Bool
  stage : Word
  snap : Word
  snapSz : Nat
  snapN : Nat
  satCnt : Nat
  deriving DecidableEq, Repr

def rdSeq (a : Who) (u : Bool) (va : Word) : Fol Seq := do
  let m ← rdMarked a u va 256
  let l := m.map (·.1)
  let f := fun (o n : Nat) => natAt l o n
  let w := fun (o : Nat) => BitVec.ofNat 64 (f o 8)
  let q : Seq :=
    { at_ := va, slot := bitsOf (f 0 8) 13 8, group := w 8, next := f 0x10 8, oldest := f 0x18 8, prefEnd := f 0x20 8
      path := w 0x28, npath := f 0x30 8 % 16, ring := w 0x38
      ringBad := ((m.drop 0x38).take 8).any (·.2), stage := w 0x40, snap := w 0x48
      snapSz := bitsOf (f 0x50 8) 47 16, snapN := bitsOf (f 0x50 8) 15 0, satCnt := f 0x58 8 }
  require (f 0 1 == 1 && bitsOf (f 0 8) 63 14 == 0 && f 0x30 8 / 16 == 0 && bitsOf (f 0x50 8) 63 48 == 0 &&
    q.snapSz % 64 == 0 && f 0x60 32 == 0 && f 0xC0 64 == 0 && va.toNat % 256 == 0) va
  return q

/-- The fields of a sequence record that the device writes. -/
def wrSeq (a : Who) (q : Seq) : Fol Unit := do
  wr a (off q.at_ 0x10) 8 q.next
  wr a (off q.at_ 0x18) 8 q.oldest
  wr a (off q.at_ 0x20) 8 q.prefEnd
  wr a (off q.at_ 0x30) 8 q.npath
  wrBad a (off q.at_ 0x38) 8 (q.ring.toNat, q.ringBad)
  wr a (off q.at_ 0x58) 8 q.satCnt

structure Node where
  start : Nat
  len : Nat
  table : Word
  tw : Nat
  ringMode : Bool
  deriving DecidableEq, Repr

def rdNode (a : Who) (u : Bool) (va : Word) : Fol Node := do
  let l ← rdBytes a u va 32
  let f := fun (o : Nat) => natAt l o 8
  let n : Node := ⟨f 0, f 8, BitVec.ofNat 64 (f 16), bitsOf (f 24) 28 16, (f 24).testBit 0⟩
  require (bitsOf (f 24) 63 29 == 0 && bitsOf (f 24) 15 1 == 0 && va.toNat % 64 == 0 &&
    (!n.ringMode || (decide (1 ≤ n.tw) && decide (n.tw ≤ 4096)))) va
  return n

/-- 12 R309: a head's part of the staging area. -/
structure Stage where
  next : Nat
  count : Nat
  kamax : Nat
  vamax : Nat
  deriving DecidableEq, Repr

def stageAt (q : Seq) (h : Nat) : Word := off q.stage (64 * h)
def rdStage (a : Who) (u : Bool) (q : Seq) (h : Nat) : Fol Stage := do
  let l ← rdBytes a u (stageAt q h) 64
  let f := fun (o n : Nat) => natAt l o n
  require (f 8 8 / 64 == 0 && decide (f 8 8 ≤ 32) && f 0x18 40 == 0) (stageAt q h)
  return ⟨f 0 8, f 8 1, f 16 4, f 20 4⟩
/-- A head's part written; `bad` says that the maximum of K, of V comes from poisoned rows (18 R411). -/
def wrStage (a : Who) (q : Seq) (h : Nat) (x : Stage) (bad : Bool × Bool := (false, false)) : Fol Unit :=
  wrMarked a (stageAt q h) (((bytesOfNat x.next 8 ++ bytesOfNat x.count 8).map fun b => (b, false)) ++
    ((bytesOfNat x.kamax 4).map fun b => (b, bad.1)) ++ (bytesOfNat x.vamax 4).map fun b => (b, bad.2))

/-- 12 R313: a pop; error 7 on an empty stack. -/
def popStack (a : Who) (st : Word) : Fol (Nat × Bool) := do
  let n ← rd a true st 8
  require (n != 0) st 7
  let x ← rdBad a true (off st (16 + 8 * (n - 1))) 8
  wr a st 8 (n - 1)
  return x
/-- 12 R313: a push; error 6 past the stack's capacity. -/
def pushStack (a : Who) (st : Word) (x : Nat × Bool) : Fol Unit := do
  let n ← rd a true st 8
  let cap ← rd a true (off st 8) 8
  require (decide (n < cap)) st
  wrBad a (off st (16 + 8 * n)) 8 x
  wr a st 8 (n + 1)

/-! ### Frames (12 R307) -/

def frameBytes (g : Group) : Nat := g.heads * 0x2000 + 0x400
def rowAt (e : Entry) (h j : Nat) (v : Bool) : Word := BitVec.ofNat 64 (e.frame + 0x2000 * h + (if v then 0x1000 else 0) + 128 * j)
def scaleAt (g : Group) (e : Entry) (h : Nat) : Word := BitVec.ofNat 64 (e.frame + 0x2000 * g.heads + 16 * h)
def stageRow (q : Seq) (h j : Nat) (v : Bool) : Word := off q.stage ((if v then 0x3000 else 0x1000) + 0x4000 * h + 256 * j)

/-- The scales of a head in a frame, and whether it is sealed. -/
def rdScale (a : Who) (u : Bool) (g : Group) (e : Entry) (h : Nat) : Fol (Nat × Nat × Bool) := do
  let x ← rd a u (scaleAt g e h) 16
  require (x / 2 ^ 65 == 0) (scaleAt g e h)
  return (bitsOf x 31 0, bitsOf x 63 32, x.testBit 64)
/-- The poison of the two scales. -/
def scalePoison (a : Who) (u : Bool) (g : Group) (e : Entry) (h : Nat) : Fol (Bool × Bool) := do
  return (← poisonOf a u (scaleAt g e h) 4, ← poisonOf a u (off (scaleAt g e h) 4) 4)
/-- The scales of a sealed head written, with their poison (09 R211). -/
def wrScale (a : Who) (g : Group) (e : Entry) (h k v : Nat) (bad : Bool × Bool) : Fol Unit :=
  wrMarked a (scaleAt g e h) ((bytesOfNat (k + 2 ^ 32 * v + 2 ^ 64) 16).mapIdx fun i b =>
    (b, (decide (i < 4) && bad.1) || (decide (4 ≤ i) && decide (i < 8) && bad.2)))

/-- 12 R322: the keys of the pages that `n` bytes touch. -/
def pagesOf (a : Who) (va : Word) (n : Nat) : Fol (List Nat) := do
  match ← pieces a false va n with
  | .inl l => return l.filterMap fun p => match p.1 with
    | .dev d x _ => some (d.toNat * regionSize + x / 65536 * 65536)
    | _ => none
  | .inr _ => return []

/-- The pin count of a page key is not 0. -/
def State.pinned (s : State) (k : Nat) : Bool := (s.die (BitVec.ofNat 2 (k / regionSize))).pins.any fun p => p.1 == k % regionSize

/-- 12 R323: a frame popped is zeroed, once no page of it is pinned. -/
def takeFrame (a : Who) (g : Group) : Fol (Nat × Bool) := do
  let x ← popStack a g.freeBlk
  require (x.1 % 8192 == 0) g.freeBlk
  let p ← pagesOf a (BitVec.ofNat 64 x.1) (frameBytes g)
  let s ← get
  if p.any s.pinned then stop .stall
  else
    wrZero a (BitVec.ofNat 64 x.1) (frameBytes g)
    return x

/-! ### Quantising (09 R244, 12 R318) -/

/-- The absolute value of a bf16 as f32 bits; none for a NaN. -/
def absBf (x : Nat) : Option Nat := if 0x7F80 < x % 0x8000 then none else some (x % 0x8000 * 65536)
/-- A running maximum over bf16 elements: f32 bits without a sign rise with the value. -/
def raiseMax (m : Nat) (l : List Nat) : Nat := l.foldl (fun m x => match absBf x with | some y => max m y | none => m) m

/-- 09 R244: the scale of a maximum. -/
def sealScale (amax : Nat) : Nat :=
  if amax == 0 || amax == 0x7F800000 then one32
  else (rne32 (fltDiv (decodeF 8 amax) (.fin false 448 0 false)).1).1

/-- 09 R244, 12 R318: an element quantised by a scale, and whether it saturated. -/
def quantise (scale x : Nat) : Nat × Bool :=
  let v := decodeF 9 x
  if v.isNaN then (0x7F, false)
  else
    let q := (fltDiv v (decodeF 8 scale)).1
    let r := roundF 11 .rne false q
    (r.1, (match q with | .inf _ => true | _ => false) || r.2 &&& fOF != 0)

/-- A row of 128 bf16 elements from its bytes. -/
def bfRow (l : List Byte) : List Nat := (List.range 128).map fun i => natAt l (2 * i) 2
/-- 09 R244: a row quantised: elements beyond the head dimension are 0. -/
def quantRow (g : Group) (scale : Nat) (l : List Nat) : List Byte × Nat :=
  let r := l.mapIdx fun i x => if i ≤ g.hdim then quantise scale x else (0, false)
  (r.map fun p => BitVec.ofNat 8 p.1, (r.filter (·.2)).length)

/-- The staging rows of a head. -/
def stageRows (a : Who) (u : Bool) (q : Seq) (h n : Nat) (v : Bool) : Fol (List (List Nat)) :=
  (List.range n).mapM fun j => do return bfRow (← rdBytes a u (stageRow q h j v) 256)

/-- The maximum over the elements that take part. -/
def rowsMax (g : Group) (l : List (List Nat)) : Nat := l.foldl (fun m r => raiseMax m (r.take (g.hdim + 1))) 0

/-! ### Resolving positions (12 R315) -/

structure Piece where
  e : Entry
  lo : Nat
  hi : Nat
  deriving DecidableEq, Repr

def ringAt (g : Group) (q : Seq) (b : Nat) : Word := off q.ring (16 * (b % g.w))

def nodeEntry (a : Who) (u : Bool) (n : Node) (b : Nat) : Fol (Option Entry) := do
  if n.ringMode then
    let e ← rdEntry a u (off n.table (16 * (b % n.tw)))
    return (if e.blkno == b then some e else none)
  else
    let k0 := n.start / 32
    if decide (k0 ≤ b) && decide (b - k0 < (n.start + n.len + 31) / 32 - k0) then
      return some (← rdEntry a u (off n.table (16 * (b - k0))))
    else return none

/-- The addresses of the path's nodes. -/
def pathNodes (a : Who) (u : Bool) (q : Seq) : Fol (List Nat) :=
  (List.range q.npath).mapM fun i => rd a u (off q.path (8 * i)) 8

/-- 12 R315: the pieces of the shared prefix. -/
def prefixPieces (a : Who) (u : Bool) (q : Seq) (b : Nat) : Fol (List Piece) := do
  let ns ← pathNodes a u q
  let ps ← ns.mapM fun x => do
    let n ← rdNode a u (BitVec.ofNat 64 x)
    match ← nodeEntry a u n b with
    | some e =>
      let lo := max e.lo (n.start - 32 * b)
      let hi := min e.fin (min (n.start + n.len - 32 * b) (q.prefEnd - 32 * b))
      return (if e.state != 0 && decide (lo < hi) then [(⟨e, lo, hi⟩ : Piece)] else [])
    | none => return []
  return ps.flatten

/-- 12 R315: ResolveBlock. -/
def resolveBlock (a : Who) (g : Group) (q : Seq) (h b : Nat) : Fol (List Piece) := do
  if b < g.nsink then
    let e ← rdEntry a false (off q.at_ (0x80 + 16 * b))
    return (if e.state == 0 then [] else [⟨e, e.lo, e.fin⟩])
  else
    let ps ← prefixPieces a false q b
    let e ← rdEntry a false (ringAt g q b)
    let st ← rdStage a false q h
    if e.state != 0 && e.blkno == b then
      let lo := max e.lo (max (q.prefEnd - 32 * b) (q.oldest - 32 * b))
      let hi := min e.fin (st.next - 32 * b)
      return (if lo < hi then ps ++ [⟨e, lo, hi⟩] else ps)
    else return ps

/-! ### KVWALK (12 R316) -/

/-- What a walked block sends: the entries of FA and FB. -/
structure WalkOut where
  fa : List FifoEntry
  fb : List FifoEntry
  deriving DecidableEq, Repr

/-- Whether one of the staging rows of a head that hold tokens is poisoned. -/
def stagePoison (a : Who) (u : Bool) (q : Seq) (h n : Nat) (v : Bool) : Fol Bool := do
  return ((← (List.range n).mapM fun j => poisonOf a u (stageRow q h j v) 256)).any id

/-- The scales of a piece: those of a sealed head, or those that sealing it would give, the third saying sealed; and
whether poisoned bytes gave them. -/
def pieceScale (a : Who) (g : Group) (q : Seq) (h : Nat) (p : Piece) : Fol ((Nat × Nat × Bool) × Bool × Bool) := do
  let x ← rdScale a false g p.e h
  if x.2.2 then return (x, ← scalePoison a false g p.e h)
  else
    let st ← rdStage a false q h
    let ks ← stageRows a false q h st.count false
    let vs ← stageRows a false q h st.count true
    return ((sealScale (rowsMax g ks), sealScale (rowsMax g vs), false),
      ← stagePoison a false q h st.count false, ← stagePoison a false q h st.count true)

/-- One row as its entry holds it, and its poison. -/
def walkRow (a : Who) (g : Group) (q : Seq) (h j : Nat) (v : Bool) (p : Piece) (sc : (Nat × Nat × Bool) × Bool × Bool) :
    Fol (Vec × Bool) := do
  let stored := sc.1.2.2
  let l ← rdMarked a false (if stored then rowAt p.e h j v else stageRow q h j v) (if stored then 128 else 256)
  let row := l.map (·.1)
  return (vecOf (if stored then row else (quantRow g (if v then sc.1.2.1 else sc.1.1) (bfRow row)).1) 0,
    l.any (·.2) || (!stored && (if v then sc.2.2 else sc.2.1)))

/-- 12 R322: the pages that a piece's rows touch in its frame, and in the staging area where its head is open. -/
def piecePages (a : Who) (q : Seq) (h : Nat) (v : Bool) (p : Piece) (stored : Bool) : Fol (List Nat) := do
  let l ← pagesOf a (rowAt p.e h p.lo v) (128 * (p.hi - p.lo))
  let m ← (if stored then pure [] else pagesOf a (stageRow q h p.lo v) (256 * (p.hi - p.lo)))
  return l ++ m

/-- 12 R316: WalkBlock: the entries of FA and FB for one block. Every page that the pieces and staging rows touch is
pinned, whichever of K and V is sent (12 R322); the last entry sent on each side holds the pins of its side. -/
def walkBlock (a : Who) (g : Group) (q : Seq) (id h b p1 : Nat) (va : Word) (sendK sendV : Bool) : Fol WalkOut := do
  let ps ← resolveBlock a g q h b
  let mk := fun (v : Vec) (bad : Bool) => (⟨v, bad, false, id, b, []⟩ : FifoEntry)
  match ps with
  | [] =>
    let kb := BitVec.ofNat 64 (32 * b)
    return ⟨[mk (BitVec.ofNat 2048 (one32 + 2 ^ 64 * kb.toNat)) false], [mk (BitVec.ofNat 2048 one32) false]⟩
  | p0 :: _ =>
    require ((ps.zip (ps.drop 1)).all fun x => x.1.hi == x.2.lo) va
    let scs ← ps.mapM (pieceScale a g q h)
    let sc := (scs.getD 0 ((0, 0, true), false, false)).1
    require (scs.all fun x => x.1.1 == sc.1 && x.1.2.1 == sc.2.1) va
    let kb := 32 * b + p0.lo
    let top := min ((ps.getLast?.getD p0).hi) (p1 - 32 * b)
    let valid := top - p0.lo
    let slots := (ps.zip scs).flatMap fun x => (List.range (x.1.hi - x.1.lo)).map fun i => (x.1.lo + i, x)
    let slots := slots.filter fun y => decide (y.1 < top)
    let ks ← slots.mapM fun y => walkRow a g q h y.1 false y.2.1 y.2.2
    let vs ← slots.mapM fun y => walkRow a g q h y.1 true y.2.1 y.2.2
    let pk := (← (ps.zip scs).mapM fun x => piecePages a q h false x.1 x.2.1.2.2).flatten
    let pv := (← (ps.zip scs).mapM fun x => piecePages a q h true x.1 x.2.1.2.2).flatten
    let close := fun (l : List FifoEntry) (pins : List Nat) =>
      l.mapIdx fun i e => if i + 1 == l.length then { e with pins := pins } else e
    let headA := mk (BitVec.ofNat 2048 (sc.1 + 2 ^ 64 * (kb % 2 ^ 64) + 2 ^ 128 * valid)) (scs.any fun x => x.2.1)
    let headB := mk (BitVec.ofNat 2048 sc.2.1) (scs.any fun x => x.2.2)
    return ⟨close (headA :: ks.map fun r => mk r.1 r.2) (if sendV then pk else pk ++ pv),
      close (headB :: vs.map fun r => mk r.1 r.2) (if sendK then pv else pk ++ pv)⟩

/-! ### KVSEAL and KVAPPEND -/

/-- 12 R317: SealHead, for a head that has tokens. -/
def sealHead (a : Who) (g : Group) (q : Seq) (h : Nat) : Fol Unit := do
  let st ← rdStage a true q h
  if st.count == 0 then pure ()
  else
    let b := (st.next - 1) / 32
    let e ← rdEntry a true (ringAt g q b)
    require (e.state != 0 && e.blkno == b) q.at_
    let ks ← stageRows a true q h st.count false
    let vs ← stageRows a true q h st.count true
    let sk := sealScale (rowsMax g ks)
    let sv := sealScale (rowsMax g vs)
    let badK ← stagePoison a true q h st.count false
    let badV ← stagePoison a true q h st.count true
    let rows := fun (l : List (List Nat)) (sc : Nat) (bad : Bool) =>
      (l.flatMap fun r => (quantRow g sc r).1.map fun x => (x, bad)) ++ (pad (128 * (32 - st.count))).map fun x => (x, false)
    wrMarked a (rowAt e h 0 false) (rows ks sk badK)
    wrMarked a (rowAt e h 0 true) (rows vs sv badV)
    wrScale a g e h sk sv (badK, badV)
    wrStage a q h { st with count := 0, kamax := 0, vamax := 0 }
    let sealed ← (List.range g.heads).mapM fun k => rdScale a true g e k
    if sealed.all fun x => x.2.2 then wrEntry a (ringAt g q b) { e with state := 2 } else pure ()

/-- 12 R317: the lowest NEXT over the heads. -/
def minNext (a : Who) (g : Group) (q : Seq) : Fol Nat := do
  let l ← (List.range g.heads).mapM fun h => rdStage a true q h
  return (l.map (·.next)).foldl min ((l.head?.map (·.next)).getD 0)

/-- 12 R317: a new ring entry of block `b` for its first token: the oldest window block may be evicted. -/
def openBlock (a : Who) (g : Group) (q : Seq) (b : Nat) (e : Entry) : Fol (Seq × Entry) := do
  let n ← rd a true g.freeBlk 8
  require (n != 0) g.freeBlk 7
  let q' : Seq := if e.state != 0 then { q with oldest := max q.oldest (32 * (e.blkno + 1)) } else q
  if e.state != 0 then pushStack a g.freeBlk (e.frame, e.bad) else pure ()
  let f ← takeFrame a g
  return (q', ⟨f.1, b, 0, 0, 1, f.2⟩)

/-- 12 R317: Append. -/
def kvAppend (a : Who) (va : Word) (h pos : Nat) (k v : List Nat) : Fol Unit := do
  let q ← rdSeq a true va
  let g ← rdGroup a true q.group
  require (!g.ro) va 1
  require (decide (h < g.heads)) va
  let st ← rdStage a true q h
  require (pos == st.next) va
  let b := pos / 32
  let j := pos % 32
  if st.count == 32 then sealHead a g q h else pure ()
  let st ← rdStage a true q h
  let e ← rdEntry a true (ringAt g q b)
  let fresh := e.state == 0 || e.blkno != b
  require (!fresh || j == 0) va
  let t ← (if fresh then openBlock a g q b e else pure (q, e))
  let q := t.1
  let e := t.2
  let sc ← rdScale a true g e h
  let sat ← (if sc.2.2 then do
      let rk := quantRow g sc.1 k
      let rv := quantRow g sc.2.1 v
      let bad ← scalePoison a true g e h
      wrMarked a (rowAt e h j false) (rk.1.map fun x => (x, bad.1))
      wrMarked a (rowAt e h j true) (rv.1.map fun x => (x, bad.2))
      wrStage a q h { st with next := pos + 1 }
      pure (rk.2 + rv.2)
    else do
      wrBytes a (stageRow q h j false) (wordsBytes 2 k)
      wrBytes a (stageRow q h j true) (wordsBytes 2 v)
      wrStage a q h ⟨pos + 1, j + 1, raiseMax st.kamax (k.take (g.hdim + 1)), raiseMax st.vamax (v.take (g.hdim + 1))⟩
      pure 0)
  wrEntry a (ringAt g q b) { e with fin := max e.fin (j + 1) }
  let n ← minNext a g q
  wrSeq a { q with next := n, satCnt := (q.satCnt + sat) % 2 ^ 64 }

/-- 09 R244: KVSEAL. -/
def kvSeal (a : Who) (va : Word) (all : Bool) (sB : Word) : Fol Unit := do
  let q ← rdSeq a true va
  let g ← rdGroup a true q.group
  require (!g.ro) va 1
  if all then
    require (sB == 0) va
    discard ((List.range g.heads).mapM (sealHead a g q))
  else
    let h := (sB.extractLsb' 0 16).toNat
    require (decide (h < g.heads)) va
    sealHead a g q h

/-! ### KVTRUNC (12 R319 to R321) -/

/-- 12 R319: a sealed continuation entry of block `b` from slot `j`, with scales for every head. -/
def continuation (a : Who) (g : Group) (q : Seq) (b j : Nat) (from_ : Entry) : Fol Unit := do
  let f ← takeFrame a g
  let e : Entry := ⟨f.1, b, j, j, 2, f.2⟩
  discard ((List.range g.heads).mapM fun h => do
    let x ← rdScale a true g from_ h
    wrScale a g e h x.1 x.2.1 (← scalePoison a true g from_ h))
  wrEntry a (ringAt g q b) e

/-- 12 R321: the snapshot selected, as position and address; headers past the cursor lose VALID. -/
def snapshots (a : Who) (q : Seq) (c : Nat) : Fol (Nat × Nat) := do
  let l ← (List.range q.snapN).mapM fun m => do
    let at_ := off q.snap (m * (64 + q.snapSz))
    let pos ← rd a true at_ 8
    let x ← rd a true (off at_ 8) 56
    require (x / 2 == 0) at_
    let fl := x % 2
    if fl.testBit 0 && decide (c < pos) then
      wr a (off at_ 8) 1 (fl - 1)
      return none
    else return (if fl.testBit 0 then some (pos, at_.toNat) else none)
  return (l.filterMap id).foldl (fun best x => if best.1 == 2 ^ 64 - 1 || decide (best.1 < x.1) then x else best) (2 ^ 64 - 1, 0)

/-- 12 R319: Truncate; the bytes of the result record. -/
def kvTrunc (a : Who) (va : Word) (c : Nat) : Fol (List Byte) := do
  let q0 ← rdSeq a true va
  let g ← rdGroup a true q0.group
  require (!g.ro) va 1
  require (decide (c ≤ q0.next) && !(decide (q0.prefEnd < c) && decide (c < q0.oldest))) va
  let b := c / 32
  let j := c % 32
  let shared ← prefixPieces a true q0 b
  let sts ← (List.range g.heads).mapM fun h => rdStage a true q0 h
  -- the path
  let q ← (if c < q0.prefEnd then do
      let ns ← pathNodes a true q0
      let keep ← ns.filterM fun x => do
        let n ← rdNode a true (BitVec.ofNat 64 x)
        return decide (n.start < c)
      discard (keep.zipIdx.mapM fun x => wr a (off q0.path (8 * x.2)) 8 x.1)
      pure { q0 with npath := keep.length, prefEnd := c }
    else pure q0)
  -- whole blocks at or past the cursor
  let gone ← (List.range g.w).mapM fun i => do
    let e ← rdEntry a true (off q.ring (16 * i))
    if e.state != 0 && decide (c ≤ 32 * e.blkno + e.lo) then
      pushStack a g.freeBlk (e.frame, e.bad)
      wrEntry a (off q.ring (16 * i)) { e with state := 0 }
      return 1
    else return 0
  let returned := gone.foldl (· + ·) 0
  let e ← rdEntry a true (ringAt g q b)
  let priv := j != 0 && e.state != 0 && e.blkno == b
  if priv then wrEntry a (ringAt g q b) { e with fin := j } else pure ()
  let r ← (if j != 0 && !priv && decide (c < q0.prefEnd) then do
      match shared.find? fun p => decide (p.lo < j) && decide (j ≤ p.hi) with
      | none => stop (.err 6 va)
      | some p =>
        let r ← (if e.state != 0 then do
            pushStack a g.freeBlk (e.frame, e.bad)
            pure ({ q with oldest := max q.oldest (32 * (e.blkno + 1)) }, returned + 1)
          else pure (q, returned))
        continuation a g r.1 b j p.e
        pure r
    else pure (q, returned))
  let q := r.1
  -- the heads
  discard (sts.zipIdx.mapM fun x => do
    let st := x.1
    let ob := (st.next - 1) / 32
    if st.count != 0 && decide (c ≤ 32 * ob) then wrStage a q x.2 ⟨c, 0, 0, 0⟩
    else if st.count != 0 && ob == b && priv && decide (j < st.count) then do
      let ks ← stageRows a true q x.2 j false
      let vs ← stageRows a true q x.2 j true
      wrStage a q x.2 ⟨c, j, rowsMax g ks, rowsMax g vs⟩ (← stagePoison a true q x.2 j false, ← stagePoison a true q x.2 j true)
    else wrStage a q x.2 { st with next := c })
  wrSeq a { q with next := c, oldest := min q.oldest c }
  let sn ← snapshots a q c
  return bytesOfNat sn.1 8 ++ bytesOfNat sn.2 8 ++ bytesOfNat (if j == 0 then 32 else j) 4 ++ bytesOfNat r.2 4 ++ pad 8

/-! ### BMAP (12 R325) -/

/-- The address of a slot's sequence record. -/
def slotSeq (a : Who) (u : Bool) (g : Group) (t : Nat) : Fol Seq := do
  rdSeq a u (BitVec.ofNat 64 (← rd a u (off g.seqtab (8 * t)) 8))

/-- 12 R325: Continue, with the entry of the node's last block. -/
def continueSeq (a : Who) (g : Group) (q : Seq) (last : Entry) : Fol Unit :=
  if q.next % 32 == 0 then pure () else continuation a g q (q.next / 32) (q.next % 32) last

/-- A window ring from the free stack, every entry empty. -/
def takeRing (a : Who) (g : Group) : Fol (Word × Bool) := do
  let r ← popStack a g.freeRing
  wrZero a (BitVec.ofNat 64 r.1) (16 * g.w)
  return (BitVec.ofNat 64 r.1, r.2)

/-- 12 R325: one clone of a forked sequence in slot `t`. -/
def cloneSeq (a : Who) (g : Group) (q : Seq) (t : Nat) (last : Entry) : Fol Unit := do
  let old ← slotSeq a true g t
  let ring ← takeRing a g
  let n : Seq := { q with
    at_ := old.at_, slot := t, ring := ring.1, ringBad := ring.2, stage := old.stage, snap := old.snap, snapSz := old.snapSz,
    snapN := old.snapN, satCnt := 0 }
  let body ← rdMarked a true q.at_ 256
  wrMarked a old.at_ body
  wr a (off old.at_ 0) 8 (1 + 256 * t)
  wr a (off old.at_ 0x40) 8 n.stage.toNat
  wr a (off old.at_ 0x48) 8 n.snap.toNat
  wr a (off old.at_ 0x50) 8 (n.snapN + 2 ^ 16 * n.snapSz)
  wrSeq a n
  discard ((List.range g.heads).mapM fun h => do
    let st ← rdStage a true q h
    wrStage a n h ⟨st.next, 0, 0, 0⟩)
  continueSeq a g n last

/-- 12 R325: the fork of slot `sl`, which the beams `who` continue; the slots that its clones take are the first of
`free`. What is left of `free`, and the slot of each beam. -/
def forkSlot (a : Who) (g : Group) (sl : Nat) (who free : List Nat) : Fol (List Nat × List (Nat × Nat)) := do
  let q ← slotSeq a true g sl
  discard ((List.range g.heads).mapM (sealHead a g q))
  let node ← popStack a g.freeNode
  let na : Word := BitVec.ofNat 64 node.1
  wr a na 8 q.prefEnd
  wr a (off na 8) 8 (q.next - q.prefEnd)
  wrBad a (off na 16) 8 (q.ring.toNat, q.ringBad)
  wr a (off na 24) 8 (1 + 2 ^ 16 * g.w)
  require (decide (q.npath < 15)) q.at_
  wrBad a (off q.path (8 * q.npath)) 8 node
  let last ← rdEntry a true (ringAt g q (q.next / 32))
  require (q.next % 32 == 0 || (last.state != 0 && last.blkno == q.next / 32)) q.at_
  let ring ← takeRing a g
  let q' : Seq := { q with npath := q.npath + 1, prefEnd := q.next, ring := ring.1, ringBad := ring.2 }
  wrSeq a q'
  continueSeq a g q' last
  let clones := who.drop 1
  discard ((clones.zip free).mapM fun x => cloneSeq a g q' x.2 last)
  return (free.drop clones.length, (who.take 1).map (fun i => (i, sl)) ++ clones.zip free)

/-- 12 R325, R313: the entries of a stack. -/
def stackCount (a : Who) (st : Word) : Fol Nat := rd a true st 8

/-- 12 R325: the free stacks cover every fork and clone, which comes before all else: a node for each fork, a ring for each
fork and each clone, and a frame for the continuation entry of each. Frames that the step itself returns come later. -/
def coversForks (a : Who) (g : Group) (forks : List (Nat × Nat)) : Fol Unit := do
  let open_ ← forks.mapM fun x => do
    let q ← slotSeq a true g x.1
    return (if q.next % 32 == 0 then 0 else x.2)
  let sum := fun (l : List Nat) => l.foldl (· + ·) 0
  let nodes ← stackCount a g.freeNode
  let rings ← stackCount a g.freeRing
  let frames ← stackCount a g.freeBlk
  require (decide (forks.length ≤ nodes)) g.freeNode 7
  require (decide (sum (forks.map (·.2)) ≤ rings)) g.freeRing 7
  require (decide (sum open_ ≤ frames)) g.freeBlk 7

/-- 12 R325: the forks of the slots, one after the other. -/
def forkAll (a : Who) (g : Group) (map : List Nat) : List Nat → List Nat → Fol (List (Nat × Nat))
  | [], _ => pure []
  | sl :: r, free => do
    let who := (List.range map.length).filter fun i => map.getD i 0xFF == sl
    if who.length ≤ 1 then
      let rest ← forkAll a g map r free
      return who.map (fun i => (i, sl)) ++ rest
    else
      let t ← forkSlot a g sl who free
      let rest ← forkAll a g map r t.1
      return t.2 ++ rest

/-- 12 R325: Bmap. -/
def kvBmap (a : Who) (va : Word) (v : Vec) (n : Nat) : Fol Unit := do
  let g ← rdGroup a true va
  require (!g.ro) va 1
  require (decide (1 ≤ n) && decide (n ≤ 64)) va
  let map := (List.range n).map fun i => vbits v (8 * i + 7) (8 * i)
  require (map.all fun x => x == 0xFF || (decide (x < 64) && g.live.testBit x)) va
  let named := (List.range 64).filter fun t => map.contains t
  let free := (List.range 64).filter fun t => !map.contains t
  let dropped := free.filter fun t => g.live.testBit t
  let rings ← dropped.mapM fun t => do
    let q ← slotSeq a true g t
    return (q.ring, q.ringBad)
  let users := named.map fun t => (t, ((List.range n).filter fun i => map.getD i 0xFF == t).length)
  coversForks a g (users.filter fun x => decide (2 ≤ x.2))
  let taken ← forkAll a g map named free
  discard (rings.mapM fun ring => do
    discard ((List.range g.w).mapM fun i => do
      let e ← rdEntry a true (off ring.1 (16 * i))
      if e.state != 0 then
        pushStack a g.freeBlk (e.frame, e.bad)
        wrEntry a (off ring.1 (16 * i)) { e with state := 0 }
      else pure ())
    pushStack a g.freeRing (ring.1.toNat, ring.2))
  let beam := fun (i : Nat) => ((taken.find? fun x => x.1 == i).map (·.2)).getD 0xFF
  wrBytes a (off va 0x40) ((List.range 64).map fun i => BitVec.ofNat 8 (if i < n then beam i else 0xFF))
  wr a (off va 0x80) 8 (((taken.map (·.2)).eraseDups).foldl (fun m t => m + 2 ^ t) 0)
  wr a (off va 2) 1 n

/-! ### The folio walker at work -/

/-- For whom a command of an engine works. -/
def State.who (s : State) (c : CoreRef) (m : Command) : Who :=
  let st := s.cmdStream c m
  ⟨.unit c m.id, st.asid, c.die, st.tenant, .eng (m.ref c) m.eng, m.path, (s.ctx c m.ctx).coreIdx⟩

/-- 18 R393: the answers that a step has read are done with; its own writes go out. -/
def State.dropAnswers (s : State) (who : Sender) : State :=
  { s with packets := s.packets.filter fun p => p.who != who || p.wr || p.phase == .sent }

/-- A folio step of a command: an error stops it, a page is brought home, a packet asks another package, or the effects are
those of the step. A command whose writes to another package are under way makes no further step. -/
def State.folioStep {α : Type} (s : State) (c : CoreRef) (m : Command) (f : Fol α) (k : α → State → State) : State :=
  if s.packets.any fun p => p.who == .unit c m.id && p.wr then s
  else
    match f s with
    | .ok (x, t) => k x (t.dropAnswers (.unit c m.id))
    | .error (.err code va) => s.failCmd c m code va
    | .error (.held va need) => s.bringHome c m.ctx va need m.id
    | .error (.ask va) =>
      let st := s.cmdStream c m
      s.sendPacket c.die (.unit c m.id) st.tenant st.asid va false []
    | .error .stall => s

/-- 09 R242: the sequence a KVWALK walks, found as it starts. -/
def walkTarget (a : Who) (m : Command) : Fol Word := do
  let w2 := vword m.desc 16
  if w2.testBit 8 then
    let g ← rdGroup a false m.sA
    let slot := g.beams.getD (bitsOf w2 7 0) 0xFF
    require (decide (bitsOf w2 7 0 < g.nbeam) && decide (slot < 64)) m.sA
    return BitVec.ofNat 64 (← rd a false (off g.seqtab (8 * slot)) 8)
  else return m.sA

/-- 12 R316: the next block of a KVWALK, with its record and pins. -/
def walkNext (a : Who) (m : Command) (sendK sendV : Bool) : Fol WalkOut := do
  let h := (m.sB.extractLsb' 0 16).toNat
  let q ← rdSeq a false m.sA
  let g ← rdGroup a false q.group
  require (decide (h < g.heads)) m.sA
  walkBlock a g q m.id h (vword m.desc 0 / 32 + m.pos) (vword m.desc 8) m.sA sendK sendV

/-- The entries fetched go into the FIFOs while there is room. -/
def State.pushWalk (s : State) (c : CoreRef) (m : Command) (last : Bool) : State :=
  let k := s.core c
  let na := 16 - k.fa.length
  let nb := 16 - k.fb.length
  let m' := { m with outA := m.outA.drop na, outB := m.outB.drop nb }
  let s := s.modCore c fun k => { k with fa := k.fa ++ m.outA.take na, fb := k.fb ++ m.outB.take nb }
  s.setCmd c { m' with done := last && m'.outA.isEmpty && m'.outB.isEmpty }

/-- KVWALK at work: the entries fetched are pushed; when all are, the next block is fetched and its pages pinned. -/
def State.burstKvwalk (s : State) (c : CoreRef) (m : Command) : State :=
  let f := fcOf m.instr
  let st := s.cmdStream c m
  let total := (vword m.desc 8 - 1) / 32 - vword m.desc 0 / 32 + 1
  if !m.outA.isEmpty || !m.outB.isEmpty then s.pushWalk c m (decide (total ≤ m.pos))
  else if total ≤ m.pos then s.finishCmd c m
  else if !s.inTurn c.die st.tenant then s
  else
    s.folioStep c m (walkNext (s.who c m) m (f.tag.getLsbD 0) (f.tag.getLsbD 1)) fun (x : WalkOut) (s : State) =>
      let m' : Command := { m with
        pos := m.pos + 1
        outA := if f.tag.getLsbD 0 then x.fa.map fun (e : FifoEntry) => { e with idx := m.pos } else []
        outB := if f.tag.getLsbD 1 then x.fb.map fun (e : FifoEntry) => { e with idx := m.pos } else [] }
      let s := ((m'.outA ++ m'.outB).flatMap (·.pins)).foldl
        (fun s k => s.addPin (BitVec.ofNat 2 (k / regionSize)) (k % regionSize)) s
      s.setCmd c m'

/-- KVAPPEND, KVSEAL, KVTRUNC and BMAP at work: one step. -/
def State.burstFolio (s : State) (c : CoreRef) (m : Command) : State :=
  let st := s.cmdStream c m
  if !s.inTurn c.die st.tenant then s
  else
    match m.instr with
    | .kvappend _ _ =>
      s.folioStep c m (kvAppend (s.who c m) m.sA (m.sB.extractLsb' 0 16).toNat (m.sB.extractLsb' 16 48).toNat
        ((lanes 16 m.desc).take 128) ((lanes 16 m.part).take 128)) fun _ s => s.finishCmd c m
    | .kvseal _ f => s.folioStep c m (kvSeal (s.who c m) m.sA (f.tag.getLsbD 0) m.sB) fun _ s => s.finishCmd c m
    | .kvtrunc _ _ =>
      s.folioStep c m (kvTrunc (s.who c m) m.sA m.sB.toNat) fun l s =>
        let k := spadKey c.die c.core m.desc.toNat
        ((s.recordEngine c m (.spad k) 32 true false).storeAt k l).finishCmd c m
    | _ => s.folioStep c m (kvBmap (s.who c m) m.sA m.desc (m.sB.extractLsb' 0 7).toNat) fun _ s => s.finishCmd c m

end Sys2Proof.Machine
end

