-- ==== Sys2Proof/Machine/StreamBlock.lean ====
section
/-! DEFINITION. Stream blocks (09 R247 to R249, 13 R327 to R333): each instruction is a command that blocks its
context until its one step at the block's home die is done. -/
namespace Sys2Proof.Machine

/-- The slice waits for the stream instruction it has just issued. -/
def State.blockOnStream (s : State) : State :=
  let w := Wait.strm (s.nextId - 1)
  s.modCx fun c => if s.cur.acc then { c with waitA := w } else { c with waitX := w }

/-- The predicate and the scalar that a stream instruction writes. -/
def strmRegs (i : Instr) : List Reg :=
  match i with
  | .strmcommit _ f => [.p (f.path.setWidth 4), .s f.b]
  | .strmin _ f => [.p (f.path.setWidth 4)]
  | _ => []

/-- The registers that a stream instruction writes are pending on the scoreboard (04 R100, R102). -/
def State.scoreStream (s : State) (l : List Reg) : State :=
  s.modCx fun c => { c with
    score := c.score ++ l.map fun r => (⟨s.nextId - 1, r⟩ : Score)
    wrote := if c.decoupled then c.wrote ++ l.map fun r => ⟨s.cur.acc, r⟩ else c.wrote }

def State.issueStream (s : State) (h : Head) (f : FC) (i : Instr) : State :=
  ((s.enqueueCommand h f i).blockOnStream).scoreStream (strmRegs i)

/-- STRMRD (09 R247). -/
def execStrmrd (h : Head) (f : FC) : State → Out := slotOpC h (.strmrd h f) fun s => s.issueStream h f (.strmrd h f)
/-- STRMCOMMIT (09 R248). -/
def execStrmcommit (h : Head) (f : FC) : State → Out := slotOpC h (.strmcommit h f) fun s => s.issueStream h f (.strmcommit h f)
/-- STRMIN (09 R249). -/
def execStrmin (h : Head) (f : FC) : State → Out := slotOpC h (.strmin h f) fun s => s.issueStream h f (.strmin h f)

/-! ### The block, frames and delivery entries -/

structure Block where
  cancel : Bool
  dlog : Nat
  ilog : Nat
  g : Nat
  floor : Nat
  inHead : Nat
  inTail : Nat
  dHead : Nat
  cack : Bool
  held : Bool
  dTail : Nat
  inRing : Word
  dRing : Word
  deriving DecidableEq, Repr

def mod48 (x : Nat) : Nat := x % 2 ^ 48
/-- Entries in the delivery ring. -/
def Block.pending (b : Block) : Nat := mod48 (b.dTail + 2 ^ 48 - mod48 b.dHead)
/-- Frames accepted and not pulled. -/
def Block.frames (b : Block) : Nat := (b.inTail + 2 ^ 64 - b.inHead) % 2 ^ 64

/-- 13 R330: a block with its checks: a malformed one is error 10. -/
def rdBlock (a : Who) (va : Word) : Fol Block := do
  require (va.toNat % 256 == 0) va 10
  let l ← rdBytes a true va 256
  let f := fun (o : Nat) => natAt l o 8
  let x := f 0
  let b : Block :=
    { cancel := x.testBit 32, dlog := bitsOf x 20 16, ilog := bitsOf x 10 8, g := f 8, floor := f 0x18, inHead := f 0x20
      inTail := f 0x28, dHead := f 0x30, cack := (f 0x38).testBit 63, held := (f 0x38).testBit 62, dTail := bitsOf (f 0x38) 47 0
      inRing := BitVec.ofNat 64 (f 0x40), dRing := BitVec.ofNat 64 (f 0x48) }
  require (bitsOf x 7 0 == 1 && bitsOf x 63 33 == 0 && bitsOf x 31 21 == 0 && bitsOf x 15 11 == 0 &&
    bitsOf (f 0x38) 61 48 == 0 && natAt l 0x50 176 == 0 && decide (b.ilog ≤ 6) && decide (5 ≤ b.dlog) &&
    decide (b.dlog ≤ 16) && decide (b.frames ≤ 2 ^ b.ilog) && decide (b.pending ≤ 2 ^ b.dlog)) va 10
  return b

/-- The words that the device writes. -/
def wrBlock (a : Who) (va : Word) (b : Block) : Fol Unit := do
  wr a (off va 8) 8 b.g
  wr a (off va 0x20) 8 b.inHead
  wr a (off va 0x38) 8 (b.dTail + (if b.held then 2 ^ 62 else 0) + (if b.cack then 2 ^ 63 else 0))

/-- Bytes of a ring, which may lie in host space, with their poison. -/
def rdRing (a : Who) (va : Word) (n : Nat) : Fol (List (Byte × Bool)) := do
  rdPieces a va n (← reachPieces a 1 va n true false)

def wrRing (a : Who) (va : Word) (l : List Byte) : Fol Unit := do
  wrPieces a va (l.map fun b => (b, false)) (← reachPieces a 2 va l.length false true)

/-- 13 R328: a frame record with its checks. -/
structure Frame where
  bytes : List (Byte × Bool)
  seqno : Nat
  anchor : Nat
  ntok : Nat
  isVoid : Bool
  deriving DecidableEq, Repr

def rdFrame (a : Who) (va : Word) (b : Block) (i : Nat) : Fol Frame := do
  let l ← rdRing a (off b.inRing (256 * (i % 2 ^ b.ilog))) 256
  let f := fun (o n : Nat) => natAt (l.map (·.1)) o n
  require (decide (f 0x10 4 ≤ 48) && decide (f 0x14 4 < 2) && f 0x28 24 == 0) va 10
  return ⟨l, f 0 8, f 8 8, f 0x10 4, f 0x14 4 == 1⟩

def entryAddr (b : Block) (i : Nat) : Word := off b.dRing (16 * (i % 2 ^ b.dlog))

/-! ### The steps -/

/-- 13 R332: some frame, of those numbered in the list, anchors at or before a position. -/
def anchored (a : Who) (va : Word) (b : Block) (pos : Nat) : List Nat → Fol Bool
  | [] => pure false
  | k :: r => do
    let f ← rdFrame a va b (b.inHead + k)
    if !f.isVoid && decide (f.anchor ≤ pos) then pure true else anchored a va b pos r

/-- 13 R332: StrmCommit: the predicate and the reason. -/
def strmCommit (a : Who) (va : Word) (v : Vec) : Fol (Bool × Nat) := do
  let b ← rdBlock a va
  let n := vbits v 63 0
  let cnt := vbits v 95 64
  if b.cancel then
    wrBlock a va { b with cack := true }
    return (false, 3)
  else if n != b.g then return (false, 4)
  else if ← anchored a va b (n + (cnt - 1)) (List.range b.frames) then return (false, 1)
  else if 2 ^ b.dlog < b.pending + cnt then
    wrBlock a va { b with held := true }
    return (false, 2)
  else
    discard ((List.range cnt).mapM fun k =>
      wrRing a (entryAddr b (b.dTail + k))
        (bytesOfNat (n + k) 8 ++ bytesOfNat (vbits v (1024 + 32 * k + 31) (1024 + 32 * k)) 4 ++ bytesOfNat b.inHead 4))
    wrBlock a va { b with dTail := mod48 (b.dTail + cnt), g := (n + cnt) % 2 ^ 64, held := false }
    return (true, 0)

/-- 13 R333: the delivery entries at or past a position are withdrawn, newest first: how many. -/
def withdrawFrom (a : Who) (b : Block) (pos : Nat) : Nat → Nat → Fol Nat
  | 0, w => pure w
  | fuel + 1, w => do
    let l ← rdRing a (entryAddr b (mod48 (b.dTail + 2 ^ 48 - (w + 1)))) 16
    if decide (pos ≤ natAt (l.map (·.1)) 0 8) then withdrawFrom a b pos fuel (w + 1) else pure w

/-- What a STRMIN comes to: no frame, a late one, or a record. -/
inductive InResult where
  | empty
  | late (seqno : Nat)
  | record (l : List (Byte × Bool))
  deriving DecidableEq, Repr

/-- 13 R333: StrmIn. -/
def strmIn (a : Who) (va : Word) : Fol InResult := do
  let b ← rdBlock a va
  if b.inHead == b.inTail then return .empty
  else
    let f ← rdFrame a va b b.inHead
    if !f.isVoid && decide (f.anchor < b.floor) then return .late f.seqno
    else
      let at_ := min f.anchor b.g
      let w ← (if f.isVoid then pure 0 else withdrawFrom a b at_ b.pending 0)
      let b' : Block := if f.isVoid then b
        else { b with dTail := mod48 (b.dTail + 2 ^ 48 - w), g := (at_ + f.ntok) % 2 ^ 64 }
      wrBlock a va { b' with inHead := (b.inHead + 1) % 2 ^ 64 }
      let mine := (bytesOfNat (if f.isVoid then b.g else at_) 8 ++ bytesOfNat w 8).map fun x => (x, false)
      return .record (f.bytes.take 0x18 ++ mine ++ f.bytes.drop 0x28)

/-- 09 R247: STRMRD: the header. -/
def strmRead (a : Who) (va : Word) : Fol (List (Byte × Bool)) := do
  let _ ← rdBlock a va
  rdMarked a true va 64

/-- A stream instruction's registers land as its context unblocks; it is an acquire (10 R256). -/
def State.landStream (s : State) (c : CoreRef) (m : Command) (l : List (Reg × Nat)) : State :=
  (s.modCtx c m.ctx fun x => (l.foldl (fun x p => x.landScore m.id p.1 (BitVec.ofNat 2048 p.2) allBits) x).acquired s.time).finishCmd c m

/-- A stream instruction's step. It waits for the earlier results of its registers (04 R102). -/
def State.burstStream (s : State) (c : CoreRef) (m : Command) : State :=
  let st := s.cmdStream c m
  let f := fcOf m.instr
  let pN : Reg := .p (f.path.setWidth 4)
  let key := spadKey c.die c.core (m.sB.toNat % 2 ^ 20)
  if !s.inTurn c.die st.tenant || (strmRegs m.instr).any ((s.ctx c m.ctx).awaits m.id) then s
  else
    match m.instr with
    | .strmrd _ _ =>
      s.folioStep c m (strmRead (s.who c m) m.sA) fun l s =>
        ((s.recordEngine c m (.spad key) 64 true false).storeMarked key l).landStream c m []
    | .strmcommit _ _ =>
      s.folioStep c m (strmCommit (s.who c m) m.sA m.desc) fun r s =>
        s.landStream c m [(pN, r.1.toNat), (.s f.b, r.2)]
    | _ =>
      s.folioStep c m (strmIn (s.who c m) m.sA) fun r s =>
        match r with
        | .empty => s.landStream c m [(pN, 0)]
        | .record l => ((s.recordEngine c m (.spad key) 256 true false).storeMarked key l).landStream c m [(pN, 1)]
        | .late n =>
          (s.modCtx c m.ctx fun x => { x with
            reports := x.reports ++ [⟨m.id, m.acc, m.bundle, 0, m.handler, ⟨0x115, 6, m.sA, BitVec.ofNat 64 (n % 2 ^ 32 * 2 ^ 32)⟩, 0, 0⟩] }).finishCmd c m

end Sys2Proof.Machine
end

