-- ==== Sys2Proof/Machine/Commands.lean ====
section
/-! DEFINITION. Engine commands from their start to their completion (09 R229 to R231, R234, 08 R199), and arriving
link packets (09 R225, R238). -/
namespace Sys2Proof.Machine

/-- 09 R229: two commands of a die's cores are of one engine: a core's own, or one bulk copy engine of the die. -/
def State.sameEngine (s : State) (c : CoreRef) (m : Command) (d : CoreRef) (n : Command) : Bool :=
  m.eng == n.eng && c.die == d.die &&
  (if m.eng == .bce then (s.ctx c m.ctx).bce == (s.ctx d n.ctx).bce else c.core == d.core)

/-- The commands of a die's cores, with their cores. -/
def State.dieCmds (s : State) (d : BitVec 2) : List (CoreRef × Command) :=
  s.cores.flatMap fun e =>
    if e.1 / 256 == d.toNat then e.2.cmds.map fun m => (⟨d, BitVec.ofNat 8 e.1⟩, m) else []

/-- 09 R229, R231: the commands of an engine. -/
def State.engineQueue (s : State) (c : CoreRef) (m : Command) : List (CoreRef × Command) :=
  (s.dieCmds c.die).filter fun e => s.sameEngine c m e.1 e.2

/-- 01 R36, 17 R372: the COPY commands of the host's queues that a bulk copy engine of a die has accepted. -/
def State.bulkCopies (s : State) (d : BitVec 2) (k : BitVec 3) : List QCmd :=
  (s.die d).qcmds.filter fun m => m.bce == some k

/-- The commands of cores that a bulk copy engine has accepted. -/
def State.bulkCmds (s : State) (d : BitVec 2) (k : BitVec 3) : List (CoreRef × Command) :=
  (s.dieCmds d).filter fun e => e.2.eng == .bce && (s.ctx e.1 e.2.ctx).bce == k

/-- 09 R229: a bulk copy engine has room for a command. -/
def State.bulkRoom (s : State) (d : BitVec 2) (k : BitVec 3) : Bool :=
  decide ((s.bulkCmds d k).length + (s.bulkCopies d k).length < 16)

/-- 09 R229: the engine that a C-slot operation of the current context uses has room for a command; one suspended by
a save keeps its place (11 R290). -/
def State.engineRoom (s : State) (i : Instr) : Bool :=
  let g := engineOf i
  let c := s.cx
  let n := (s.dieCmds s.cur.core.die).filter fun e => e.2.eng == g.1 && e.1 == s.cur.core
  let away := s.streams.flatMap fun x =>
    if x.die == s.cur.core.die then x.feeds.filter fun e => e.1 == s.cur.core.core && e.2.eng == g.1 else []
  if g.1 == .bce then s.bulkRoom s.cur.core.die c.bce else decide (n.length + away.length < 16)

/-- 11 R290: a feed that a save suspends or has suspended holds back no other command. -/
def State.standsAside (s : State) (c : CoreRef) (m : Command) : Bool :=
  m.susp || (isFeed m.instr && (s.ctx c m.ctx).life == .saving && (s.core c).owner == some m.ctx)

/-- 09 R231, 08 R205, 10 R256: the command may start: no earlier command of its engine is under way, and what it
must wait for has been performed; for a stream instruction, a release of its engine's agent, no store of its context
waits in a replay queue. -/
def State.cmdMayStart (s : State) (c : CoreRef) (m : Command) : Bool :=
  !m.started && !m.susp && !(m.waits.any (s.pendingId c)) && (s.core c).freeze.isNone &&
  !(isRelease m.instr && s.reqs.any fun r => r.mine c m.ctx && r.replay) &&
  !((s.engineQueue c m).any fun e => decide (e.2.id < m.id) && !s.standsAside e.1 e.2) &&
  (m.eng != .bce || (s.inTurn c.die (s.cmdStream c m).tenant &&
    !(s.bulkCopies c.die (s.ctx c m.ctx).bce).any fun q => decide (q.id < m.id)))

/-- 01 R36, 09 R231: a COPY may start: a turn of its queue's tenant runs, and no earlier command of its bulk copy engine is
under way. -/
def State.copyMayStart (s : State) (d : BitVec 2) (m : QCmd) : Bool :=
  match m.phase, m.bce with
  | .queued, some k =>
    (s.die d).up && s.inTurn d (s.qrec d m.q).owner && !((s.bulkCopies d k).any fun q => decide (q.id < m.id)) &&
    !((s.bulkCmds d k).any fun e => decide (e.2.id < m.id) && !s.standsAside e.1 e.2)
  | _, _ => false

/-- ENGINE_COMMAND_START of an engine (09 R231); a KVWALK finds its sequence now (09 R242). -/
def State.startCmd (s : State) (c : CoreRef) (id : Nat) : State :=
  match s.cmd? c id with
  | none => s
  | some m =>
    if !s.cmdMayStart c m then s
    else
      match m.instr with
      | .kvwalk _ _ =>
        let st := s.cmdStream c m
        if !s.inTurn c.die st.tenant then s
        else s.folioStep c m (walkTarget (s.who c m) m) fun va s => s.setCmd c { m with started := true, sA := va }
      | _ => s.setCmd c { m with started := true }

/-- The command is at work. -/
def State.cmdRuns (s : State) (c : CoreRef) (m : Command) : Bool :=
  m.started && !m.done && !m.susp && (s.core c).freeze.isNone

/-- ENGINE_BURST of an engine (09 R233). -/
def State.burstCmd (s : State) (c : CoreRef) (id : Nat) : State :=
  match s.cmd? c id with
  | none => s
  | some m =>
    if !s.cmdRuns c m then s
    else
      match m.instr with
      | .cp _ _ => s.burstCp c m
      | .cpq _ _ => s.burstCpq c m
      | .wstr _ _ => s.burstWstr c m
      | .lsend _ _ => s.burstLsend c m
      | .pgreq _ _ => s.burstPgreq c m
      | .enq _ _ => s.burstEnq c m
      | .frank _ _ => s.burstFrank c m
      | .kvwalk _ _ => s.burstKvwalk c m
      | .strmrd _ _ | .strmcommit _ _ | .strmin _ _ => s.burstStream c m
      | _ => s.burstFolio c m

/-- 05 R123: the opcode of a slot operation. -/
def opcOf (i : Instr) : BitVec 9 := match slotView i with | some v => v.opc | none => 0

/-- 09 R234: TINFO of the engine-error trap, without DIST. -/
def engineInfo (m : Command) (code : BitVec 8) : Word :=
  (opcOf m.instr ++ (fcOf m.instr).eng ++ code ++ (0#16) : BitVec 36).setWidth 64

/-- 09 R230, R234: the post or error step that a completion makes. -/
def State.postCompletion (s : State) (c : CoreRef) (m : Command) : State :=
  let f := fcOf m.instr
  match complKind f with
  | 1 => s.modCore c fun k => k.post f.tgt 1
  | 2 =>
    match s.awCore c m with
    | some a =>
      if m.err.isSome then
        let k := s.ctx c m.ctx
        { s with arrivals := s.arrivals ++ [⟨a, awOff m.desc, 0, .eng (m.ref c) m.eng, m.path, (s.stream k.stream).tenant, k.coreIdx, true, m.id⟩] }
      else s
    | none => s
  | 3 =>
    match s.awCore c m with
    | some a => s.modCore a fun k => k.post (BitVec.ofNat 5 (bitsOf (vword m.desc 0x10) 20 16)) 1
    | none => s
  | _ => s

/-- 18 R393: a write of the command to another package has not been answered. -/
def State.writesAway (s : State) (c : CoreRef) (m : Command) : Bool :=
  s.packets.any fun p => p.who == .unit c m.id && p.wr && (p.phase == .waiting || p.phase == .sent || p.phase.isHeld)

/-- 20 R432: a write of the command to another package that was not performed there: the engine error. -/
def State.writeFailed (s : State) (c : CoreRef) (m : Command) : Option (BitVec 8 × Word) :=
  s.packets.findSome? fun p => match p.phase with
    | .refused k => if p.who == .unit c m.id && p.wr then some (BitVec.ofNat 8 (errOfKind k), p.va) else none
    | _ => none

/-- 10 R256, R261: the command has done its work, and no store of its context stands in a replay queue: its completion, a release,
may be made. -/
def State.mayComplete (s : State) (c : CoreRef) (m : Command) : Bool := m.done && !s.replays c m.ctx && !s.writesAway c m

/-- ENGINE_COMMAND_COMPLETE of an engine (09 R230, R234): the completion is made, a slice that waited goes on, and an
error is reported to the context. Registers that an error leaves unwritten leave the scoreboard. -/
def State.completeCmd (s : State) (c : CoreRef) (id : Nat) : State :=
  match s.cmd? c id with
  | none => s
  | some m =>
    if !s.mayComplete c m then s
    else
      let m := { m with err := m.err.or (s.writeFailed c m) }
      let s := ((s.postCompletion c m).dropPins (m.outA ++ m.outB)).dropCmd c id
      s.modCtx c m.ctx fun x =>
        let x := { x with
          score := x.score.filter fun e => e.id != id
          waitX := if x.waitX == .strm id then .none else x.waitX
          waitA := if x.waitA == .strm id then .none else x.waitA }
        match m.err with
        | some e =>
          if x.life == .leaving || x.life == .free then x
          else { x with reports := x.reports ++ [⟨m.id, m.acc, m.bundle, 0, m.handler, ⟨0x116, 6, e.2, engineInfo m e.1⟩, 0, feedsOf m.instr⟩] }
        | none => x

/-! ### Arrival words -/

/-- 08 R199, 09 R234: an arrival word after a burst of `b` bytes, or after the error step. The count is exact until it is
stored. -/
def arrivalWord (w : Nat) (b : Nat) (err : Bool) : Nat :=
  let target := bitsOf w 31 0
  let count := bitsOf w 63 32 + b
  let gen := bitsOf w 95 64
  let fl := bitsOf w 127 96
  let auto := fl.testBit 0
  let pack := fun (t c g f : Nat) => t + 2 ^ 32 * (c % 2 ^ 32) + 2 ^ 64 * g + 2 ^ 96 * f
  if err then pack (if auto then target else 0) 0 ((gen + 1) % 2 ^ 32) (Nat.lor fl 4)
  else if target != 0 && decide (target ≤ count) then
    pack (if auto then target else 0) (count - target) ((gen + 1) % 2 ^ 32) (if target < count then Nat.lor fl 2 else fl)
  else pack target count gen fl

/-- The first arrival of a list for a core, and the others. -/
def takeArrival (c : CoreRef) : List Arrival → Option (Arrival × List Arrival)
  | [] => none
  | a :: r =>
    if a.core == c then some (a, r)
    else (takeArrival c r).map fun t => (t.1, a :: t.2)

/-- ARRIVAL_WORD_UPDATE (08 R199): the bytes that landed first. -/
def execArrivalWordUpdate (c : CoreRef) (s : State) : Out :=
  .next (match takeArrival c s.arrivals with
    | none => s
    | some (a, r) =>
      let k := spadKey c.die c.core a.off
      let s := { s with arrivals := r }
      let s := s.recordRace ⟨a.agent, a.path, a.tenant, a.coreIdx, k, 16, true, true⟩
      s.storeAt k (bytesOfNat (arrivalWord (readNat s.mem k 16) a.bytes a.err) 16))

/-! ### Arriving link packets -/

def LinkChan.load (l : LinkChan) : Nat := l.ents.length + l.withheld

/-- The entries of a list of channels. -/
def Die.chanLoad (d : Die) (l : List Nat) : Nat := (l.eraseDups.map fun i => (d.chan i).load).foldl (· + ·) 0

/-- 02 R63, 12 R306: a channel has credit for a packet: with any other channel of its tenant it holds 192 entries together, since
a chain reads the two, has been saved reading them, or may come to read them (log entry 65). -/
def State.chanRoom (s : State) (die : BitVec 2) (i : Nat) : Bool :=
  let d := s.die die
  let mate := fun (j : Nat) => d.chanOwner.getD j 0xFF == d.chanOwner.getD i 0xFF || (d.chan i).mate == some j
  ((List.range 24).filter mate).all fun j => decide (d.chanLoad [i, j] < 192)

/-- LINK_PACKET_ARRIVE (09 R225, R238): the packet takes a slot of the channel's buffer; a tagged one is counted. -/
def execLinkPacketArrive (die : BitVec 2) (port : BitVec 3) (vc : BitVec 2) (pkt : LinkPacket) (s : State) : Out :=
  .next (
    let d := s.die die
    let i := chanOf port.toNat vc.toNat
    if d.up && decide (port.toNat < 6) && d.portUp.getLsbD port.toNat && s.chanRoom die i then
      let s := s.modDie die fun x =>
        let l := x.chan i
        x.setChan i { l with ents := l.ents ++ [⟨pkt.data, pkt.poison, false⟩] }
      if pkt.tagw then s.bumpCounter die pkt.tag.toNat (if pkt.perbyte then pkt.bytes else 1) (d.chanOwner.getD i 0xFF) else s
    else s)

end Sys2Proof.Machine
end

