-- ==== Sys2Proof/Machine/Mtu.lean ====
section
/-! DEFINITION. Requests at their MTU (08 R180 to R197, 11 R285, 18 R393 to R404): waiting for what comes before them,
translation, holding, and the step at the home die; the landing of results; leases, reservations, migrations and the
fault slot. -/
namespace Sys2Proof.Machine

/-! ### What a request waits for -/

/-- 01 R36: the request needs a turn of its tenant: it is for device memory, not for host space, a scratchpad or the on-chip
map. The slot table is that of the die the request comes from (log entry 57). -/
def Req.needsTurn (r : Req) : Bool := r.space == 2 && !r.va.getLsbD 63 && !r.admitted

/-- 18 R409: no stack of a die whose memory the request needs quiesces. -/
def State.reqStill (s : State) (r : Req) : Bool :=
  (reqPages r).all fun p =>
    let va := s.routed r.core.die (BitVec.ofNat 64 (65536 * p))
    va.getLsbD 63 || !localForm s va || s.devStill (vaDie va)

/-- 08 R181, R204, R205, 10 R256: the request may be made. A fence waits for its list and, as a release, for the stores of its
context in replay queues; what needs a page at home, only for what leaves a replay queue before it. A frozen core's requests
are not admitted (18 R413). -/
def State.reqReady (s : State) (r : Req) : Bool :=
  r.phase.waiting && !(r.waits.any (s.pendingId r.core)) && s.reqStill r &&
  (if isFence r.instr then !isRelease r.instr || !s.replays r.core r.ctx
    else if r.instr == .nop || r.office then !(s.reqs.any fun x => leavesBefore x r) && (r.office || (s.core r.core).freeze.isNone)
    else !(s.reqs.any (s.blocksReq r)) && (s.core r.core).freeze.isNone && (!r.needsTurn || s.inTurn r.core.die r.tenant))

/-! ### Ends of requests -/

/-- 10 R267: the acquire of a request completes. -/
def State.reqAcquired (s : State) (r : Req) : State :=
  if isAcquire r.instr then s.modCtx r.core r.ctx fun c => c.acquired s.time else s

/-- The request has been performed: its results wait to land, or it is done. -/
def State.performed (s : State) (r : Req) (res : Vec) (res2 : Word) : State :=
  if r.dests.isEmpty then (s.reqAcquired r).dropReq r.id
  else s.modReq r.id fun q => { q with phase := .performed, res := res, res2 := res2, replay := false }

/-- 18 R402: the stores in the replay queue of the MTU slice that an address goes to. -/
def State.replaying (s : State) (va : Word) : Nat :=
  (s.reqs.filter fun x => x.replay && sliceOf (x.heldVa.toNat / 65536) == sliceOf (va.toNat / 65536)).length

/-- 18 R401, R402: a request is held, and counted the first time (20 R434). A store enters the replay queue of its slice, which has
room for 64; one that finds it full stays on its path. -/
def State.holdReq (s : State) (r : Req) (why : HeldWhy) (va : Word) : State :=
  let again := r.phase.isHeld || r.replay || r.heldTurn != 0
  let s := s.count (vaDie va) 23 (if again then 0 else 1)
  { s.modReq r.id fun q => { q with
      phase := .held why, admitted := true, replay := r.replay || (reqStores r && decide (s.replaying va < 64))
      heldAt := if again then q.heldAt else s.time, heldTurn := if again then q.heldTurn else s.nextId
      aux := if r.instr == .nop then q.aux else va } with nextId := s.nextId + 1 }

/-- The path's agent and its acquire time (10 R267). -/
def Req.agent (r : Req) : Agent :=
  let x : CtxRef := ⟨r.core.die, r.core.core, r.ctx⟩
  if r.path == 4 then .gs x else .ls x
def State.acqOf (s : State) (r : Req) : Nat :=
  let c := s.ctx r.core r.ctx
  if r.path == 4 then c.gsAcqTime else c.acqTime

/-- 10 R252: the access is atomic. -/
def reqAtomic (r : Req) : Bool :=
  match r.instr with
  | .ld _ f | .ldg _ f | .ldv _ f | .ldgv _ f | .ldvs _ f | .st _ f | .stg _ f | .stv _ f | .stgv _ f | .stvs _ f => f.order != 0
  | .gath _ _ | .probe _ _ | .scat _ _ => false
  | _ => true

/-- The access as the race detector sees it at a key. A PARK that has a turn has set WAITED: a write (10 R253). -/
def State.reqProbe (s : State) (r : Req) (k n : Nat) : Probe :=
  ⟨r.agent, r.path, r.tenant, (s.ctx r.core r.ctx).coreIdx, k, n, reqWrites r || r.turn != 0, reqAtomic r⟩

/-- 10 R268: a race of an access with one of the ranges it touches. -/
def State.raceIn (s : State) (r : Req) (l : List (Nat × Nat)) : Option Word :=
  match l with
  | [] => none
  | x :: t =>
    match s.findRace (s.reqProbe r x.1 x.2) (s.acqOf r) with
    | some y => some (raceInfo s (s.reqProbe r x.1 x.2) y)
    | none => s.raceIn r t

def State.recordIn (s : State) (r : Req) (l : List (Nat × Nat)) : State :=
  l.foldl (fun s x => s.recordRace (s.reqProbe r x.1 x.2)) s

/-! ### Full/empty operations, parking and waking -/

/-- 08 R189: TINFO of the retry-exhausted trap, without DIST. -/
def retryInfo (i : Instr) : Word :=
  let mk := fun (op : BitVec 2) (f : FM) =>
    (1#1 ++ 0#29 ++ f.order ++ f.scope ++ f.ty ++ op ++ f.data ++ 0#16 : BitVec 64)
  match i with
  | .ldw _ f => mk 0 f
  | .ldc _ f => mk 1 f
  | .stf _ f => mk 2 f
  | _ => 0

/-- 10 R266 to R270, 11 R272: an access that is about to be performed at the ranges: a race is reported and it is not performed;
otherwise it leaves its records and goes on. -/
def State.checked (s : State) (r : Req) (l : List (Nat × Nat)) (k : State → State) : State :=
  match s.raceIn r l with
  | some w => s.failReq r (if r.space.toNat ≤ 1 then 0x006 else 0x113) r.va w 0 0
  | none => k (s.recordIn r l)

/-- 08 R189: an attempt has failed: a retry is due, or the operation is exhausted. The access has not been performed: no
race is looked for and no record left (10 R268). -/
def State.attemptFailed (s : State) (r : Req) : State :=
  if r.budget == 0 then
    s.failReq r 0x110 r.va (retryInfo r.instr) 0 (r.data.setWidth 64)
  else s.modReq r.id fun q => { q with phase := .retrying (s.time + 64), budget := r.budget - 1, failed := true, admitted := true }

/-- 08 R192: another context's reservation of the word stands. -/
def State.reservedByOther (s : State) (d : BitVec 2) (r : Req) : Bool :=
  (s.die d).resvs.any fun v => v.asid == r.asid && v.word == wordOf r.va && decide (s.time < v.till) &&
    !(v.core == r.core && v.ctx == r.ctx)

/-- 08 R193: the KIND of a PARK or WAKE. -/
def parkKindOf (f : FM) : BitVec 2 := (f.offs.extractLsb' 17 4).setWidth 2

/-- 08 R195: the oldest records of a kind wake with 2, `n` of them. -/
def wakeOldest (d : BitVec 2) (kind : BitVec 2) : Nat → List ParkRec → State → State
  | 0, _, s => s
  | _, [], s => s
  | n + 1, r :: l, s => if r.kind == kind then wakeOldest d kind n l (s.wakeRec d r 2) else wakeOldest d kind (n + 1) l s

/-- The step of a tag operation at its word, which lies in `p` (08 R188, R194, R195). An attempt that does not succeed is no
access; poison is met before a race is looked for (11 R276). -/
def State.tagStep (s : State) (r : Req) (p : Place) (d : BitVec 2) (l : Leaf) : State :=
  let k := p.key
  let t := s.tagAt d l (vaOff r.va)
  let full := s.tagBit t false
  let word := loadValue r.instr (natOfBytes (s.readDev p 8))
  let poison := s.failReq r 0x111 (poisonVa s.poison k 8 r.va) (kindInfo 1) 0 0
  let go := fun (reads : Bool) (f : State → State) =>
    if reads && s.poisonAt p 8 then poison
    else s.checked r (racedPieces [(p, 8)]) fun s => f (if reads then s.countSubst r.asid [(p, 8)] else s)
  if isPoisoned s.poison t.1 1 then s.failReq r 0x111 r.va (kindInfo 1) 0 0
  else
    match r.instr with
    | .ldw _ _ => if !full then s.attemptFailed r else go true fun s => s.performed r word 0
    | .ldc _ _ =>
      if !full || s.reservedByOther d r then s.attemptFailed r
      else go true fun s => ((s.dropResv d r.asid r.va).emptyWord d r.asid r.va t).performed r word 0
    | .ldt _ _ => go true fun s => s.performed r word (BitVec.ofNat 64 (2 * (s.tagBit t true).toNat + full.toNat))
    | .stf _ _ =>
      if full then s.attemptFailed r
      else go false fun s => ((s.storeAt k (bytesOfNat r.data.toNat 8)).fillWord d r.asid r.va t).performed r 0 0
    | .sts _ _ => go false fun s => ((s.storeAt k (bytesOfNat r.data.toNat 8)).fillWord d r.asid r.va t).performed r 0 0
    | .tage _ _ => go false fun s => ((s.dropResv d r.asid r.va).emptyWord d r.asid r.va t).performed r 0 0
    | .park _ f =>
      let kind := parkKindOf f
      if (kind != 2 && full) || (kind == 2 && !full) then go false fun s => s.performed r 0 0
      else
        if (s.die d).bucketFull r.asid r.va then go false fun s => s.performed r 3 0
        else
          s.checked { r with turn := s.nextId } (racedPieces [(p, 8)]) fun s =>
            { ((s.appendRec d r.asid r.va kind r.core r.ctx r.id).setTag t true true).modReq r.id fun q =>
                { q with phase := .parked, turn := s.nextId } with
              nextId := s.nextId + 1 }
    | .wake _ f => go false fun s =>
      let n := (r.data.extractLsb' 0 16).toNat
      let recs := (s.die d).recsOf r.asid r.va
      ((wakeOldest d (parkKindOf f) (if n == 0 then recs.length else n) recs s).settleWaited d r.asid r.va t).performed r 0 0
    | _ => s

/-! ### The step of an access -/

/-- 08 R183, R196, R197, R201: an access of device or host memory, at the pieces that hold its bytes. A BWAIT that does not
pass is no access. -/
def State.performPlain (s : State) (r : Req) (l : List (Place × Nat)) : State :=
  let x := natOfBytes (s.spanRead l)
  let go := s.checked r (racedPieces l)
  let reads := fun (f : State → State) =>
    match s.spanPoisonVa l r.va with
    | some va => s.failReq r 0x111 va (kindInfo 1) 0 0
    | none => go fun s => f (s.countSubst r.asid l)
  match r.instr with
  | .st _ _ | .stg _ _ | .stv _ _ | .stgv _ _ | .stvs _ _ =>
    go fun s => (s.spanWrite l (storeBytes r.instr r.data)).performed r 0 0
  | .amo _ _ | .cas _ _ | .barr _ _ =>
    reads fun s =>
      (s.spanWrite l (bytesOfNat (atomicValue r.instr x r.data.toNat r.idx.toNat s.breachBits) (reqBytes r))).performed r (loadValue r.instr x) 0
  | .bwait _ _ =>
    if (s.spanPoisonVa l r.va).isSome || barrierPassed (BitVec.ofNat 64 x) (r.data.setWidth 16) then reads fun s => s.performed r 0 0
    else s
  | _ => reads fun s => s.performed r (loadValue r.instr x) 0

/-- 18 R393, 20 R428: the request becomes a packet for the package that owns the address, on the issuing die. -/
def State.sendRemote (s : State) (r : Req) : State :=
  (s.modReq r.id fun q => { q with phase := .remote, admitted := true }).sendPacket r.core.die (.req r.id) r.tenant r.asid r.va
    (reqWrites r) (if reqWrites r then bytesOfNat r.data.toNat (max 8 (reqBytes r)) else [])

/-- An access of device space (18 R393 to R404); its walk fills the TLB (R399). -/
def State.deviceAccess (s : State) (r : Req) : State :=
  let n := reqNeeds r
  let tagless := fun (k : Nat) => s.failReq r 0x114 r.va (kindInfo k) 0 0
  match s.rangeAt r.core.die r.asid r.va (reqBytes r) n.1 n.2.1 n.2.2 with
  | .remote _ => s.sendRemote r
  | .bad va k => s.failReq r 0x112 va (kindInfo k) 0 0
  | .held va why =>
    match s.leaf (vaDie va) r.asid (vaOff va) with
    | some l => if isTagOp r.instr && !l.pte.tagged then tagless 1 else s.holdReq r why va
    | none => s.holdReq r why va
  | .ok l =>
    let s' := s.fillRange r.asid (s.routed r.core.die r.va) (reqBytes r)
    match l with
    | [(.dev d a f, _)] =>
      if !isTagOp r.instr then s'.performPlain r l
      else if f.pte.tagged then s'.tagStep r (.dev d a f) d f
      else tagless 1
    | [(.host _, _)] =>
      if isTagOp r.instr then tagless 2
      else
        match r.instr with
        | .amo _ _ | .cas _ _ | .barr _ _ => s.failReq r 0x112 r.va (kindInfo 4) 0 0
        | _ => s'.performPlain r l
    | _ => s'.performPlain r l

/-- An access through the on-chip map (02 R57 to R60). A poisoned row of an accumulator or a chain has no address (11 R272,
R274). -/
def State.chipAccess (s : State) (r : Req) : State :=
  let n := reqBytes r
  let d := r.core.die
  let unreachable := fun (s : State) => s.failReq r 0x112 r.va (kindInfo 3) 0 0
  match s.chipPlace d r.tenant r.va n with
  | none => unreachable s
  | some l =>
    if reqWrites r then
      s.checked r (chipSpads l) fun s =>
        let t := s.chipWriteAll d l (storeBytes r.instr r.data)
        if t.2 then t.1.performed r 0 0 else unreachable t.1
    else
      match s.chipPoisonAll d l 0 with
      | some x => s.failReq r 0x111 (if x.2 ≤ 3 then r.va + BitVec.ofNat 64 x.1 else 0) (kindInfo x.2) 0 0
      | none => s.checked r (chipSpads l) fun s => s.performed r (loadValue r.instr (natOfBytes (s.chipReadAll d l))) 0

/-- 08 R202: the fence that follows an AWAIT made as a request. -/
def State.fenceAfter (s : State) (r : Req) (mask : BitVec 8) : State :=
  if mask == 0 then s else { ({ s with cur := ⟨r.core, r.ctx, r.acc, 0⟩ } : State).fencePaths r.slot mask with cur := s.cur }

/-- An access to a scratchpad that had to come after others (10 R256), compared as it is performed (10 R268). A wait that does
not pass stays (08 R200, R201). -/
def State.spadAccess (s : State) (r : Req) : State :=
  let t := spadTarget r.core r.space r.va
  let k := spadKey t.1.die t.1.core t.2
  let n := reqBytes r
  let x := readNat s.mem k n
  let reads := fun (f : State → State) =>
    if isPoisoned s.poison k n then s.failReq r 0x111 (poisonVa s.poison k n r.va) (kindInfo 2) 0 0 else f s
  let go := fun (f : State → State) (s : State) => s.checked r [(k, n)] f
  match r.instr with
  | .aarm _ f => go (fun s => (s.armWord k r.data.toNat (f.sub.extractLsb' 0 1).toNat).performed r 0 0) s
  | .amo _ _ | .cas _ _ | .barr _ _ =>
    reads <| go fun s =>
      (s.storeAt k (bytesOfNat (atomicValue r.instr x r.data.toNat r.idx.toNat s.breachBits) n)).performed r (loadValue r.instr x) 0
  | .bwait _ _ =>
    reads fun s => if barrierPassed (BitVec.ofNat 64 x) (r.data.setWidth 16) then go (fun s => s.performed r 0 0) s else s
  | .await _ f =>
    reads fun s => if genPassed s.mem k (r.data.setWidth 32) then (s.performed r 0 0).fenceAfter r f.path else s
  | _ => go (fun s => (s.storeAt k (storeBytes r.instr r.data)).performed r 0 0) s

/-! ### Elements (08 R185 to R187) -/

/-- The elements that take part: their numbers, addresses and places. -/
def State.elements (s : State) (r : Req) (rd wr : Bool) : List (Nat × Word × Place) :=
  ((List.range 64).filter fun e => r.mask.getLsbD e).map fun e =>
    let a := elementAddr r.va r.idx e
    (e, a, s.placeAt r.core.die r.asid a rd wr false)

/-- 18 R399: the walks of the elements fill the TLBs. -/
def State.fillElems (s : State) (r : Req) (es : List (Nat × Word × Place)) : State :=
  es.foldl (fun s e => s.fillRange r.asid (s.routed r.core.die e.2.1) 1) s

/-- 18 R393: the elements of other packages are requested there, each by a packet. -/
def State.sendElems (s : State) (r : Req) (es : List (Nat × Word × Place)) : State :=
  (es.filter fun e => e.2.2 == .remote).foldl (fun s e =>
    s.sendPacket r.core.die (.elem r.id e.1) r.tenant r.asid e.2.1 (reqWrites r)
      (if reqWrites r then bytesOfNat (lane 32 r.data e.1) 4 else [])) s

/-- The elements of this package have been performed: the request is, or waits for those of others. -/
def State.performedHere (s : State) (r : Req) (es : List (Nat × Word × Place)) (res : Vec) (res2 : Word) : State :=
  if es.any fun e => e.2.2 == .remote then
    (s.sendElems r es).modReq r.id fun q => { q with phase := .remote, res := res, res2 := res2, admitted := true }
  else s.performed r res res2

/-- 11 R280: the causes of the elements of one access, each with its element: the code, the address and TINFO. -/
def State.failElems (s : State) (r : Req) (l : List (Nat × Nat × Word × Word)) : State :=
  l.foldl (fun s x => s.failReq r x.2.1 x.2.2.1 x.2.2.2 x.1 0) s

/-- The cause of an element of a GATH, or none. A page that is resident and not readable is a permission violation. -/
def State.gathCause (s : State) (r : Req) (e : Nat × Word × Place) : Option (Nat × Nat × Word × Word) :=
  match e.2.2 with
  | .bad 1 =>
    if (s.placeAt r.core.die r.asid e.2.1 false false false).isDev then some (e.1, 0x112, e.2.1, kindInfo 1) else none
  | .dev _ _ _ =>
    if s.poisonAt e.2.2 4 then some (e.1, 0x111, e.2.1, kindInfo 1)
    else (s.raceIn r (racedPieces [(e.2.2, 4)])).map fun w => (e.1, 0x113, e.2.1, w)
  | _ => none

/-- 08 R186: GATH: the elements whose pages are resident. A cause of any element stops it whole. -/
def State.gather (s : State) (r : Req) : State :=
  let es := s.elements r true false
  let bad := es.filterMap (s.gathCause r)
  if !bad.isEmpty then s.failElems r bad
  else
    let s := s.fillElems r es
    let res := es.filter fun e => e.2.2.isDev
    let val := fun (i : Nat) =>
      match res.find? fun e => e.1 == i with
      | some e => natOfBytes (s.readDev e.2.2 4)
      | none => 0
    let kout := BitVec.ofNat 64 ((res.map (·.1)).foldl (fun m e => m + 2 ^ e) 0)
    let probes := res.flatMap fun e => racedPieces [(e.2.2, 4)]
    let s := res.foldl (fun s e => s.countSubst r.asid [(e.2.2, 4)]) (s.recordIn r probes)
    s.performedHere r es (ofLanes 32 ((List.range 64).map val)) kout

/-- 08 R186: PROBE: residency only; it traps for no element (log entry 86). -/
def State.probe (s : State) (r : Req) : State :=
  let es := s.elements r false false
  let s := s.fillElems r es
  s.performedHere r es 0 (BitVec.ofNat 64 (((es.filter fun e => e.2.2.isDev).map (·.1)).foldl (fun m e => m + 2 ^ e) 0))

/-- 08 R187, 10 R270: SCAT, in ascending order of elements. A race of an element stops it whole; elements that may not be
written are left out, and the lowest of them is reported. -/
def State.scatter (s : State) (r : Req) : State :=
  let es := s.elements r false true
  match es.find? fun e => match e.2.2 with | .held _ => true | _ => false with
  | some e => match e.2.2 with | .held why => s.holdReq r why e.2.1 | _ => s
  | none =>
    let ok := es.filter fun e => match e.2.2 with | .bad _ => false | .remote => false | _ => true
    let races := ok.filterMap fun e => (s.raceIn r (racedPieces [(e.2.2, 4)])).map fun w => (e.1, 0x113, e.2.1, w)
    let denied := (es.filterMap fun e => match e.2.2 with
      | .bad k => some (e.1, 0x112, e.2.1, kindInfo k)
      | _ => none).take 1
    if !races.isEmpty then s.failElems r (denied ++ races)
    else
      let s := ok.foldl (fun s e =>
        (s.recordIn r (racedPieces [(e.2.2, 4)])).storeAt e.2.2.key (bytesOfNat (lane 32 r.data e.1) 4)) (s.fillElems r es)
      let s := denied.foldl (fun s x => s.reportReq r x.2.1 x.2.2.1 x.2.2.2 x.1 0) s
      s.performedHere r es 0 0

/-- A posted write of the firmware: its mask holds how many bytes, its data the bytes, and its `res2` the word that tags it
(17 R387). -/
def State.postWrite (s : State) (d : BitVec 2) (tenant : BitVec 8) (asid : BitVec 12) (va : Word) (b : List Byte) (tag : Word) : State × Req :=
  let r : Req :=
    { id := s.nextId, core := ⟨d, 0⟩, ctx := 0, acc := false, slot := 0, bundle := 0, handler := false, path := 7
      instr := .frankEnqueue d, asid := asid, tenant := tenant, stream := 0, va := va, space := 2, data := vecOf b 0, idx := 0
      mask := BitVec.ofNat 64 b.length, aux := 0, budget := 0, waits := [], admitted := true, phase := .issued, dests := [], res := 0
      res2 := tag, replay := false, heldAt := 0, heldTurn := 0, failed := false, turn := 0, office := true }
  ({ s with nextId := s.nextId + 1, reqs := s.reqs ++ [r] }, r)

/-- 17 R387, R385: a posted write reaches its page at once, and steps the counter of the page's die where it is tagged: a franked
FABRIC action, or a completion record (19 R426). One that cannot be made is dropped and counted (20 R432). -/
def State.fabricWrite (s : State) (r : Req) : State :=
  let b := bytesOfNat r.data.toNat r.mask.toNat
  match s.rangeAt r.core.die r.asid r.va r.mask.toNat false true false with
  | .held va why => s.holdReq r why va
  | .remote va =>
    (s.dropReq r.id).sendPacket r.core.die .posted r.tenant r.asid va true (b ++ bytesOfNat r.res2.toNat 8)
  | .ok l =>
    let s := ((s.fillRange r.asid (s.routed r.core.die r.va) r.mask.toNat).spanWrite l b).dropReq r.id
    if r.res2.getLsbD 8 && !r.va.getLsbD 63 then
      s.bumpCounter (vaDie r.va) (r.res2.setWidth 8 : BitVec 8).toNat 1 ((s.die (vaDie r.va)).asidOwner.getD r.asid.toNat 0xFF)
    else s
  | .bad _ _ => (s.dropReq r.id).count r.core.die 7 1

/-- DEVICE_MEMORY_REQUEST (18 R393): a request that may be made reaches its MTU. -/
def execDeviceMemoryRequest (id : Nat) (s : State) : Out :=
  .next (match s.req? id with
    | none => s
    | some r =>
      if !s.reqReady r then s
      else
        match r.instr with
        | .fence _ _ => (s.reqAcquired r).dropReq id
        | .fencex _ f =>
          (s.modCtx r.core r.ctx fun c =>
            { c.acquired s.time with gsAcqTime := if f.path.getLsbD 4 then max c.gsAcqTime s.time else c.gsAcqTime }).dropReq id
        | .nop =>
          let n := reqNeeds r
          match s.place r.asid r.va n.1 n.2.1 n.2.2 with
          | .held why => s.holdReq r why r.va
          | _ => s.dropReq id
        | .frankEnqueue _ => s.fabricWrite r
        | .gath _ _ => s.gather r
        | .probe _ _ => s.probe r
        | .scat _ _ => s.scatter r
        | .fpost _ f => (s.modCore r.core fun k => k.post f.tgt (r.data.setWidth 16)).dropReq id
        | .hbar _ _ => (s.arrive r.core r.ctx id (r.data.setWidth 64)).dropReq id
        | _ => if r.space == 2 then s.deviceAccess r else if r.space == 3 then s.chipAccess r else s.spadAccess r)

/-! ### Results land -/

/-- The value and the bits of a destination of a request (08 R186, R188). -/
def reqResult (r : Req) (i : Nat) : Vec × Vec :=
  match r.instr with
  | .gath _ _ => if i == 0 then (r.res, chunkMask r.mask) else (r.res2.setWidth 2048, allBits)
  | .probe _ _ => (r.res2.setWidth 2048, allBits)
  | .park _ _ => ((if r.res2 == 0 then r.res else r.res2.setWidth 2048), allBits)
  | _ => (if i == 0 then r.res else r.res2.setWidth 2048, allBits)

/-- The packets of a request. -/
def Packet.ofReq (p : Packet) (id : Nat) : Bool := match p.who with | .req n | .elem n _ => n == id | _ => false
def State.reqPackets (s : State) (id : Nat) : List Packet := s.packets.filter fun p => p.ofReq id

/-- 18 R393: every packet of a request has been answered. -/
def State.answered (s : State) (id : Nat) : Bool := (s.reqPackets id).all fun p => p.phase == .answered

/-- What another package has answered to an element: that its page is resident, and its value. -/
def farElem (r : Req) (p : Packet) : Req :=
  match p.who with
  | .elem _ e =>
    if farWord p.id 1 == 0 then r
    else { r with
      res := if isElements r.instr && !reqWrites r then r.res ||| BitVec.ofNat 2048 (natOfBytes (farBytes p.id 4) * 2 ^ (32 * e)) else r.res
      res2 := r.res2 ||| 1#64 <<< e }
  | _ => { r with
      res := loadValue r.instr (natOfBytes (farBytes p.id (reqBytes r))), res2 := (farWord p.id 2).setWidth 64 }

/-- The result of a request, with what other packages have answered: free values (log entry 1). -/
def State.remoteResult (s : State) (r : Req) : Req :=
  if r.phase == .remote then (s.reqPackets r.id).foldl farElem r else r

/-- 04 R102: an earlier result of one of the registers has not landed. -/
def landsAfter (c : Ctx) (r : Req) : Bool :=
  r.dests.any (c.awaits r.id)

/-- The packets of a request that is done with go, but for those still on their way. -/
def State.dropPackets (s : State) (id : Nat) : State :=
  { s with packets := s.packets.filter fun p => !p.ofReq id || p.phase == .sent }

/-- 08 R194: a PARK returns after those of its word that were parked before it and have been woken. -/
def State.parkedBefore (s : State) (r : Req) : Bool :=
  r.turn != 0 && s.reqs.any fun q => q.turn != 0 && decide (q.turn < r.turn) && q.phase == .performed &&
    q.asid == r.asid && q.va == r.va

/-- SCOREBOARD_ARRIVAL (04 R101): the results of a performed request land, and its acquire completes. -/
def execScoreboardArrival (id : Nat) (s : State) : Out :=
  .next (match s.req? id with
    | none => s
    | some r =>
      let c := s.ctx r.core r.ctx
      if !(r.phase == .performed || (r.phase == .remote && s.answered id)) || landsAfter c r || s.parkedBefore r then s
      else
        let q := s.remoteResult r
        (((s.modCtx r.core r.ctx fun c =>
          (q.dests.zipIdx.foldl (fun c d => let v := reqResult q d.2; c.landScore id d.1 v.1 v.2) c)).reqAcquired r).dropReq id).dropPackets id)

/-- FE_RETRY (08 R189): the retry is made when it is due: 64 cycles after the attempt before, or once FULL has changed; a stack
that quiesces holds it (18 R409). -/
def State.retryDue (s : State) (r : Req) : Bool :=
  match r.phase with
  | .retrying due => decide (due ≤ s.time) && s.reqStill r
  | _ => false

def execFeRetry (id : Nat) (s : State) : Out :=
  .next (match s.req? id with
    | none => s
    | some r => if s.retryDue r then s.deviceAccess { r with phase := .issued } else s)

/-- RESERVATION_EXPIRY (08 R192). -/
def execReservationExpiry (die : BitVec 2) (asid : BitVec 12) (word : Word) (s : State) : Out :=
  .next (s.modDie die fun x => { x with
    resvs := x.resvs.filter fun r => !(r.asid == asid && r.word == word && decide (r.till ≤ s.time)) })

/-- TLB_LEASE_EXPIRY (18 R399). -/
def execTlbLeaseExpiry (die : BitVec 2) (asid : BitVec 12) (page : Nat) (s : State) : Out :=
  .next (s.modDie die fun x => { x with
    tlb := x.tlb.filter fun t => !(t.asid == asid && t.page == page && decide (t.till ≤ s.time)) })

/-! ### The firmware at the MTU (18 R401 to R404) -/

/-- The ASID that names a function's window: the lowest it owns on die 0 (18 R394). -/
def State.windowAsid (s : State) (tenant : BitVec 8) : Option (BitVec 12) :=
  ((s.die 0).asidOwner.toList.findIdx? (· == tenant)).map (BitVec.ofNat 12)

/-- Firmware writes an entry; the cached translations of its page go (log entry 15). -/
def State.putPte (s : State) (d : BitVec 2) (asid : BitVec 12) (off_ : Nat) (l : Leaf) (e : Pte) : State :=
  let s : State := { s with mem := writeNat s.mem (hbmKey d l.at_) 16 e.toNat }
  s.modDie d fun x => { x with tlb := x.tlb.filter fun t => !(t.asid == asid && t.page == off_ / leafSize t.big) }

def Pte.withKind (e : Pte) (k : Nat) (addr : Nat) : Pte :=
  (e &&& ~~~((BitVec.allOnes 50).setWidth 128 <<< 14) &&& ~~~7#128) ||| (BitVec.ofNat 128 (addr / 16384) <<< 14) ||| BitVec.ofNat 128 k
def Pte.withStamp (e : Pte) (t : Nat) : Pte := (e &&& ~~~((BitVec.allOnes 32).setWidth 128 <<< 96)) ||| (BitVec.ofNat 128 (t / 65536 % 2 ^ 32) <<< 96)

/-- 18 R401: a fault record in the driver's ring: 24 bytes of a 32-byte slot (log entry 16). -/
def State.postFault (s : State) (d : BitVec 2) (r : Req) (need : Nat) : State :=
  let x := s.die d
  let b := bytesOfNat (r.heldVa.toNat % 2 ^ 47 / 65536 * 65536 + r.asid.toNat * 2 ^ 52) 8 ++ bytesOfNat r.heldAt 8 ++ bytesOfNat need 8
  let va := x.faultBase + BitVec.ofNat 64 (32 * (x.faultHead % 2 ^ x.faultLog))
  if x.faultLog == 0 then s
  else
    match s.windowAsid 0 with
    | none => s
    | some a =>
      match s.span a va 24 false true false with
      | .ok l => (s.spanWrite l b).modDie d fun x => { x with faultHead := x.faultHead + 1 }
      | _ => s

/-- The request is looked at again. -/
def State.reissue (s : State) (r : Req) : State := s.modReq r.id fun q => { q with phase := .issued, admitted := true }

/-- 18 R401: no frame is in the reserve: a record is posted once, and the request waits for frames. -/
def State.waitFrames (s : State) (d : BitVec 2) (r : Req) (need : Nat) : State :=
  match r.phase with
  | .held (.frames _) => s
  | _ => (s.postFault d r need).modReq r.id fun q => { q with phase := .held (.frames s.time) }

/-- The frames in reserve that a frame of `size` bytes at `f` is made of. -/
def inFrame (f size g : Nat) : Bool := decide (f ≤ g) && decide (g < f + size)

/-- 18 R401: a frame for a leaf from the reserve: the first; for a leaf of the middle level, the first aligned one of which every
64 KiB are in reserve (log entry 18). -/
def Die.frameFor (x : Die) (big : Bool) : Option Nat :=
  if big then x.reserve.find? fun f => f % bigSize == 0 &&
    decide ((x.reserve.filter (inFrame f bigSize)).length = bigSize / pageSize)
  else x.reserve.head?

/-- Bytes set to what an unlisted address reads as, their poison cleared. -/
def State.zeroAt (s : State) (k n : Nat) : State := { s with mem := clearBytes s.mem k n, poison := coverPoison s.poison k n }

/-- 18 R401: an unbacked page gets a zeroed frame and empty tags. -/
def State.backPage (s : State) (d : BitVec 2) (r : Req) (l : Leaf) : State :=
  let size := leafSize l.big
  match (s.die d).frameFor l.big with
  | none => s.waitFrames d r 1
  | some f =>
    let s := s.modDie d fun x => { x with reserve := if l.big then x.reserve.filter fun g => !inFrame f size g else x.reserve.drop 1 }
    let s := s.zeroAt (hbmKey d f) size
    let s := if l.pte.tagged then s.zeroAt (hbmKey d ((s.die d).tagBase + 2048 * l.pte.tagIdx)) (2048 * (size / pageSize)) else s
    (s.putPte d r.asid (vaOff r.heldVa) l (l.pte.withKind 2 f)).reissue r

/-- 18 R403: the pin count of a frame's page. -/
def State.framePinned (s : State) (d : BitVec 2) (a : Nat) : Bool := s.pinned (d.toNat * regionSize + a / 65536 * 65536)

/-- 18 R411: the poison of a page travels with its data: to every unit there that holds a byte of a poisoned unit here. -/
def copyPoison (p : List Nat) (src dst n : Nat) : List Nat :=
  ((p.filter fun k => decide (src ≤ k) && decide (k < src + n)).flatMap fun k => poisonUnits (dst + (k - src)) (poisonUnit k)).foldl
    (fun p k => insertKey k p) (coverPoison p dst n)

/-- 18 R403: a migration in begins: the entry becomes migrating and the data are copied. -/
def State.migrateIn (s : State) (d : BitVec 2) (asid : BitVec 12) (va : Word) (l : Leaf) (f : Nat) (rest : List Nat) : State :=
  let o := vaOff va
  let k := hbmKey d f
  let old := s.poison
  let s : State := { s with mem := copyBytes s.mem (hostKey l.pte.addr) k 65536, poison := copyPoison s.poison (hostKey l.pte.addr) k 65536 }
  let s := s.countErr d asid 2 ((poisonUnits k 65536).filter fun u => s.poison.contains u && !old.contains u).length
  let s := s.putPte d asid o l (l.pte.withKind 5 0)
  (s.modDie d fun x => { x with reserve := rest, migr := x.migr ++ [⟨asid, o / 65536, true, l.pte, f⟩] })

/-- 18 R403: a migration out begins. -/
def State.migrateOut (s : State) (d : BitVec 2) (asid : BitVec 12) (va : Word) (l : Leaf) (host : Nat) : State :=
  let o := vaOff va
  let s : State := { s with
    mem := copyBytes s.mem (hbmKey d l.pte.addr) (hostKey host) 65536
    poison := copyPoison s.poison (hbmKey d l.pte.addr) (hostKey host) 65536 }
  let s := s.putPte d asid o l (l.pte.withKind 5 0)
  s.modDie d fun x => { x with migr := x.migr ++ [⟨asid, o / 65536, false, l.pte, host⟩] }

/-- 18 R403: the host page that a page moves to is the firmware's to choose (log entry 1). -/
def State.hostFrame (s : State) : Nat := (s.freeVal 46 3960).toNat * 65536

/-- 18 R401, R403, R404: what the firmware does for one held request. -/
def State.resolveHeld (s : State) (d : BitVec 2) (r : Req) : State :=
  match r.phase with
  | .held _ =>
    let va := r.heldVa
    match s.walk d r.asid (vaOff va) with
    | none => s.reissue r
    | some l =>
      if l.pte.kind == 4 then s.backPage d r l
      else if l.pte.kind == 3 && (reqNeeds r).2.2 && inWindow s d l.pte then s
      else if l.pte.kind == 3 && !inWindow s d l.pte && !l.big then
        (if l.pte.pin then s
        else
          match (s.die d).reserve with
          | [] => s.waitFrames d r 2
          | f :: rest => s.migrateIn d r.asid va l f rest)
      else if l.pte.kind == 5 then s
      else if (reqNeeds r).2.1 && !l.pte.w && l.pte.wod then
        ((s.putPte d r.asid (vaOff va) l ((l.pte ||| (1#128 <<< 4)) &&& ~~~(1#128 <<< 12))).count d 25 1).reissue r
      else s.reissue r
  | _ => s

/-- Requests in the order in which they were held. -/
def byArrival (l : List Req) : List Req :=
  l.foldl (fun a r => (a.takeWhile fun x => decide (x.heldTurn ≤ r.heldTurn)) ++ r :: a.dropWhile fun x => decide (x.heldTurn ≤ r.heldTurn)) []

/-- A host migration request leaves the fault queue and is answered in its mailbox. -/
def State.endHostMigr (s : State) (d : BitVec 2) (h : HostMigr) (status : Nat) : State :=
  (s.modDie d fun x => { x with hostMigr := x.hostMigr.filter fun y => y.turn != h.turn }).answer h.fn status []

/-- 18 R403, R404: what the firmware does for a host migration request: it stands until the page is where it should be, or it
is refused with STATUS 4. -/
def State.serveHostMigr (s : State) (d : BitVec 2) (h : HostMigr) : State :=
  match s.walk d h.asid (vaOff h.va) with
  | none => s.endHostMigr d h 2
  | some l =>
    let e := l.pte
    if e.kind == 5 then s
    else if e.kind == (if h.out then 3 else 2) then s.endHostMigr d h 0
    else if e.kind == 4 || l.big then s.endHostMigr d h 2
    else if e.pin || inWindow s d e || (e.kind == 2 && s.framePinned d (Pte.addr e)) then s.endHostMigr d h 4
    else if h.out then s.migrateOut d h.asid h.va l s.hostFrame
    else
      match (s.die d).reserve with
      | [] => s
      | f :: rest => s.migrateIn d h.asid h.va l f rest

/-- 18 R403: the host migration requests that entered the fault queue from a turn on, up to another. -/
def State.serveHostFrom (s : State) (d : BitVec 2) (lo hi : Nat) : State :=
  ((s.die d).hostMigr.filter fun h => decide (lo ≤ h.turn) && decide (h.turn < hi)).foldl (fun s h => s.serveHostMigr d h) s

/-- 18 R403: the fault queue of a die: held requests, by the turns in which they came, with the host migration requests that came
between them. -/
def State.serveFaults (s : State) (d : BitVec 2) (lo : Nat) : List Req → State
  | [] => s.serveHostFrom d lo s.nextId
  | r :: l => ((s.serveHostFrom d lo r.heldTurn).resolveHeld d r).serveFaults d r.heldTurn l

/-- MTU_FAULT_SLOT (18 R401, R403): the fault queue of the die, in the order of arrival; while a stack quiesces, nothing of its
memory is reached (R409). -/
def State.mtuFaultSlot (s : State) (die : BitVec 2) : State :=
  if s.devStill die then s.serveFaults die 0 (byArrival (s.reqs.filter fun r => r.phase.isHeld && vaDie r.heldVa == die)) else s

/-- MIGRATION_COMPLETE (18 R403): the entry gets its new kind, address and HSTAMP; held requests are looked at
again, and the frame of a page that has left joins the reserve (log entry 17). -/
def execMigrationComplete (die : BitVec 2) (asid : BitVec 12) (page : Nat) (s : State) : Out :=
  .next (match (s.die die).migr.find? fun m => m.asid == asid && m.page == page with
    | none => s
    | some m =>
      let s := s.modDie die fun x => { x with
        migr := x.migr.filter fun y => !(y.asid == asid && y.page == page)
        reserve := if m.inward then x.reserve else x.reserve ++ [Pte.addr m.pte] }
      let s := s.count die 24 1
      let s := match s.walk die asid (page * 65536) with
        | some l =>
          if l.pte.kind != 5 then s
          else s.putPte die asid (page * 65536) l (Pte.withStamp (Pte.withKind m.pte (if m.inward then 2 else 3) m.target) s.time)
        | none => s
      (s.reqs.filter fun (r : Req) => r.phase.isHeld && r.asid == asid && vaDie r.heldVa == die && vaOff r.heldVa / 65536 == page).foldl
        (fun s r => s.reissue r) s)

/-- 17 R376: a queue command ends with a status. -/
def Die.endQueued (x : Die) (id status : Nat) : Die :=
  { x with qcmds := x.qcmds.map fun m => if m.id == id then { m with status := BitVec.ofNat 8 status, phase := CmdPhase.leases 0 } else m }

/-- 11 R285: the firmware declares that a page cannot be made resident: the access, the engine command, the array
operation or the fetch that needs it ends. -/
def State.giveUp (s : State) (r : Req) : State :=
  let va := r.heldVa
  if r.office then
    (match r.instr with
    | .nop => (s.dropReq r.id).modDie r.core.die fun x => x.endQueued r.aux.toNat 18
    | _ => (s.dropReq r.id).count r.core.die 7 1)
  else if r.instr != .nop then s.failReq r 0x112 va (kindInfo 5) 0 0
  else
    let s := s.dropReq r.id
    let id := r.aux.toNat
    match s.cmd? r.core id with
    | some m =>
      if m.fill != 0 && (match m.instr with | .cpq _ _ | .lsend _ _ => true | _ => false) then
        s.setCmd r.core { m with err := some (4, va) }
      else s.failCmd r.core m 4 va
    | none =>
      match (s.core r.core).arrayQ.find? fun o => o.id == id with
      | some o =>
        (match o.instr with
        | .txrest _ _ => ((s.reportArray r.core o 0x112 va (kindInfo 5)).release r.core).popArray r.core o
        | .txstep _ f => ((s.abandonBlock r.core o).endStep r.core { o with got := [], gotB := [], gotC := [] } f false).reportArray r.core o 0x112 va (kindInfo 5)
        | _ => (s.reportArray r.core o 0x112 va (kindInfo 5)).popArray r.core o)
      | none =>
        let c := s.ctx r.core r.ctx
        if c.life == .running && s.issue.isNone && (c.nextPc r.acc).toNat / 65536 == va.toNat / 65536 then
          let env := s.cur
          let t := { s with cur := ⟨r.core, r.ctx, r.acc, c.nextPc r.acc⟩ }.takeTrap ⟨2, 0, c.nextPc r.acc, 0⟩ (c.nextPc r.acc)
          { t with cur := env, issue := none }
        else s

/-- FAULTWAIT_EXPIRY (18 R401). -/
def execFaultwaitExpiry (id : Nat) (s : State) : Out :=
  .next (match s.req? id with
    | none => s
    | some r =>
      match r.phase with
      | .held (.frames since) =>
        if decide (since + (s.die (vaDie r.heldVa)).faultWait < s.time) then s.giveUp r else s
      | _ => s)

/-- SPLIT_QUIESCE_END (18 R409). -/
def execSplitQuiesceEnd (die : BitVec 2) (stack : BitVec 1) (s : State) : Out :=
  .next (s.modDie die fun x =>
    match x.quiesce.getD stack.toNat none with
    | some t => if t ≤ s.time then { x with quiesce := x.quiesce.setIfInBounds stack.toNat none } else x
    | none => x)

end Sys2Proof.Machine
end

