-- ==== Sys2Proof/Machine/Uses.lean ====
section
/-! DEFINITION. What a slot operation reads and writes, as the blocking rules see it: registers that may be pending on
the scoreboard (01 R20, 04 R102), and the queues that it pops, peeks and pushes (04 R96, R99). -/
namespace Sys2Proof.Machine

/-- 04 R96: the vector source fields of an operation, in the order a, b, c. -/
def vecFields (i : Instr) : List (BitVec 6) :=
  match i with
  | .vadd _ f | .vsub _ f | .vmul _ f | .vmin _ f | .vmax _ f | .vand _ f | .vor _ f | .vxor _ f | .vshl _ f | .vshr _ f
  | .vsra _ f | .vcmp _ f | .vperm _ f | .vslide _ f | .vdiv _ f | .vdesc _ f => [f.a, f.b]
  | .vfma _ f | .vsel _ f | .vdot4 _ f => [f.a, f.b, f.c]
  | .vmov _ f | .vcvt _ f | .vexp2 _ f | .vlog2 _ f | .vrcp _ f | .vrsq _ f | .vsqrt _ f | .vred _ f | .vscan _ f
  | .vamax _ f | .vquant _ f | .vcmpr _ f | .vtopk _ f | .vkmovAny _ f | .vkmovAll _ f | .vgetl _ f => [f.a]
  | .gath _ f | .probe _ f | .scat _ f => [f.a]
  | .stv _ f | .stgv _ f | .stvs _ f => [f.data]
  | _ => []

/-- A vector destination field that may push. -/
def vecDest (i : Instr) : Option (BitVec 6) :=
  match i with
  | .vadd _ f | .vsub _ f | .vmul _ f | .vmin _ f | .vmax _ f | .vand _ f | .vor _ f | .vxor _ f | .vshl _ f | .vshr _ f
  | .vsra _ f | .vcmp _ f | .vperm _ f | .vslide _ f | .vdiv _ f | .vdesc _ f | .vfma _ f | .vsel _ f | .vdot4 _ f
  | .vmov _ f | .vcvt _ f | .vexp2 _ f | .vlog2 _ f | .vrcp _ f | .vrsq _ f | .vsqrt _ f | .vred _ f | .vscan _ f
  | .vamax _ f | .vquant _ f | .vcmpr _ f | .vbcast _ f | .viota _ f | .vrand _ f | .vkmovTov _ f => some f.d
  | .ldv _ f | .ldgv _ f | .ldvs _ f => some f.data
  | _ => none

/-- The queues that fields pop, peek at and push. -/
def popOf (x : BitVec 6) : Option (BitVec 2) := if 32 ≤ x.toNat && x.toNat < 36 then some (x.setWidth 2) else none
def peekOf (x : BitVec 6) : Option (BitVec 2) := if 36 ≤ x.toNat && x.toNat < 40 then some (x.setWidth 2) else none
def pops (i : Instr) : List (BitVec 2) := (vecFields i).filterMap popOf
def peeks (i : Instr) : List (BitVec 2) := (vecFields i).filterMap peekOf
def pushes (i : Instr) : List (BitVec 2) :=
  match i with
  | .qeos _ f => [f.a.setWidth 2]
  | _ => (vecDest i).toList.filterMap popOf

/-- The base of an effective address. -/
def baseRegs (f : FM) : List Reg := if f.kind == 0 then [.s f.base] else []

/-- The scalar, predicate, mask and vector registers that an operation reads besides its guard. -/
def sources (i : Instr) : List Reg :=
  ((vecFields i).filterMap fun x => if x.toNat < 32 then some (Reg.v (x.setWidth 5)) else none) ++
  (match i with
  | .add _ f | .sub _ f | .mul _ f | .mulh _ f | .mulhn _ f | .div _ f | .divn _ f | .rem _ f | .remn _ f | .and _ f
  | .or _ f | .xor _ f | .andn _ f | .shl _ f | .shr _ f | .sra _ f | .rotl _ f | .min _ f | .max _ f | .minn _ f
  | .maxn _ f | .clz _ f | .popc _ f | .ext _ f | .lea _ f | .mov _ f | .fadd _ f | .fsub _ f | .fmul _ f | .fmin _ f
  | .fmax _ f | .fdiv _ f | .fcvt _ f | .setx _ f => [.s f.a, .s f.b]
  | .sel _ f => [.s f.a, .s f.b, .p f.sub]
  | .ins _ f => [.s f.a, .s f.b, .s f.d]
  | .addi _ f | .subi _ f | .muli _ f | .mulhi _ f | .mulhni _ f | .divi _ f | .divni _ f | .remi _ f | .remni _ f
  | .andi _ f | .ori _ f | .xori _ f | .andni _ f | .shli _ f | .shri _ f | .srai _ f | .rotli _ f | .mini _ f
  | .maxi _ f | .minni _ f | .maxni _ f | .exti _ f | .leai _ f | .cmpi _ f | .setlc _ f | .setsr _ f => [.s f.a]
  | .seli _ f => [.s f.a, .p (f.imm.extractLsb' 30 4)]
  | .insi _ f => [.s f.a, .s f.d]
  | .movhi _ f => [.s f.d]
  | .cmp _ f | .fcmp _ f => [.s f.a, .s f.b]
  | .fma _ f => [.s f.a, .s f.b, .s f.c]
  | .plog _ f => [.p (f.a.setWidth 4), .p (f.b.setWidth 4)]
  | .pbri _ f | .setg _ f | .hbar _ f => [.s f.a]
  | .ret _ _ => [.s 62]
  | .vbcast _ f | .vkmovFroms _ f => [.s f.a, .k f.k]
  | .viota _ f | .vrand _ f => [.s f.a, .s f.b, .k f.k]
  | .vscan _ f | .vquant _ f | .vgetl _ f => [.s f.b, .k f.k]
  | .vslide _ f => [.s f.c, .k f.k]
  | .vtopk _ f => [.s f.b, .s f.c, .k f.k]
  | .vmergek _ f =>
    [.v (f.a.setWidth 5), .v (f.a.setWidth 5 + 1), .v (f.b.setWidth 5), .v (f.b.setWidth 5 + 1), .s f.c]
  | .vkop _ f => [.k (f.a.setWidth 3), .k (f.b.setWidth 3)]
  | .vkmovTos _ f | .vkmovTov _ f => [.k (f.a.setWidth 3)]
  | .vsetl _ f => [.v (f.d.setWidth 5), .s f.a, .s f.b]
  | .vadd _ f | .vsub _ f | .vmul _ f | .vmin _ f | .vmax _ f | .vand _ f | .vor _ f | .vxor _ f | .vshl _ f | .vshr _ f
  | .vsra _ f | .vcmp _ f | .vperm _ f | .vdiv _ f | .vdesc _ f | .vfma _ f | .vsel _ f | .vdot4 _ f
  | .vmov _ f | .vcvt _ f | .vexp2 _ f | .vlog2 _ f | .vrcp _ f | .vrsq _ f | .vsqrt _ f | .vred _ f
  | .vamax _ f | .vcmpr _ f | .vkmovAny _ f | .vkmovAll _ f => [.k f.k]
  | .ld _ f | .ldv _ f | .ldvs _ f | .ldx _ f | .ldg _ f | .ldgv _ f | .ldw _ f | .ldc _ f | .ldt _ f | .tage _ f
  | .stv _ f | .stvs _ f | .stgv _ f | .park _ f => baseRegs f
  | .st _ f | .stg _ f | .stf _ f | .sts _ f | .barr _ f | .bwait _ f | .wake _ f | .amo _ f => .s f.data :: baseRegs f
  | .cas _ f => .s f.data :: .s (f.data + 1) :: baseRegs f
  | .gath _ f | .probe _ f => [.s f.b, .k f.k]
  | .scat _ f => [.s f.b, .k f.k, .v (f.d.setWidth 5)]
  | .mpset _ f | .accrd _ f | .accscl _ f | .txstep _ f | .txfin _ f | .txsave _ f | .txrest _ f => [.s f.cnt]
  | .mms _ f | .mmsp _ f => mmsRegs f
  | .txbind _ f => [.v (f.vec.setWidth 5)]
  | .cp _ f | .cpq _ f | .wstr _ f | .lsend _ f => [.v (f.desc.setWidth 5)]
  | .enq _ f | .frank _ f => [.v (f.desc.setWidth 5), .s f.a]
  | .kvwalk _ f | .kvtrunc _ f | .bmap _ f | .strmcommit _ f => [.v (f.desc.setWidth 5), .s f.a, .s f.b]
  | .pgreq _ f => .s f.a :: .s f.b :: if f.sub.getLsbD 1 then [] else [.v (f.desc.setWidth 5)]
  | .kvappend _ f => [.v (f.desc.setWidth 5), .v (f.desc.setWidth 5 + 1), .s f.a, .s f.b]
  | .kvseal _ f | .strmrd _ f | .strmin _ f | .aarm _ f | .await _ f => [.s f.a, .s f.b]
  | .fwait _ f | .fpost _ f => [.s f.a]
  | _ => [])

/-- The registers that an operation writes at a bound (04 R102). -/
def targets (i : Instr) : List Reg :=
  match i with
  | .add _ f | .sub _ f | .mul _ f | .mulh _ f | .mulhn _ f | .div _ f | .divn _ f | .rem _ f | .remn _ f | .and _ f
  | .or _ f | .xor _ f | .andn _ f | .shl _ f | .shr _ f | .sra _ f | .rotl _ f | .min _ f | .max _ f | .minn _ f
  | .maxn _ f | .clz _ f | .popc _ f | .ext _ f | .lea _ f | .mov _ f | .fadd _ f | .fsub _ f | .fmul _ f | .fmin _ f
  | .fmax _ f | .fdiv _ f | .fcvt _ f | .sel _ f | .ins _ f | .getg _ f | .time _ f => [.s f.d]
  | .addi _ f | .subi _ f | .muli _ f | .mulhi _ f | .mulhni _ f | .divi _ f | .divni _ f | .remi _ f | .remni _ f
  | .andi _ f | .ori _ f | .xori _ f | .andni _ f | .shli _ f | .shri _ f | .srai _ f | .rotli _ f | .mini _ f
  | .maxi _ f | .minni _ f | .maxni _ f | .exti _ f | .leai _ f | .seli _ f | .insi _ f | .getsr _ f => [.s f.d]
  | .movi _ f | .movhi _ f => [.s f.d]
  | .fma _ f | .vgetl _ f | .vkmovTos _ f => [.s f.d]
  | .cmp _ f | .fcmp _ f => [.p (f.d.setWidth 4), .p (f.c.setWidth 4)]
  | .cmpi _ f => [.p (f.d.setWidth 4), .p (f.imm.extractLsb' 30 4)]
  | .plog _ f => [.p (f.d.setWidth 4)]
  | .call _ _ => [.s 62]
  | .vtopk _ f | .vmergek _ f => [.v (f.d.setWidth 5), .v (f.d.setWidth 5 + 1)]
  | .vkop _ f | .vkmovAny _ f | .vkmovAll _ f | .vkmovFroms _ f => [.k (f.d.setWidth 3)]
  | .vsetl _ f => [.v (f.d.setWidth 5)]
  | .ld _ f | .ldg _ f => if f.space.toNat ≤ 1 then [.s f.data] else []
  | .ldx _ f => [.v (f.data.setWidth 5)]
  | .ldv _ f | .ldgv _ f | .ldvs _ f =>
    if f.space.toNat ≤ 1 && f.data.toNat < 32 then [.v (f.data.setWidth 5)] else []
  | _ => (vecDest i).toList.filterMap fun x => if x.toNat < 32 then some (Reg.v (x.setWidth 5)) else none

/-- The registers that an operation writes through the scoreboard (04 R100), and those of a branch, a count, a generator or a
pattern (06 R140 to R146). -/
def lateTargets (i : Instr) : List Reg :=
  match i with
  | .ld _ f | .ldg _ f | .ldw _ f | .ldc _ f | .park _ f | .cas _ f => [.s f.data]
  | .amo _ f => if amoNr f then [] else [.s f.data]
  | .ldt _ f => [.s f.data, .s (f.data + 1)]
  | .ldv _ f | .ldgv _ f | .ldvs _ f => if f.data.toNat < 32 then [.v (f.data.setWidth 5)] else []
  | .gath _ f => [.v (f.d.setWidth 5), .k f.k]
  | .probe _ f => [.k f.k]
  | .mms _ f | .mmsp _ f => mmsRegs f
  | .accrd _ f => (accrdRows f false 0).flatMap fun r => r.2.map fun p => .v p.1
  | .pbr _ f => [.b (f.d.setWidth 2)]
  | .pbri _ f => [.b (f.d.setWidth 2)]
  | .setlc _ f => [.lcnt (f.d.setWidth 3)]
  | .setg _ f => [.g (f.d.setWidth 3) (f.sub.setWidth 3)]
  | .setx _ f => [.x (f.d.setWidth 2)]
  | _ => strmRegs i

/-- 01 R31: what an operation of a slice writes, whether or not it executes. -/
def writesOf (i : Instr) : List Reg := (targets i ++ lateTargets i).filter fun r => !r.fixed

/-- A register is pending on the scoreboard. -/
def Ctx.pending (c : Ctx) (r : Reg) : Bool := !r.fixed && c.score.any fun e => e.reg == r

/-- The guard's register; a slot whose iteration condition fails does not read it (01 R29). -/
def guardPending (c : Ctx) (acc : Bool) (h : Head) : Bool := c.iterates acc h.iter && c.pending (.p h.gpred)

end Sys2Proof.Machine
end

