-- ==== Sys2Proof/Machine/Issue.lean ====
section
/-! DEFINITION. The issue of bundles (01 R20 to R34, 04 R99 to R107, 11 R275 to R284): selection, fetch, the checks of a
whole bundle, what blocks it, its retirement, and the traps taken between bundles. -/
namespace Sys2Proof.Machine

/-! ### Fetch -/

/-- What a fetch finds. -/
inductive Fetched where
  | bundle (b : Bundle)
  | bound
  | held
  /-- another package holds it: a packet asks for it -/
  | away
  /-- its answer, or a stack that quiesces, is waited for -/
  | stall
  deriving DecidableEq, Repr

/-- 04 R105, 18 R393: a bundle of another package, as far as its packet has come; a page that may not be executed there is outside
the code region (18 R397). -/
def State.fetchFar (s : State) (pc : Word) : Fetched :=
  match s.packetOf (.fetch s.cur.core s.cur.ctx s.cur.acc) pc false with
  | none => .away
  | some p => match p.phase with
    | .answered => .bundle (bundleOfBytes (farBytes p.id 64))
    | .refused _ => .bound
    | _ => .stall

/-- 04 R105, 18 R397: the bundle at the address of the current environment. A bundle with poisoned bytes is a free value (log
entry 1). -/
def State.fetch (s : State) : Fetched :=
  let c := s.cx
  let pc := s.cur.pc
  let st := s.stream c.stream
  if decide (pc.toNat < c.codeBase.toNat) || decide (c.codeLimit.toNat ≤ pc.toNat) then .bound
  else
    match s.placeAt s.cur.core.die st.asid pc false false false with
    | .remote => s.fetchFar pc
    | .bad _ => .bound
    | p =>
      if !s.still [(p, 64)] then .stall
      else
      match (if pc.getLsbD 63 then none else s.leaf (vaDie pc) st.asid (vaOff pc)) with
      | none => .bound
      | some l =>
        if !l.pte.x then .bound
        else
          match p with
          | .held _ => .held
          | p => if s.poisonAt p 64 then .bundle (s.freeVal 512 4000) else .bundle (bundleOfBytes (s.readDev p 64))

/-! ### The checks of a bundle -/

/-- The operations of a bundle that a slice issues (01 R21, R30): those with its mark in the body of a decoupled nest,
all of them elsewhere. -/
def ofSlice (c : Ctx) (acc : Bool) (l : List Instr) : List Instr :=
  if c.decoupled && c.inNest acc then
    l.filter fun i => match slotView i with | some v => (v.h.acc == 1) == acc | none => true
  else l

def headIs (i : Instr) : Head := match slotView i with | some v => v.h | none => ⟨0, 0, 0, 0, 0, none⟩

/-- The cause that stands first in the order of 11 R276; of one place, the lowest slot's. -/
def firstCause (l : List (Cause × Instr)) : Option (Cause × Instr) :=
  l.foldl (fun best x => match best with
    | some b => if causeRank x.1 < causeRank b.1 then some x else some b
    | none => some x) none

/-! ### What blocks a bundle -/

/-- 04 R99, 01 R33: the entries that `n` pops reach have landed; a token serves every pop that reaches it. -/
def popsMet : Nat → List QEntry → Bool
  | 0, _ => true
  | _ + 1, [] => false
  | n + 1, e :: r => e.landed && (e.token || popsMet n r)

/-- 04 R99: the queues hold what a bundle pops and peeks at, and have room for its pushes. -/
def Ctx.queuesOk (c : Ctx) (run : List Instr) : Bool :=
  (List.range 4).all fun n =>
    let q := (c.q.getD n OpQueue.empty).ents
    let b := BitVec.ofNat 2 n
    popsMet ((run.flatMap pops).count b) q &&
    ((run.flatMap peeks).count b == 0 || (match q with | e :: _ => e.landed | [] => false)) &&
    decide (q.length + (run.flatMap pushes).count b ≤ 16)

/-- 08 R204, 10 R256: the bytes that a load or a wait reads as it issues; none of an operation that reads nothing then. -/
def State.readsNow (s : State) (i : Instr) : Option (List (Nat × Nat)) :=
  match i with
  | .ld _ f | .ldv _ f | .ldvs _ f | .ldx _ f | .ldg _ f | .ldgv _ f | .bwait _ f =>
    if f.space.toNat ≤ 1 then let m := theOp s i; some [((spadProbe s m).key, m.bytes)] else none
  | .await h f => some [(arrivalKey s h f, 16)]
  | .fwait _ _ => some []
  | _ => none

/-- 08 R100, R204, 10 R256: a load or a wait that reads as it issues comes after an access that has not been performed: it
stalls. -/
def State.readHeld (s : State) (i : Instr) : Bool :=
  match s.readsNow i with
  | some l => !s.lsFree s.cur.core s.cur.ctx i false l
  | none => false

/-- An operation of the M slot that enters the array queue (09 R209). -/
def isArrayOp (i : Instr) : Bool :=
  match i with | .mpset _ _ => false | _ => (slotView i).any fun v => v.cls == .m

/-- A C-slot operation (09 R229). -/
def isEngineOp (i : Instr) : Bool := (slotView i).any fun v => v.cls == .c

/-- 08 R201: a BWAIT has to wait; in device memory its word is looked at where it lies. On a page that is held its access is held
with it (11 R285). -/
def State.barrierWaits (s : State) (h : Head) (f : FM) : Bool :=
  let m := theOp s (.bwait h f)
  if f.space == 2 then
    match s.placeAt s.cur.core.die (s.stream s.cx.stream).asid m.ea true false false with
    | .held _ | .remote | .bad _ => false
    | p => !s.poisonAt p 8 &&
      !barrierPassed (BitVec.ofNat 64 (natOfBytes (s.readDev p 8))) ((s.readS h f.data 1).setWidth 16)
  else !isPoisoned s.poison (spadProbe s m).key 8 && !bwaitPasses s (.bwait h f) m

/-- 01 R20, 08 R200, R201, 09 R209, R210, R229, 10 R256: an operation that may not issue yet. A wait is tested before its
bundle issues (log entry 67); a TXFIN waits for a TXREST in the array queue, which has yet to read the CH.CFG that its
range depends on. -/
def State.opWaits (s : State) (i : Instr) : Bool :=
  s.readHeld i ||
  (isArrayOp i && (decide (8 ≤ s.cc.arrayQ.length) || (match s.cc.owner with | some o => o != s.cur.ctx | none => false))) ||
  (isEngineOp i && !s.engineRoom i) ||
  (match i with
    | .await h f => !isPoisoned s.poison (arrivalKey s h f) 16 && !awaitPasses s h f
    | .bwait h f => s.barrierWaits h f
    | .txfin _ _ => s.cc.arrayQ.any fun o => match o.instr with | .txrest _ _ => true | _ => false
    | _ => false)

/-- 01 R33: the first bundle after a decoupled body that holds a marked slot waits for the access slice. -/
def waitsForAccess (c : Ctx) (b : Bundle) : Bool :=
  c.decoupled && !c.inNest false && !c.nest.adone && b.extractLsb' 0 8 != 0

/-- 08 R207: a QDRAIN that waits discards what has come to the head of its queue. -/
def Ctx.discard (c : Ctx) (n : BitVec 2) : Ctx :=
  let q := c.q[n.toNat]'(n.isLt)
  let k := (q.ents.takeWhile fun e => e.landed && !e.token).length
  { c with q := c.q.set n.toNat (q.drop k) n.isLt }

/-- 08 R198, R207: what the presentation of a bundle does although it may not issue: a flag wait stands, a QDRAIN discards. -/
def State.presentOp (s : State) (i : Instr) : State :=
  if s.readHeld i then s
  else match i with
  | .fwait h f => s.presentWait f.tgt ((s.readS h f.a 1).setWidth 16) (f.sub == 0)
  | .qdrain _ f => s.modCx fun c => c.discard (f.a.setWidth 2)
  | _ => s

/-- A QDRAIN or an FWAIT that has presented itself still waits. -/
def State.stillWaits (s : State) (i : Instr) : Bool :=
  match i with
  | .fwait _ _ => !s.waitGranted
  | .qdrain _ f =>
    let n : BitVec 2 := f.a.setWidth 2
    (match (s.cx.q[n.toNat]'(n.isLt)).ents with | e :: _ => !(e.landed && e.token) | [] => true)
  | _ => false

/-! ### Presentation -/

/-- What the next bundle of a slice comes to. -/
inductive Shown where
  | blocked
  /-- a trap of no operation: an illegal bundle or a fetch out of bounds -/
  | trap (k : Cause)
  /-- a cause, and the operation that raises it, which takes the trap -/
  | trapOp (k : Cause) (i : Instr)
  | ready (ops : List Instr)
  deriving DecidableEq, Repr

/-- 10 R268: an acquire in a lower slot of the bundle completes before the access is performed; its race is looked for then. -/
def afterAcquire (run : List Instr) (i : Instr) : Bool :=
  run.any fun j => isAcquire j && decide ((slotOf j).toNat < (slotOf i).toNat)

/-- The cause that an operation of a bundle raises as the bundle is presented. -/
def State.causeIn (s : State) (run : List Instr) (i : Instr) : Option (Cause × Instr) :=
  ((opCause i s).filter fun k => k.code != 0x006 || !afterAcquire run i).map fun k => (k, i)

/-- 01 R20, 11 R276: the operations of a legal bundle: an operand or a result pending, a cause, a wait, or none. -/
def State.presentOps (s : State) (b : Bundle) (mine : List Instr) : State × Shown :=
  let e := s.cur
  if mine.any fun i => guardPending s.cx e.acc (headIs i) then (s, .blocked)
  else
    let run := mine.filter fun i => opRuns s (headIs i)
    if run.any fun i => (sources i).any s.cx.pending || (targets i).any s.cx.pending then (s, .blocked)
    else
      match firstCause (run.filterMap (s.causeIn run)) with
      | some k => (s, .trapOp k.1 k.2)
      | none =>
        let stuck := waitsForAccess s.cx b || run.any s.opWaits
        let s := run.foldl State.presentOp s
        if stuck || !s.cx.queuesOk run || run.any s.stillWaits then (s.modCx Ctx.landQueues, .blocked) else (s, .ready mine)

/-- 02 R48: the operations whose values are checked as they execute (reason 10). -/
def valueChecked (i : Instr) : Bool :=
  match i with
  | .setx _ _ | .setfmt _ _ | .setsr _ _ | .mpset _ _ | .txbind _ _ | .cp _ _ | .cpq _ _ | .wstr _ _ | .lsend _ _ | .frank _ _
  | .kvwalk _ _ | .kvtrunc _ _ | .strmcommit _ _ => true
  | _ => false

/-- 04 R107: an illegal bundle, whose lowest defect in its words is reason `r` in slot `k`: a value that its check refuses in a
lower slot comes first, and the bundle waits for that value (log entry 68). -/
def State.presentBad (s : State) (mine : List Instr) (k r : Nat) : State × Shown :=
  let low := mine.filter fun i => decide ((slotOf i).toNat < k) && valueChecked i
  if low.any fun i => guardPending s.cx s.cur.acc (headIs i) || (opRuns s (headIs i) && (sources i).any s.cx.pending) then
    (s, .blocked)
  else
    match low.find? fun i => opRuns s (headIs i) && valueBad s i with
    | some i => (s, .trap ⟨1, slotOf i, 0, 10⟩)
    | none => (s, .trap ⟨1, BitVec.ofNat 3 k, 0, BitVec.ofNat 64 r⟩)

/-- A fetched bundle is issued, or its trap is taken: its packet is done with, and a substitution in it is counted (18 R412). -/
def State.fetched (s : State) (asid : BitVec 12) (pc : Word) : State :=
  (s.countSubst asid [(s.placeAt s.cur.core.die asid pc false false false, 64)]).donePackets (.fetch s.cur.core s.cur.ctx s.cur.acc)

/-- A legal or illegal bundle is presented. -/
def State.presentBundle (s : State) (acc : Bool) (b : Bundle) : State × Shown :=
  let ops := bundleOps b
  let nines := (ops.filter (nestBad s)).map fun i => ((slotOf i).toNat, 9)
  match firstDefect b nines with
  | some (k, r) => s.presentBad (ofSlice s.cx acc ops) k r
  | none => s.presentOps b (ofSlice s.cx acc ops)

/-- The next bundle of a slice is presented: the walk of its page fills the TLB (18 R399). -/
def State.present (s : State) (c : CoreRef) (x : BitVec 2) (acc : Bool) : State × Shown :=
  let s : State := { s with cur := ⟨c, x, acc, codeAddr ((s.ctx c x).nextPc acc)⟩ }
  let st := s.stream (s.ctx c x).stream
  match s.fetch with
  | .bound => (s.donePackets (.fetch c x acc), .trap ⟨2, 0, s.cur.pc, 0⟩)
  | .held => (s.bringHome c x (s.routed c.die s.cur.pc) 0 0, .blocked)
  | .away => ((s.donePackets (.fetch c x acc)).sendPacket c.die (.fetch c x acc) st.tenant st.asid s.cur.pc false [], .blocked)
  | .stall => (s, .blocked)
  | .bundle b =>
    let t := (s.fillRange st.asid (s.routed c.die s.cur.pc) 64).presentBundle acc b
    if t.2 == .blocked then t else (t.1.fetched st.asid s.cur.pc, t.2)

/-! ### RFT -/

/-- 06 R152, 11 R283: RFT may clear handler mode: every result has landed, and the handler's accesses are performed. -/
def State.rftReady (s : State) (c : CoreRef) (x : BitVec 2) : Bool :=
  let k := s.ctx c x
  k.score.isEmpty &&
  !(s.reqs.any fun r => r.mine c x && r.handler) &&
  !((s.core c).cmds.any fun m => m.ctx == x && m.handler) &&
  !((s.core c).arrayQ.any fun o => o.ctx == x && o.handler) &&
  !(k.reports.any (·.handler))

/-- 08 R190: the operation that TADDR and TINFO describe. -/
def reissueOp (w : Word) : Option Instr :=
  let f : FM := ⟨w.extractLsb' 16 6, 0, 0, 2, w.extractLsb' 24 4, w.extractLsb' 28 4, w.extractLsb' 32 2, 0⟩
  match (w.extractLsb' 22 2).toNat with
  | 0 => some (.ldw ⟨4, 0, 0, 0, 0, none⟩ f)
  | 1 => some (.ldc ⟨4, 0, 0, 0, 0, none⟩ f)
  | 2 => some (.stf ⟨5, 0, 0, 0, 0, none⟩ f)
  | _ => none

/-- 08 R190: the reissue, with the `s61` that RFT read: an access of the RFT's bundle, which has retired. -/
def State.reissueFe (s : State) (addr info s61 : Word) : State :=
  match reissueOp info with
  | some i =>
    let dests := match i with | .stf _ _ => [] | _ => [Reg.s (info.extractLsb' 16 6)]
    (s.request (slotOf i) i 0 addr 2 (s61.setWidth 2048) 0 0 0 true dests).modReq s.nextId fun r =>
      { r with bundle := r.bundle - 1 }
  | none => s

/-- 06 R152, 08 R190, 11 R284: RFT leaves handler mode. A reissue is of the slice that resumes at TPC. -/
def State.endRft (s : State) (c : CoreRef) (x : BitVec 2) (s61 : Word) : State :=
  let k := s.ctx c x
  let s := s.modCtx c x fun k => { k.landAll.leaveTrap with rftWait := none }
  if k.tcause == 0x110 && k.tinfo.getLsbD 63 then
    let n := s.ctx c x
    { s with cur := ⟨c, x, k.aslice && n.decoupled && n.inNest true, k.tpc⟩ }.reissueFe k.taddr k.tinfo s61
  else s

/-- An RFT that a context waits for may leave handler mode. -/
def State.rftDue (s : State) (c : CoreRef) (x : BitVec 2) : Bool := (s.ctx c x).rftWait.isSome && s.rftReady c x

/-- The RFT that a context waits for leaves handler mode when it may. -/
def State.settleRft (s : State) (c : CoreRef) (x : BitVec 2) : State :=
  match (s.ctx c x).rftWait with
  | some w => if s.rftReady c x then s.endRft c x w else s
  | none => s

/-! ### Issue -/

/-- The wait is a part of the operation that its slice has issued last: no boundary is reached before it ends. -/
def Wait.stops : Wait → Bool | .array _ => true | .strm _ => true | _ => false

/-- 08 R203, 10 R267: a slice that stands at a barrier whose phase is complete goes on, which is an acquire. -/
def State.passBarrier (s : State) (c : CoreRef) (x : BitVec 2) : State :=
  let ended := fun (w : Wait) => match w with | .hbar g ph => s.phaseDone (s.ctx c x).stream g ph | _ => false
  if ended (s.ctx c x).waitX || ended (s.ctx c x).waitA then
    s.modCtx c x fun k => { k.acquired s.time with
      waitX := if ended k.waitX then .none else k.waitX
      waitA := if ended k.waitA then .none else k.waitA }
  else s

/-- 01 R30, 11 R278: an access of a slice's bundle belongs to the access slice that runs now. -/
def Ctx.ofAccess (c : Ctx) (acc : Bool) (bundle : Nat) : Bool :=
  acc && c.decoupled && c.inNest true && decide (c.nestA ≤ bundle)

/-- 01 R20, R30: a slice is blocked by what it has issued: a wait, a BWAIT or AWAIT made as a request, or a full/empty operation whose
first attempt has failed and which has not succeeded (08 R189). -/
def State.sliceBlocked (s : State) (c : CoreRef) (x : BitVec 2) (acc : Bool) : Bool :=
  let k := s.ctx c x
  (if acc then k.waitA else k.waitX) != .none ||
  s.reqs.any fun r => r.mine c x && k.ofAccess r.acc r.bundle == acc &&
    ((r.failed && r.phase != .performed) || (match r.instr with | .bwait _ _ | .await _ _ => true | _ => false))

/-- 01 R20: the context may be presented: it runs, no RFT of it waits, and no cause is to be taken first. -/
def State.eligible (s : State) (c : CoreRef) (x : BitVec 2) : Bool :=
  let k := s.ctx c x
  k.life == .running && k.rftWait.isNone && k.takable.isEmpty

/-- The next bundle of a slice of a context: of the execute or only slice, or of the access slice while it walks. -/
def State.view (s : State) (c : CoreRef) (x : BitVec 2) (acc : Bool) : State × Shown :=
  let k := s.ctx c x
  if (acc && !(k.decoupled && k.inNest true)) || s.sliceBlocked c x acc then (s, .blocked) else s.present c x acc

/-- 01 R21, R30, 04 R99: two bundles of one cycle that would use a slot twice, or that pop more from a queue together than it
holds, or push more than it has room for. The spec gives each slice that is not blocked its bundle, and each slot one use in a
cycle: where both cannot be, this model issues the execute slice's bundle, and the access slice's in a later cycle (log entry
69). -/
def State.clash (s : State) (ea ex : Env) (a b : List Instr) : Bool :=
  let runs := fun (e : Env) (l : List Instr) => l.filter fun i => opRuns { s with cur := e } (headIs i)
  (a.any fun i => b.any fun j => i != .nop && j != .nop && slotOf i == slotOf j) ||
  !(s.ctx ex.core ex.ctx).queuesOk (runs ea a ++ runs ex b)

/-- The operations of the bundles of a cycle, in slot order, each in its environment. -/
def inSlotOrder (l : List (Env × Instr)) : List (Env × Instr) :=
  (List.range 8).flatMap fun k => l.filter fun x => slotOf x.2 == BitVec.ofNat 3 k

/-- The bundles of a cycle are being issued. -/
def State.latch (s : State) (ex ea : Env) (runX runA : Bool) (x a : List Instr) : State :=
  { s with issue := some { Issue.fresh (if runX then ex else ea) with
      ops := inSlotOrder ((x.map fun i => (ex, i)) ++ (a.map fun i => (ea, i))), runX := runX, runA := runA } }

/-- A trap of no operation is taken at the bundle. -/
def State.trapNow (s : State) (e : Env) (k : Cause) : State :=
  let t := { s with cur := e }.takeTrap k e.pc
  { t with issue := none, cur := s.cur }

/-- The bundle of one slice is being issued, and the trap of the other follows it (11 R277). -/
def State.latchTrap (s : State) (e : Env) (l : List Instr) (at_ : Env) (k : Cause) : State :=
  (s.latch e e (!e.acc) e.acc (if e.acc then [] else l) (if e.acc then l else [])).modIss fun i => { i with trap := some (at_, k) }

/-- 01 R21, R30: a context is offered the issue width: the state, and whether it takes it. Each slice that is not blocked
issues its bundle or raises its trap; where both trap, the access slice's is taken, and the other is found again after RFT
(log entry 69). -/
def State.offer (s : State) (c : CoreRef) (x : BitVec 2) : State × Bool :=
  let s := (s.settleRft c x).passBarrier c x
  if !s.eligible c x then (s, false)
  else
    let a := s.view c x true
    let ea := a.1.cur
    let b := a.1.view c x false
    let eb := b.1.cur
    let t := b.1
    match a.2, b.2 with
    | .blocked, .blocked => (t, false)
    | .ready l, .blocked => (t.latch ea ea false true [] l, true)
    | .blocked, .ready m => (t.latch eb eb true false m [], true)
    | .ready l, .ready m => (if t.clash ea eb l m then t.latch eb eb true false m [] else t.latch eb ea true true m l, true)
    | .ready l, .trap k | .ready l, .trapOp k _ => (t.latchTrap ea l eb k, true)
    | .trap k, .ready m | .trapOp k _, .ready m => (t.latchTrap eb m ea k, true)
    | .trap k, _ => (t.trapNow ea k, true)
    | .trapOp _ i, _ => (t.latch ea ea false true [] [i], true)
    | .blocked, .trap k => (t.trapNow eb k, true)
    | .blocked, .trapOp _ i => (t.latch eb eb true false [i] [], true)

/-- The context is ready (01 R20). -/
def State.ready (s : State) (c : CoreRef) (x : BitVec 2) : Bool := (s.core c).freeze.isNone && (s.offer c x).2

/-- 01 R21, R22: the contexts in the order in which they are offered the issue width, where `k.sel` had it. After a cycle in
which no context was ready the spec does not place that context among the others: this model offers it the width first, as
while it runs (log entry 70). -/
def selectOrder (k : Core) : List (BitVec 2) :=
  if 4096 ≤ k.quantum then [k.sel + 1, k.sel + 2, k.sel + 3, k.sel] else [k.sel, k.sel + 1, k.sel + 2, k.sel + 3]

/-- 01 R21: the first context that takes the issue width. -/
def State.select (s : State) (c : CoreRef) : List (BitVec 2) → State
  | [] => s
  | x :: r =>
    let t := s.offer c x
    if t.2 then t.1.modCore c fun k => { k with sel := x, quantum := if k.sel == x then k.quantum else 0 }
    else t.1.select c r

/-- BUNDLE_ISSUE (01 R21): the bundle, or the bundle of each slice, that the core issues in this cycle. -/
def execBundleIssue (c : CoreRef) (s : State) : Out :=
  .next (if s.issue.isSome || (s.core c).freeze.isSome then s
    else { s.select c (selectOrder (s.core c)) with cur := s.cur })

/-- YIELD_QUANTUM (01 R22): at its yield point the running context yields to the first other that is ready. -/
def execYieldQuantum (c : CoreRef) (s : State) : Out :=
  .next (
    let k := s.core c
    if s.issue.isSome || decide (k.quantum < 4096) then s
    else
      match [k.sel + 1, k.sel + 2, k.sel + 3].find? (s.ready c) with
      | some x => s.setCore c { k with sel := x, quantum := 0 }
      | none => s)

/-! ### Retirement -/

/-- 06 R142: LOOP takes effect. -/
def Ctx.startNest (c : Ctx) (pc : Word) (imm : BitVec 40) : Ctx :=
  let depth := imm.extractLsb' 6 3
  let len := imm.extractLsb' 0 6
  let n := depth.toNat + 1
  let count := Vector.ofFn fun (l : Fin 6) => if l.val < n then c.lcnt.getD l.val 0 else 0
  let after := pc + 64 * (len.setWidth 64 + 2)
  if (List.range n).any fun l => count.getD l 0 == 0 then { c with pc := after }
  else
    { c with
      pc := pc + 64, wrote := [], issueA := c.issueX, nestA := c.countA, countA := c.countA + 1
      fmtOld := c.fmtOld.map fun e => { e with untilA := e.untilX }
      nest := { Nest.none with
        active := true, dec := imm.getLsbD 9, depth := depth, len := len, count := count, body := pc + 64 } }

/-- 06 R143: LOOPBRK takes effect. -/
def Ctx.breakNest (c : Ctx) : Ctx :=
  if c.inNest false then
    let after := c.nest.body + 64 * (c.nest.len.setWidth 64 + 1)
    if c.nest.dec then { c with pc := after, nest := { c.nest with xdone := true } }
    else { c.endNest true with pc := after }
  else c.advance false

/-- 01 R26, R27, R33, R34: the access slice's bundle retires. -/
def Ctx.retireA (c : Ctx) (stay : Bool) : Ctx :=
  let c : Ctx := { c with issueA := c.issueA + 1, countA := c.countA + 1 }
  let c := (c.landOvertaken true).landDue true
  if stay then c else c.advance true

/-- The bundle of the execute or only slice retires: where it goes on. -/
def Ctx.retireX (c : Ctx) (i : Issue) : Ctx :=
  let c := { c with issueX := c.issueX + 1 }.landDue false
  if i.stay then c
  else
    match i.loop, i.branch with
    | some imm, _ => c.startNest i.env.pc imm
    | none, some t => { (if c.nest.active && !c.decoupled then c.endNest true else c) with pc := t }
    | none, none => if i.loopBrk then c.breakNest else c.advance false

/-- 01 R33: a decoupled nest ends when both slices have left it. -/
def Ctx.joinNest (c : Ctx) : Ctx := if c.decoupled && c.nest.adone && c.nest.xdone then c.endNest true else c

/-- 01 R34: the pops of the bundles take effect. -/
def Ctx.popAll (c : Ctx) (n : Vector Nat 4) : Ctx :=
  { c with q := Vector.ofFn fun j => (c.q.getD j.val OpQueue.empty).drop (n.getD j.val 0) }

/-- 01 R31: the registers that the operations of a decoupled body write, each with its slice. A body that cannot be read whole as
the nest begins may write any register (log entry 80). -/
def State.bodyWrites (s : State) (c : CoreRef) (x : BitVec 2) : List Wrote :=
  let n := (s.ctx c x).nest
  (List.range (n.len.toNat + 1)).flatMap fun j =>
    match ({ s with cur := ⟨c, x, false, codeAddr (n.body + BitVec.ofNat 64 (64 * j))⟩ } : State).fetch with
    | .bundle b => (bundleOps b).flatMap fun i => (writesOf i).map fun r => ⟨(headIs i).acc == 1, r⟩
    | .held | .away | .stall => [⟨false, .none⟩, ⟨true, .none⟩]
    | .bound => []

/-- A decoupled nest that a LOOP has just begun marks what each slice writes in it. -/
def State.markBody (s : State) (c : CoreRef) (x : BitVec 2) (i : Issue) : State :=
  if i.loop.isSome && (s.ctx c x).decoupled then s.modCtx c x fun k => { k with wrote := s.bodyWrites c x } else s

/-- What the retirement does to the context. -/
def Ctx.retire (c : Ctx) (i : Issue) : Ctx :=
  let safe := i.safept && c.preempt
  let rft := if i.rft then some (c.s.getD 61 0) else c.rftWait
  let c := c.popAll i.pop
  let c := if i.runA then c.retireA false else c
  let c := if i.runX then c.retireX i else c
  let c := c.joinNest
  let c := { c with charge := c.charge + 1, rftWait := rft }
  if i.halt then { c with life := .leaving }
  else if safe then { c with life := .saving, resumePc := c.nextPc false }
  else c

/-- 11 R277: the trap of one slice, when the bundle of the other has completed. -/
def State.followTrap (s : State) (i : Issue) : State :=
  match i.trap with
  | some (e, k) => if (s.ctx e.core e.ctx).life == .running then s.trapNow e k else s
  | none => s

/-- The bundles of a cycle retire; a bundle that a trap has taken the place of leaves nothing. -/
def State.retire (s : State) : State :=
  match s.issue with
  | none => s
  | some i =>
    let s : State := { s with issue := none }
    let c := i.env.core
    let x := i.env.ctx
    if i.void || (s.ctx c x).life != .running then s
    else
      let s := ((s.modCtx c x fun k => k.retire i).markBody c x i).followTrap i
      let s := s.modCore c fun k => { k with quantum := k.quantum + 1 }
      if i.yield then
        let k := s.core c
        match [x + 1, x + 2, x + 3].find? (s.ready c) with
        | some y => s.setCore c { k with sel := y, quantum := 0 }
        | none => s.setCore c { k with quantum := 0 }
      else s

/-! ### Attributed traps -/

/-- 11 R280: the report of the access that issued first; of one GATH or SCAT, of the lower element. -/
def pickReport (l : List Report) : Option Report :=
  l.foldl (fun best r => match best with
    | some b => if decide (r.id < b.id) || (r.id == b.id && decide (r.elem < b.elem)) then some r else some b
    | none => some r) none

/-- 11 R278: how many bundles the slice has issued since the access's. A scratchpad race has no distance (11 R272). -/
def Ctx.dist (c : Ctx) (r : Report) : Nat :=
  if r.cause.code.getLsbD 8 then min 65535 ((if r.acc then c.countA else c.issueX) - r.bundle - 1) else 0

/-- 08 R189: the store data of an STF stand in the handler's `s61`. -/
def Ctx.giveData (c : Ctx) (r : Report) : Ctx :=
  if r.cause.code == 0x110 && r.cause.info.extractLsb' 22 2 == 2 then { c with s := c.s.setIfInBounds 61 r.data } else c

/-- ATTRIBUTED_TRAP (11 R278, R280): the first of the causes reported to a context is taken at a bundle boundary. -/
def execAttributedTrap (x : CtxRef) (s : State) : Out :=
  .next (
    let c := coreOf x
    let k := s.ctx c x.ctx
    match pickReport k.takable with
    | none => s
    | some r =>
      if s.issue.isSome || k.life != .running || k.waitX.stops || k.waitA.stops then s
      else
        let acc := k.ofAccess r.acc r.bundle
        let pc := k.nextPc acc
        let t := s.modCtx c x.ctx fun k => { k with reports := k.reports.erase r }
        let t := { t with cur := ⟨c, x.ctx, acc, pc⟩ }.takeTrap { r.cause with info := r.cause.info ||| BitVec.ofNat 64 (k.dist r) } pc
        let t := if (t.ctx c x.ctx).life == .running then t.modCtx c x.ctx fun k => k.giveData r else t
        { t with cur := s.cur, issue := none })

end Sys2Proof.Machine
end

