-- ==== Sys2Proof/Machine/Context.lean ====
section
/-! DEFINITION. The life of contexts and streams (01 R13 to R17, 02 R45, R61 to R64, R435, 11 R286 to R294): start,
leaving, retirement, charges, saving and restoring, pre-emption timeouts; the slot table's rounds and turns (01 R36); and
freezes (18 R413). -/
namespace Sys2Proof.Machine

/-! ### Queue words (17 R366) -/

def QueueRec.urgent (q : QueueRec) : Bool := q.word.getLsbD 8
def QueueRec.prio (q : QueueRec) : Nat := (q.word.extractLsb' 9 3).toNat
def QueueRec.mayPreempt (q : QueueRec) : Bool := q.urgent && q.word.getLsbD 12
def QueueRec.weight (q : QueueRec) : Nat := (q.word.extractLsb' 16 16).toNat
def QueueRec.pdeadline (q : QueueRec) : Nat := (q.word.extractLsb' 32 32).toNat
/-- 17 R380: the quantum of a queue. -/
def QueueRec.quantum (q : QueueRec) : Int := q.weight * 65536

/-! ### Charges -/

/-- 17 R382: a stream is charged to its queue. -/
def State.charge (s : State) (key : Nat) : State :=
  let st := s.stream key
  let cs := s.ctxsOf key
  let n := st.carry + (cs.map fun e => (s.ctx e.1 e.2).charge).foldl (· + ·) 0
  let s := cs.foldl (fun s e => s.modCtx e.1 e.2 fun k => { k with charge := 0 }) s
  let s := s.modStream key fun x => { x with carry := n % 16, lastCharge := s.time }
  s.modQ st.die st.q fun q =>
    if q.urgent || q.state == .free || q.state == .disabled then q
    else { q with deficit := max (q.deficit - (n / 16 : Nat)) (-4 * q.quantum) }

/-- 17 R382: the issue cycles of a context that gives up its slot count at the stream's next charge. -/
def State.carryCharge (s : State) (c : CoreRef) (x : BitVec 2) : State :=
  let k := s.ctx c x
  s.modStream k.stream fun st => { st with carry := st.carry + k.charge }

/-- STREAM_CHARGE (17 R382): every 65,536 cycles. -/
def execStreamCharge (key : Nat) (s : State) : Out :=
  .next (
    let st := s.stream key
    if (s.streams.any fun x => x.key == key) && !st.out && decide (st.lastCharge + 65536 ≤ s.time) then s.charge key else s)

/-! ### Start -/

/-- 02 R45, R52, 01 R13: the state of a context at stream start. -/
def startCtx (st : Stream) (rank : Nat) (coreIdx clusterIdx : Nat) (startAt : Nat) (bce : BitVec 3) : Ctx :=
  { Ctx.idle with
    life := .reserved, stream := st.key, rank := BitVec.ofNat 8 rank, coreIdx := BitVec.ofNat 8 coreIdx
    clusterIdx := BitVec.ofNat 4 clusterIdx, rowsize := BitVec.ofNat 9 st.cores.length, startAt := startAt
    s := (Vector.replicate 64 0).set 1 st.param, b := Vector.replicate 4 st.codeBase, pc := st.entry
    codeBase := st.codeBase, codeLimit := st.codeLimit, tvec := st.tvec
    saveArea := st.saveBase + BitVec.ofNat 64 (131072 * rank), owns := st.owns, streamId := st.streamId, bce := bce }

/-- CONTEXT_START (01 R15): at its start time a reserved context becomes ready. -/
def execContextStart (x : CtxRef) (s : State) : Out :=
  .next (
    let c := coreOf x
    let k := s.ctx c x.ctx
    if k.life == .reserved && !k.preempt && decide (k.startAt ≤ s.time) then
      s.setCtx c x.ctx { k with life := .running, acqTime := k.startAt, gsAcqTime := k.startAt }
    else s)

/-! ### Leaving and retirement -/

/-- 17 R375: a completion due to be written by the Postmaster. -/
def State.due (s : State) (d : BitVec 2) (m : QCmd) : State :=
  let m := { m with id := s.nextId, phase := CmdPhase.due }
  { s with nextId := s.nextId + 1 }.modDie d fun x => { x with qcmds := x.qcmds ++ [m] }

/-- 17 R376: the record of a stream: KIND 1 when it has retired, KIND 2 when it was killed. -/
def streamDone (st : Stream) : QCmd :=
  { id := 0, q := st.q, index := st.index, cmd := st.header.setWidth 512, pos := 0, status := 0, phase := .due, bce := none, pages := []
    stream := st.streamId.toNat, kind := if st.kill.isSome then 2 else 1, a := if st.kill.isSome then st.struck else 0, b := 0
    regs := if st.kill.isSome then st.regs else Vector.replicate 4 0 }

/-- 01 R16, 17 R375, R382: a stream whose last context has left retires. A kill by a function reset leaves no record
(11 R294). -/
def State.retireStream (s : State) (key : Nat) : State :=
  let st := s.stream key
  if !(s.streams.any fun x => x.key == key) || !(s.ctxsOf key).isEmpty || (st.out && st.kill.isNone) then s
  else
    let s := s.charge key
    let s := s.modQ st.die st.q fun q => { q with resume := q.resume.filter (· != key) }
    let s : State := { s with streams := s.streams.filter fun x => x.key != key }
    if st.kill == some 7 then s
    else
      let s := s.modQ st.die st.q fun q =>
        if st.kill.isSome then { q with killed := q.killed + 1 } else { q with retired := q.retired + 1 }
      s.due st.die (streamDone st)

/-- 17 R389: a stream that a KILL ends is killed once every one of its contexts is at a safe point, or has left. -/
def State.killAtSafePoints (s : State) (key : Nat) : State :=
  match s.ctxsOf key with
  | [] => s
  | e :: r =>
    let safe := fun (e : CoreRef × BitVec 2) => match (s.ctx e.1 e.2).life with
      | .saving | .saved | .reserved | .restoring => true
      | _ => false
    if safe e && r.all safe then s.killStream key 6 e else s

/-- 11 R292: a stream all of whose contexts have been saved or have left is pre-empted: its slots are freed, and it
waits in its queue. -/
def State.checkOut (s : State) (key : Nat) : State :=
  let st := s.stream key
  let cs := s.ctxsOf key
  if (s.qrec st.die st.q).killing then s.killAtSafePoints key
  else if st.preempt.isSome && !cs.isEmpty && cs.all fun e => (s.ctx e.1 e.2).life == .saved then
    let s := s.charge key
    let s := cs.foldl (fun s e => s.setCtx e.1 e.2 Ctx.idle) s
    let s := s.modStream key fun x => { x with out := true, preempt := none }
    s.modQ st.die st.q fun q => { q with resume := q.resume ++ [key] }
  else s

/-- 06 R153, 11 R294: everything that a leaving context waits for has ended. -/
def State.mayLeave (s : State) (c : CoreRef) (x : BitVec 2) : Bool :=
  (s.ctx c x).life == .leaving &&
  !(s.reqs.any fun r => r.mine c x && r.phase != .parked) &&
  !((s.core c).cmds.any fun m => m.ctx == x) && !((s.core c).arrayQ.any fun o => o.ctx == x)

/-- CONTEXT_LEAVE (01 R16): the context leaves its stream; the last one retires it. -/
def execContextLeave (x : CtxRef) (s : State) : Out :=
  .next (
    let c := coreOf x
    if !s.mayLeave c x.ctx then s
    else
      let k := s.ctx c x.ctx
      let s := (s.unpark c x.ctx).carryCharge c x.ctx
      let s : State := { s with reqs := s.reqs.filter fun r => !r.mine c x.ctx }
      let s := if (s.core c).owner == some x.ctx then s.discardChain c else s
      let s := s.modCore c fun k => { k.setCtx x.ctx Ctx.idle with fwaits := k.fwaits.filter fun w => w.ctx != x.ctx }
      let s := s.modStream k.stream fun st => { st with left := st.left ++ [k.rank.toNat] }
      (s.checkOut k.stream).retireStream k.stream)

/-! ### Saving -/

/-- 02 R61, 11 R291: the save area is usable: 0, or the first check that fails. -/
def State.saveCheck (s : State) (asid : BitVec 12) (a : Word) : Nat :=
  let pages := [a, a + 65536]
  let leaves := pages.map fun p =>
    if !p.getLsbD 63 && localForm s p && (s.die (vaDie p)).up then s.leaf (vaDie p) asid (vaOff p) else none
  let every := fun (f : Pte → Bool) => leaves.all fun l => match l with | some l => f l.pte | none => false
  if a.toNat % 65536 != 0 then 1
  else if (pages.zip leaves).any fun x => !x.1.getLsbD 63 && x.2.isNone then 6
  else if !every fun e => e.kind == 2 then 2
  else if !every fun e => e.saveArea then 3
  else if !every fun e => e.pin then 4
  else if !every fun e => e.w then 5
  else 0

/-- 18 R409: a stack that the save area lies in quiesces. -/
def State.areaStill (s : State) (a : Word) : Bool := s.devStill (vaDie a) && s.devStill (vaDie (a + 65536))

/-- 11 R289: the park records of a context are withdrawn; each PARK returns 4. -/
def State.withdrawParks (s : State) (c : CoreRef) (x : BitVec 2) : State :=
  (s.reqs.filter fun r => r.core == c && r.ctx == x && r.phase == .parked).foldl (fun s r =>
    let d := vaDie r.va
    let s := (s.removeRecs d fun y => y.req == r.id).modReq r.id fun q => { q with phase := .performed, res2 := 4 }
    match s.leaf d r.asid (vaOff r.va) with
    | some l => s.settleWaited d r.asid r.va (s.tagAt d l (vaOff r.va))
    | none => s) s

/-- The matrix FIFOs' entries that a command has pushed, or holds to push. -/
def Core.entriesOf (k : Core) (m : Command) : List FifoEntry :=
  ((k.fs ++ k.fa ++ k.fb ++ k.fc).filter fun e => !e.link && e.cmd == m.id) ++ m.outA ++ m.outB

/-- 11 R288, R290: nothing of the context is under way but feeds of its chain. -/
def State.quiet (s : State) (c : CoreRef) (x : BitVec 2) : Bool :=
  let k := s.core c
  (s.ctx c x).score.isEmpty && (s.ctx c x).waitX == .none && (s.ctx c x).waitA == .none &&
  !(s.reqs.any fun r => r.mine c x) &&
  !(k.arrayQ.any fun o => o.ctx == x) &&
  k.cmds.all fun m => m.ctx != x ||
    (isFeed m.instr && k.owner == some x && m.err.isNone && (!m.done || !(k.entriesOf m).isEmpty))

/-- 11 R290: a feed suspended at its first entry that no committed block has consumed. -/
def suspendFeed (k : Core) (m : Command) : Command :=
  let back := (k.entriesOf m).map (·.idx)
  let m' : Command := { m with susp := true, done := false, fill := 0, part := 0, partPoison := false, outA := [], outB := [] }
  match m.instr with
  | .cpq _ _ =>
    let per := 256 / (copyDesc m.desc).esize
    { m' with pos := per * back.foldl min (m.pos / per) }
  | .wstr _ _ => { m' with pos := 0, skip := back.foldl min (max m.pos m.skip) }
  | _ => { m' with pos := back.foldl min m.pos }

/-- 02 R63: the channels from which the chain bound on a core reads FA and FB. Where both are one channel, which of its
entries are FA data cannot be told before blocks take them: they are all of the FA run (log entry 71). -/
def State.spillChans (s : State) (c : CoreRef) : Option Nat × Option Nat :=
  let g := (s.core c).chain.cfg
  let kc := (cfgKChan g).filter (s.ownLink c)
  (kc, ((cfgVChan g).filter (s.ownLink c)).filter fun i => kc != some i)

/-- The entries of a link channel, and the channel without them (02 R63). -/
def chanEntries (x : Die) (i : Option Nat) : List LinkEntry := match i with | some i => (x.chan i).ents | none => []

/-- 02 R63: the link entries of a channel leave its buffer, and their credits stay withheld. -/
def withholdChan (x : Die) (i : Option Nat) (mate : Option Nat) : Die :=
  match i with
  | none => x
  | some i =>
    let l := x.chan i
    x.setChan i { l with ents := [], withheld := l.withheld + l.ents.length, mate := mate, gone := l.gone + l.ents.length }

/-- 02 R61 to R64: the image of a context in its save area, with the poison of its bytes. -/
def saveImage (s : State) (c : CoreRef) (x : BitVec 2) (pc : Word) (chain : Bool) (fa fb : List LinkEntry) : List (Byte × Bool) :=
  let core := s.core c
  let k := core.getCtx x
  let units := 4 * (fa.length + fb.length)
  let clean := fun (l : List Byte) => l.map fun b => (b, false)
  let head := wordsBytes 8 [1, k.streamId.toNat, x.toNat + 256 * k.rank.toNat, s.time, pc.toNat,
    units + (if fa.isEmpty && fb.isEmpty then 0 else 2 ^ 16) + (if chain then 2 ^ 17 else 0), 4 * fa.length]
  let spill := (fa ++ fb).flatMap fun e => (bytesOfNat e.val.toNat 256).map fun b => (b, e.poison)
  clean (head ++ pad (256 - head.length) ++ windowBytes core x ++ queueContents k ++
    (if chain then chainImage core.chain else pad imageBytes) ++ pad 3072) ++ spill ++
    clean (pad (49152 - spill.length))

/-- 11 R288, R290: the Triptych of an owner that is saved: its feeds are suspended, its FIFOs emptied and its link
entries taken; the channels whose credits stay withheld. -/
def State.suspendChain (s : State) (c : CoreRef) (x : BitVec 2) : State × List Nat :=
  let k := s.core c
  let ch := s.spillChans c
  let feeds := (k.cmds.filter fun m => m.ctx == x).map (suspendFeed k)
  let s := s.dropPins (k.fs ++ k.fa ++ k.fb ++ k.fc ++ (k.cmds.filter fun m => m.ctx == x).flatMap fun m => m.outA ++ m.outB)
  let s := s.modStream (s.ctx c x).stream fun st => { st with feeds := st.feeds ++ feeds.map fun m => (c.core, m) }
  let s := s.modDie c.die fun d => withholdChan (withholdChan d ch.1 ch.2) ch.2 ch.1
  (s.modCore c fun k => { k with
    fs := [], fa := [], fb := [], fc := [], owner := none, stepDone := 0, cmds := k.cmds.filter fun m => m.ctx != x },
    ch.1.toList ++ ch.2.toList)

/-- 11 R288: the save itself, once everything has ended: reservations end with it on every die. -/
def State.writeSave (s : State) (c : CoreRef) (x : BitVec 2) (pc : Word) : State :=
  let s := s.modCtx c x Ctx.landAll
  let k := s.ctx c x
  let st := s.stream k.stream
  let own := (s.core c).owner == some x
  let ch := if own then s.spillChans c else (none, none)
  let img := saveImage s c x pc own (chanEntries (s.die c.die) ch.1) (chanEntries (s.die c.die) ch.2)
  let s := match s.span st.asid k.saveArea 131072 false true false with
    | .ok l => (((s.fillRange st.asid k.saveArea 131072).storePieces l img)).countPoison s.poison st.asid l
    | _ => s
  let t := if own then s.suspendChain c x else (s, [])
  let s := (t.1.unpark c x).carryCharge c x
  let s := s.modCtx c x fun k => { k with life := .saved, preempt := false, charge := 0 }
  let s := s.modStream k.stream fun st => { st with
    saved := st.saved ++ [⟨k.rank.toNat, k.saveArea, k.hbarPhase, k.issueX, k.countA, t.2⟩] }
  (s.charge k.stream).checkOut k.stream

/-- 11 R291, 17 R376: a pre-emption abandoned: the context goes on, and the Postmaster writes a KIND 3 record. -/
def State.abandonSave (s : State) (c : CoreRef) (x : BitVec 2) (life : Life) (chk : Nat) : State :=
  let k := s.ctx c x
  let st := s.stream k.stream
  let s := s.setCtx c x { k with life := life, preempt := false }
  let s := s.due st.die { streamDone st with kind := 3, index := st.index, a := struckWord 0 k x, b := BitVec.ofNat 64 chk }
  (s.count st.die 21 1).sends (.abandoned ⟨c.die, c.core, x⟩ chk)

/-- CONTEXT_SAVE (11 R287 to R291). A context still being restored keeps its save area as it is. -/
def execContextSave (x : CtxRef) (s : State) : Out :=
  .next (
    let c := coreOf x
    let s := s.passBarrier c x.ctx
    let k := s.ctx c x.ctx
    let st := s.stream k.stream
    if s.issue.isSome then s
    else if (s.qrec st.die st.q).killing && k.preempt && k.life != .running && k.life != .leaving then s.killAtSafePoints k.stream
    else if k.life == .restoring && k.preempt then
      (s.setCtx c x.ctx { k with life := .saved, preempt := false }).checkOut k.stream
    else if !(k.life == .saving || (k.life == .reserved && k.preempt)) then s
    else
      let back := if k.life == .saving then Life.running else .reserved
      let pc := if k.life == .saving then k.resumePc else k.pc
      let chk := s.saveCheck st.asid k.saveArea
      if chk != 0 then s.abandonSave c x.ctx back chk
      else
        let s := s.withdrawParks c x.ctx
        if !s.quiet c x.ctx || !s.areaStill k.saveArea then s
        else
          match pickReport (s.ctx c x.ctx).reports with
          | some r =>
            let s := s.modCtx c x.ctx fun k => { k with life := back, reports := k.reports.erase r }
            let t := { s with cur := ⟨c, x.ctx, false, pc⟩ }.takeTrap
              { r.cause with info := r.cause.info ||| BitVec.ofNat 64 (k.dist r) } pc
            { t.modCtx c x.ctx fun k => k.giveData r with cur := s.cur, issue := none }
          | none => s.writeSave c x.ctx pc)

/-! ### Restoring -/

def zeroAt (l : List Byte) (off n : Nat) : Bool := natAt l off n == 0

/-- 02 R435: the state of queue `n` in an image is malformed. -/
def queueBad (l : List Byte) (n : Nat) : Bool :=
  let occ := natAt l (0x800 + 16 * n) 1
  decide (16 < occ) || decide (15 < natAt l (0x801 + 16 * n) 1) || natAt l (0x802 + 16 * n) 2 >>> occ != 0 ||
  !zeroAt l (0x804 + 16 * n) 12 || !zeroAt l (0x3000 + 4096 * n + 256 * occ) (4096 - 256 * occ)

/-- 09 R227: the FMT.PFMT of an image, which its CH.CFG is resolved from. -/
def imagePfmt (l : List Byte) : BitVec 4 := BitVec.ofNat 4 (natAt l 0x541 1)

/-- 02 R62, R435: a save area passes the format check. An SPILLN above 768 and a chain state image whose CH.CFG 09 R221
rejects, which R62 does not list, fail it too (log entry 72). -/
def imageOk (l : List Byte) : Bool :=
  let w := fun off => natAt l off 8
  let small := fun (off bits : Nat) => decide (w off < 2 ^ bits)
  let spilln := w 0x28 % 65536
  w 0 == 1 && small 0x10 16 && small 0x28 18 && decide (spilln ≤ 768) && decide (w 0x30 ≤ spilln) && zeroAt l 0x38 200 &&
  zeroAt l 0x330 16 && small 0x340 16 && zeroAt l 0x348 8 && zeroAt l 0x370 16 &&
  ((List.range 4).all fun i => natAt l (0x3C0 + 16 * i) 16 < 2 ^ 123) &&
  small 0x540 16 && small 0x560 16 && small 0x568 5 && ((List.range 6).all fun i => small (0x570 + 8 * i) 32) &&
  small 0x5A0 9 && small 0x5B0 3 && small 0x5C8 3 && BitVec.ofNat 64 (w 0x5C0) &&& ~~~tinfoMask (BitVec.ofNat 64 (w 0x5A0)) == 0 && small 0x5D0 1 && zeroAt l 0x5D8 40 && zeroAt l 0x6D8 40 &&
  ((List.range 8).all fun i => natAt l (0x640 + 16 * i) 16 < 2 ^ 29) &&
  zeroAt l 0x700 256 && zeroAt l 0x840 1984 && zeroAt l 0x13400 3072 &&
  decide (natAt l 0x530 1 < 16) && decide (natAt l 0x531 1 < 6) && decide (natAt l 0x532 1 < 64) &&
  decide (natAt l 0x533 1 ≤ natAt l 0x532 1) && decide (natAt l 0x534 1 ≤ natAt l 0x532 1) && zeroAt l 0x535 3 &&
  natAt l 0x538 8 % 64 == 0 && ((List.range 4).all fun n => !queueBad l n) &&
  (!(w 0x28).testBit 17 || (chainOfImage ((l.drop 0x7000).take imageBytes) (imagePfmt l)).isSome)

/-- 02 R435: a nest from its image. -/
def nestOf (l : List Byte) : Nest :=
  let x := Vector.ofFn fun (i : Fin 6) => BitVec.ofNat 32 (natAt l (0x518 + 4 * i.val) 4)
  let f := natAt l 0x530 1
  if f % 2 == 0 then { Nest.none with xidx := x }
  else
    { active := true, dec := f.testBit 1, adone := f.testBit 2, xdone := f.testBit 3
      depth := BitVec.ofNat 3 (natAt l 0x531 1), len := BitVec.ofNat 6 (natAt l 0x532 1)
      count := Vector.ofFn fun i => BitVec.ofNat 32 (natAt l (0x500 + 4 * i.val) 4), xidx := x
      aidx := Vector.ofFn fun i => BitVec.ofNat 32 (natAt l (0x6C0 + 4 * i.val) 4)
      xpos := BitVec.ofNat 6 (natAt l 0x533 1), apos := BitVec.ofNat 6 (natAt l 0x534 1)
      body := BitVec.ofNat 64 (natAt l 0x538 8) }

/-- 02 R435: a queue from its image. -/
def queueOf (l : List Byte) (n : Nat) : OpQueue :=
  let tok := natAt l (0x802 + 16 * n) 2
  { head := BitVec.ofNat 4 (natAt l (0x801 + 16 * n) 1)
    ents := (List.range (natAt l (0x800 + 16 * n) 1)).map fun i =>
      ⟨0, BitVec.ofNat 2048 (natAt l (0x3000 + 4096 * n + 256 * i) 256), tok.testBit i, true⟩ }

/-- 02 R64: a context with the registers of its image. -/
def ctxOfImage (k : Ctx) (l : List Byte) : Ctx :=
  let w := fun off => BitVec.ofNat 64 (natAt l off 8)
  { k with
    s := Vector.ofFn fun i => w (0x100 + 8 * i.val), shadow := Vector.ofFn fun i => w (0x300 + 8 * i.val)
    p := BitVec.ofNat 16 (natAt l 0x340 2), b := Vector.ofFn fun i => codeAddr (w (0x350 + 8 * i.val))
    k := Vector.ofFn fun i => w (0x380 + 8 * i.val)
    x := Vector.ofFn fun i => BitVec.ofNat 128 (natAt l (0x3C0 + 16 * i.val) 16)
    g := Vector.ofFn fun i => ⟨w (0x400 + 32 * i.val), Vector.ofFn fun j => BitVec.ofNat 32 (natAt l (0x408 + 32 * i.val + 4 * j.val) 4)⟩
    nest := nestOf l, wrote := [], hmode := false, susp := none, fmt := (w 0x540).setWidth 16, fmtOld := []
    codeBase := codeAddr (w 0x548), codeLimit := codeAddr (w 0x550), tvec := codeAddr (w 0x558)
    retry := (w 0x560).setWidth 16, sticky := (w 0x568).setWidth 5
    lcnt := Vector.ofFn fun i => BitVec.ofNat 32 (natAt l (0x570 + 8 * i.val) 4)
    tcause := w 0x5A0, tpc := w 0x5A8, tslot := w 0x5B0, taddr := w 0x5B8, tinfo := w 0x5C0
    dnest := (w 0x5C8).getLsbD 2, aslice := (w 0x5C8).getLsbD 1
    q := Vector.ofFn fun i => queueOf l i.val, v := Vector.ofFn fun i => BitVec.ofNat 2048 (natAt l (0x1000 + 256 * i.val) 256)
    pc := codeAddr (w 0x20), pend := [], score := [], reports := [], holds := [], waitX := .none, waitA := .none, suspX := .none, suspA := .none
    rftWait := none, preempt := false }

/-- 02 R51: the flags and `mpN` that a stream owns take their saved values, and the waits on them are tested. -/
def restoreShared (k : Core) (owns : BitVec 40) (l : List Byte) : Core :=
  let f := Vector.ofFn fun (i : Fin 32) =>
    if owns.getLsbD i.val then BitVec.ofNat 16 (natAt l (0x600 + 2 * i.val) 2) else k.f.getD i.val 0
  let mp := Vector.ofFn fun (i : Fin 8) =>
    if owns.getLsbD (32 + i.val) then BitVec.ofNat 128 (natAt l (0x640 + 16 * i.val) 16) else k.mp.getD i.val 0
  (List.range 32).foldl (fun k i => k.testFlag (BitVec.ofNat 5 i)) { k with f := f, mp := mp }

/-- 02 R63: spilled entries stand at the front of their channel again. -/
def replayChan (x : Die) (i : Option Nat) (l : List LinkEntry) : Die :=
  match i with
  | none => x
  | some i =>
    let ch := x.chan i
    x.setChan i { ents := l ++ ch.ents, withheld := 0, mate := none, gone := ch.gone - l.length }

/-- 11 R293: the chain of an image, its link entries and its feeds come back to a context. -/
def State.restoreChain (s : State) (c : CoreRef) (x : BitVec 2) (l : List Byte) : State :=
  match chainOfImage ((l.drop 0x7000).take imageBytes) (imagePfmt l) with
  | none => s
  | some ch =>
    let s := s.modCore c fun k => { k with chain := ch, owner := some x, stepDone := 0 }
    let na := natAt l 0x30 8 / 4
    let n := natAt l 0x28 2 / 4
    let ents := (List.range n).map fun i =>
      (⟨BitVec.ofNat 2048 (natAt l (0x14000 + 256 * i) 256), false, false⟩ : LinkEntry)
    let p := s.spillChans c
    s.modDie c.die fun d => replayChan (replayChan d p.1 (ents.take na)) p.2 (ents.drop na)

/-- 11 R290: the suspended feeds of a core's context go on. -/
def State.resumeFeeds (s : State) (c : CoreRef) (x : BitVec 2) (key : Nat) : State :=
  let mine := ((s.stream key).feeds.filter fun e => e.1 == c.core).map fun e => { e.2 with ctx := x, susp := false }
  let s := s.modStream key fun st => { st with feeds := st.feeds.filter fun e => e.1 != c.core }
  s.modCore c fun k => { k with cmds := k.cmds ++ mine }

/-- 11 R293: the context is restored from the bytes of its save area, which hold no copy of SAVE_AREA: it keeps the value
of the save (log entry 73). -/
def State.restoreFrom (s : State) (c : CoreRef) (x : BitVec 2) (v : SavedCtx) (l : List Byte) : State :=
  let key := (s.ctx c x).stream
  let s := s.modCtx c x fun k => { ctxOfImage k l with
    life := .running, saveArea := v.area, hbarPhase := v.phase, issueX := v.issueX, issueA := v.issueX, countA := v.countA + 1, nestA := v.countA
    acqTime := s.time, gsAcqTime := s.time, bce := s.freeVal 3 3900 }
  let s := s.modCore c fun k => restoreShared k (k.getCtx x).owns l
  let s := if (natAt l 0x28 8).testBit 17 then s.restoreChain c x l else s
  let s := s.modStream key fun st => { st with saved := st.saved.filter fun y => y.rank != v.rank }
  s.resumeFeeds c x key

/-- CONTEXT_RESTORE (11 R293): at its start time a context is restored; the owner of a chain waits until the Triptych
has no owner. -/
def execContextRestore (x : CtxRef) (s : State) : Out :=
  .next (
    let c := coreOf x
    let k := s.ctx c x.ctx
    let st := s.stream k.stream
    match st.saved.find? fun v => v.rank == k.rank.toNat with
    | none => s
    | some v =>
      if k.life != .restoring || k.preempt || decide (s.time < k.startAt) then s
      else
        match s.span st.asid v.area 131072 false false false with
        | .ok l =>
          let img := s.spanRead l
          let s := (s.fillRange st.asid v.area 131072).countSubst st.asid l
          if !s.still l then s
          else if s.spanPoison l then s.killStream k.stream 9 (c, x.ctx)
          else if !imageOk img then s.killStream k.stream 3 (c, x.ctx)
          else if (natAt img 0x28 8).testBit 17 && (s.core c).owner.isSome then s
          else s.restoreFrom c x.ctx v img
        | .held _ _ => s
        | _ => s.killStream k.stream 9 (c, x.ctx))

/-! ### Pre-emption timeout -/

/-- 11 R286, 17 R389: a context of a stream under a request that has not reached a safe point by the deadline; for a KILL, one
that has not left either. -/
def State.lateCtx (s : State) (key : Nat) : Option (CoreRef × BitVec 2) :=
  let st := s.stream key
  match st.preempt with
  | none => none
  | some (deadline, _) => (s.ctxsOf key).find? fun e =>
    let k := s.ctx e.1 e.2
    if (s.qrec st.die st.q).killing then (k.life == .running || k.life == .leaving) && decide (deadline.toNat < s.time)
    else k.life == .running && k.preempt && decide (k.deadline.toNat < s.time)

/-- PREEMPT_TIMEOUT (11 R286, 17 R389): the deadline has passed before a context reached a safe point. -/
def execPreemptTimeout (key : Nat) (s : State) : Out :=
  .next (
    let st := s.stream key
    match s.lateCtx key with
    | some e => s.killStream key (if (s.qrec st.die st.q).killing then 6 else 2) e
    | none => s)

/-! ### The slot table -/

/-- SLOT_TABLE_ROUND (01 R36): at a round boundary a rewrite takes effect. -/
def execSlotTableRound (die : BitVec 2) (s : State) : Out :=
  .next (
    let x := s.die die
    if s.time < (x.rounds + 1) * 8192 then s
    else s.setDie die (match x.slotNext with
      | some t => { x with rounds := x.rounds + 1, slotOwner := t, slotNext := none, tablegen := x.tablegen + 1 }
      | none => { x with rounds := x.rounds + 1 }))

/-- SLOT_TURN (01 R36): a turn of 32 cycles begins; the first of a round follows the round's beginning. -/
def execSlotTurn (die : BitVec 2) (s : State) : Out :=
  .next (
    let x := s.die die
    if s.time < (x.turns + 1) * 32 || decide (x.rounds < (x.turns + 1) / 256) then s
    else s.setDie die { x with turns := x.turns + 1, turnOwner := x.slotOwner.getD ((x.turns + 1) % 256) 0xFF })

/-! ### Freezes -/

/-- CORRECTABLE_ERROR_FREEZE (18 R413): the core and its engines stand for 24 cycles. -/
def execCorrectableErrorFreeze (c : CoreRef) (s : State) : Out :=
  .next ((s.modCore c fun k => { k with freeze := some (s.time + 24) }).count c.die 11 1)

/-- FREEZE_END (18 R413). -/
def execFreezeEnd (c : CoreRef) (s : State) : Out :=
  .next (s.modCore c fun k => match k.freeze with
    | some t => if t ≤ s.time then { k with freeze := none } else k
    | none => k)

end Sys2Proof.Machine
end

