-- ==== Sys2Proof/Machine/Office.lean ====
section
/-! DEFINITION. The Sorting office and the Postmaster (17 R366 to R391): queue commands from their start to their
records, placement of streams, pre-emption requests, postmark counters, franking, and the frame of slots. -/
namespace Sys2Proof.Machine

/-! ### Commands (17 R371, R372) -/

/-- The 8-byte word `i` of a command. -/
def cmdWord (b : Bundle) (i : Nat) : Word := b.extractLsb' (64 * i) 64
def cmdBits (b : Bundle) (i hi lo : Nat) : Nat := bitsOf (cmdWord b i).toNat hi lo
/-- Words of a command are zero from `i` on. -/
def cmdZeroFrom (b : Bundle) (i : Nat) : Bool := b.toNat >>> (64 * i) == 0

def cmdOpc (b : Bundle) : Nat := cmdBits b 0 7 0
def cmdCnt (b : Bundle) : Bool := (cmdWord b 0).getLsbD 8
def cmdRec (b : Bundle) : Bool := (cmdWord b 0).getLsbD 9
def cmdIrq (b : Bundle) : Bool := (cmdWord b 0).getLsbD 10
def cmdCidx (b : Bundle) : Nat := cmdBits b 0 23 16

/-- 17 R371: the header's own format. -/
def headerOk (x : Die) (q : BitVec 8) (owner : BitVec 8) (b : Bundle) : Bool :=
  cmdBits b 0 31 24 == 0 && cmdBits b 0 15 11 == 0 && decide (1 ≤ cmdOpc b) && decide (cmdOpc b ≤ 8) &&
  (!cmdCnt b || x.ctrOwner.getD (cmdCidx b) 0xFF == owner) && (decide (cmdOpc b < 7) || q == 0)

/-- 17 R372, R386: the format of the fields of a command that the header names. -/
def fieldsFormatOk (x : Die) (owner : BitVec 8) (b : Bundle) : Bool :=
  match cmdOpc b with
  | 1 => cmdBits b 3 63 32 == 0 && cmdZeroFrom b 4
  | 2 =>
    let mode := cmdBits b 3 51 48
    let len := cmdBits b 3 47 0
    cmdBits b 3 55 54 == 0 && decide (mode ≤ 4) && cmdZeroFrom b 4 &&
    (mode == 0 || (len % 8 == 0 && cmdBits b 1 2 0 == 0 && cmdBits b 2 2 0 == 0))
  | 3 => cmdBits b 1 2 0 == 0 && cmdBits b 3 63 1 == 0 && cmdZeroFrom b 4
  | 4 => cmdBits b 1 63 8 == 0 && cmdZeroFrom b 3 && x.ctrOwner.getD (cmdBits b 1 7 0) 0xFF == owner
  | 5 =>
    packetOk (fun i => (cmdWord b i).toNat) false && x.frankOwner.getD (cmdBits b 1 8 0) 0xFF == owner &&
    x.ctrOwner.getD (cmdBits b 1 23 16) 0xFF == owner
  | 6 => cmdBits b 1 2 0 == 0 && cmdBits b 2 2 0 == 0 && cmdBits b 3 63 1 == 0 && cmdZeroFrom b 4
  | 7 => cmdBits b 1 15 12 == 0 && cmdBits b 1 63 18 == 0 && cmdZeroFrom b 6
  | _ => cmdBits b 1 15 12 == 0 && cmdBits b 1 63 18 == 0 && cmdZeroFrom b 4

/-- 17 R371: no format error (status 20). -/
def commandOk (x : Die) (q : BitVec 8) (owner : BitVec 8) (b : Bundle) : Bool :=
  headerOk x q owner b && fieldsFormatOk x owner b

/-- 17 R372: an unmet HOLD. -/
def unmetHold (x : Die) (q : BitVec 8) (owner : BitVec 8) (b : Bundle) : Bool :=
  commandOk x q owner b && cmdOpc b == 4 && decide ((x.counters.getD (cmdBits b 1 7 0) 0).toNat < (cmdWord b 2).toNat)

/-! ### Pages that the firmware needs -/

/-- A page that a queue command (its number), a ring or a record (0) needs at home: a request that is held at the MTU
like any other (11 R285). -/
def State.bringOffice (s : State) (d : BitVec 2) (asid : BitVec 12) (va need : Word) (owner : Nat) : State :=
  if (s.reqs.any fun r => r.office && r.core.die == d && r.asid == asid && r.va == va && r.aux == BitVec.ofNat 64 owner) then s
  else
    let r : Req :=
      { id := s.nextId, core := ⟨d, 0⟩, ctx := 0, acc := false, slot := 0, bundle := 0, handler := false, path := 7
        instr := .nop, asid := asid, tenant := 0, stream := 0, va := va, space := 2, data := 0
        idx := 0, mask := need, aux := BitVec.ofNat 64 owner, budget := 0, waits := [], admitted := false, phase := .issued, dests := []
        res := 0, res2 := 0, replay := false, heldAt := 0, heldTurn := 0, failed := false, turn := 0, office := true }
    { s with reqs := s.reqs ++ [r], nextId := s.nextId + 1 }

/-- What the firmware finds when it reads a range in a queue's address space. -/
inductive OfficeRead where
  | ok (l : List Byte) (poison : Bool)
  | held (va : Word)
  /-- another package holds it: a packet asks for it -/
  | ask (va : Word)
  /-- its answer, or a stack that quiesces, is waited for -/
  | wait
  | none
  deriving DecidableEq, Repr

/-- 17 R372, 18 R393: bytes of a queue's address space, as far as they can be seen now; the firmware waits for no turn (01 R36). -/
def State.officeRead (s : State) (d : BitVec 2) (q : BitVec 8) (asid : BitVec 12) (a : Word) (n : Nat) : OfficeRead :=
  match s.rangeAt d asid a n true false false with
  | .ok l => if s.still l then .ok (s.spanRead l) (s.spanPoison l) else .wait
  | .held va _ => .held va
  | .remote va =>
    (match s.packetOf (.office d q) va false with
    | none => .ask va
    | some p => match p.phase with
      | .answered => .ok (farBytes p.id n) (farWord p.id 1 == 1)
      | .refused _ => .none
      | _ => .wait)
  | .bad _ _ => .none

/-- What a read that cannot be made now asks for: a page to bring home, or a packet; a packet that was lost is sent again. -/
def State.officeAsk (s : State) (d : BitVec 2) (q : BitVec 8) (x : OfficeRead) : State :=
  let r := s.qrec d q
  match x with
  | .held va => s.bringOffice d r.asid va 1 0
  | .ask va => s.sendPacket d (.office d q) r.owner r.asid va false []
  | .none => s.donePackets (.office d q)
  | _ => s

/-- A range of a queue's address space has been read: its walk has filled the TLB, and substitutions are counted (18 R399, R412). -/
def State.officeSeen (s : State) (d : BitVec 2) (asid : BitVec 12) (a : Word) (n : Nat) : State :=
  match s.rangeAt d asid a n true false false with
  | .ok l => (s.fillRange asid (s.routed d a) n).countSubst asid l
  | _ => s

/-- What becomes of a write of the firmware. -/
inductive Posting where
  | done (s : State)
  | held (va : Word)
  /-- a packet, or a stack that quiesces, is waited for -/
  | wait (s : State)
  /-- the place cannot be written -/
  | lost (s : State)

/-- 17 R372, 18 R393: bytes written in a queue's address space. -/
def State.officeWrite (s : State) (d : BitVec 2) (who : Sender) (tenant : BitVec 8) (asid : BitVec 12) (a : Word) (b : List Byte) : Posting :=
  match s.rangeAt d asid a b.length false true false with
  | .ok l => if s.still l then .done ((s.fillRange asid (s.routed d a) b.length).spanWrite l b) else .wait s
  | .held va _ => .held va
  | .remote va =>
    let t := s.askFar d who tenant asid va true b
    (match t.2 with
    | .answered _ => .done (t.1.donePackets who)
    | .waits => .wait t.1
    | .refused _ => .lost t.1)
  | .bad _ _ => .lost s

/-! ### The head of a queue -/

/-- 17 R377, R375: commands that the Sorting office may start. -/
def QueueRec.waiting (q : QueueRec) : Bool := q.state == .enabled && q.handed != q.head

/-- 17 R370: the head command as it stands in the ring; none where the queue holds none or its page cannot be read. -/
def State.headCmd (s : State) (d : BitVec 2) (q : BitVec 8) : Option Bundle :=
  let r := s.qrec d q
  if !r.waiting then none
  else
    match s.officeRead d q r.asid (r.cmdAddr r.head) 64 with
    | .ok l _ => some (BitVec.ofNat 512 (natOfBytes l))
    | _ => none

/-- A page of a ring that has to come home, or a packet that has to be answered, before the head can be read. -/
def State.fetchHead (s : State) (d : BitVec 2) (q : BitVec 8) : State :=
  let r := s.qrec d q
  if !r.waiting then s else s.officeAsk d q (s.officeRead d q r.asid (r.cmdAddr r.head) 64)

/-- 17 R375: the head command leaves its ring. -/
def State.leaveRing (s : State) (d : BitVec 2) (q : BitVec 8) : State :=
  let r := s.qrec d q
  ((s.officeSeen d r.asid (r.cmdAddr r.head) 64).donePackets (.office d q)).modQ d q fun r => { r with head := r.head + 1 }

/-- 17 R375: the head command leaves the ring; it is at work, due, or accepted by a bulk copy engine, which the device
chooses (log entry 1). -/
def State.takeHead (s : State) (d : BitVec 2) (q : BitVec 8) (b : Bundle) (phase : CmdPhase) (status : Nat) : State :=
  let r := s.qrec d q
  let m : QCmd :=
    { id := s.nextId, q := q, index := r.head, cmd := b, pos := 0, status := BitVec.ofNat 8 status, phase := phase
      bce := if phase == .queued then some (s.freeVal 3 3720) else none
      stream := if cmdOpc b == 1 then cmdBits b 3 31 0 else 0, kind := 1, a := 0, b := 0, regs := Vector.replicate 4 0
      pages := [] }
  let s := s.leaveRing d q
  { s with nextId := s.nextId + 1 }.modDie d fun x => { x with qcmds := x.qcmds ++ [m] }

/-! ### Placement (17 R373, R374, R383, R384) -/

/-- 17 R373: the relative cores that a ROW names, in rising order. -/
def rowList (row : BitVec 256) : List Nat := (List.range 256).filter fun i => row.getLsbD i

/-- 17 R374: the status of a LAUNCH whose descriptor holds these bytes; 0 when it may be placed. -/
def launchStatus (x : Die) (tenant : BitVec 8) (asid : BitVec 12) (l : List Byte) : Nat :=
  let w := fun (o : Nat) => natAt l o 8
  let row : BitVec 256 := BitVec.ofNat 256 (natAt l 0x60 32)
  let inCode := fun (a : Nat) => decide (w 0x10 ≤ a) && decide (a < w 0x18)
  if bitsOf (w 0) 7 0 != 1 || bitsOf (w 0) 63 16 != 0 || bitsOf (w 0x30) 63 40 != 0 || bitsOf (w 0x38) 63 40 != 0 ||
      natAt l 0x40 32 != 0 || natAt l 0x80 128 != 0 then 1
  else if row == 0 || !(rowList row).all fun i => (partCore x tenant i).isSome then 2
  else if w 0x18 ≤ w 0x10 || !inCode (w 0x08) || !inCode (w 0x20) ||
      ([0x08, 0x10, 0x18, 0x20].any fun o => w o % 64 != 0) then 3
  else if x.asidOwner.getD asid.toNat 0xFF != tenant ||
      ((List.range 24).any fun i => (w 0x38).testBit (16 + i) && x.chanOwner.getD i 0xFF != tenant) then 4
  else if w 0x28 % 65536 != 0 then 5
  else 0

/-- 17 R374: what a LAUNCH's descriptor comes to. -/
inductive Launch where
  | ok (l : List Byte)
  | rejected (status : Nat)
  /-- the descriptor cannot be read yet -/
  | later (x : OfficeRead)
  deriving DecidableEq, Repr

def State.checkLaunch (s : State) (d : BitVec 2) (q : BitVec 8) (b : Bundle) : Launch :=
  let r := s.qrec d q
  let a := cmdWord b 1
  if a.toNat % 256 != 0 then .rejected 1
  else
    match s.officeRead d q r.asid a 256 with
    | .ok bytes poison =>
      if poison then .rejected 19
      else
        match launchStatus (s.die d) r.owner r.asid bytes with
        | 0 => .ok bytes
        | n => .rejected n
    | .none => .rejected 1
    | x => .later x

/-- 01 R14: the lowest-numbered free context of a core. -/
def State.freeCtx (s : State) (c : CoreRef) : Option (BitVec 2) :=
  ((List.range 4).find? fun x => (s.ctx c (BitVec.ofNat 2 x)).life == .free).map (BitVec.ofNat 2)

/-- A set of physical cores. -/
def coreSet (l : List (BitVec 8)) : BitVec 256 := l.foldl (fun m c => m ||| (1#256 <<< c.toNat)) 0

/-- 17 R383: the core is held by a reservation older than the queue's own. -/
def Die.heldFrom (x : Die) (q : BitVec 8) (c : BitVec 8) : Bool :=
  let own := (x.queues[q.toNat]'(q.isLt)).resv
  (List.range 256).any fun i =>
    i != q.toNat &&
    match (x.queues.getD i QueueRec.reset).resv with
    | some r => r.row.getLsbD c.toNat && (match own with | some o => decide (r.stamp < o.stamp) | none => true)
    | none => false

/-- 17 R383: every core has a free context that no older reservation holds. -/
def State.placeable (s : State) (d : BitVec 2) (q : BitVec 8) (cores : List (BitVec 8)) : Bool :=
  cores.all fun c => (s.freeCtx ⟨d, c⟩).isSome && !(s.die d).heldFrom q c

/-- 01 R15: the start time that a dispatch fixes, now or later (log entry 2). -/
def State.startTime (s : State) : Nat := s.time + (s.freeVal 8 3700).toNat

/-- 17 R373: the stream of a LAUNCH. -/
def State.newStream (s : State) (d : BitVec 2) (q : BitVec 8) (b : Bundle) (l : List Byte) : Stream :=
  let r := s.qrec d q
  let w := fun (o : Nat) => BitVec.ofNat 64 (natAt l o 8)
  let row : BitVec 256 := BitVec.ofNat 256 (natAt l 0x60 32)
  { Stream.none with
    key := s.nextId, die := d, q := q, tenant := r.owner, asid := r.asid, header := cmdWord b 0, index := r.head
    streamId := (cmdWord b 3).setWidth 32, param := cmdWord b 2, entry := w 8, codeBase := w 0x10, codeLimit := w 0x18
    tvec := w 0x20, saveBase := w 0x28, owns := (w 0x30).setWidth 40, link := (w 0x38).extractLsb' 16 24
    ringgrp := (w 0x38).setWidth 16, row := row, skew := bitsOf (w 0).toNat 15 8, t0 := s.startTime
    cores := (rowList row).filterMap (partCore (s.die d) r.owner), lastCharge := s.time }

/-- 01 R12, R13: the contexts of a new stream, rank by rank. -/
def State.startContexts (s : State) (st : Stream) : List (Nat × Nat × BitVec 8) → State
  | [] => s
  | (rank, rel, core) :: r =>
    match s.freeCtx ⟨st.die, core⟩ with
    | none => s.startContexts st r
    | some x =>
      (s.setCtx ⟨st.die, core⟩ x
        (startCtx st rank rel (rel / 16) (st.t0 + rank * st.skew) (s.freeVal 3 (3710 + rank)))).startContexts st r

/-- 01 R14, R15: a row is dispatched. -/
def State.dispatchRow (s : State) (st : Stream) : State :=
  let s : State := { s with nextId := s.nextId + 1, streams := s.streams ++ [st] }
  s.startContexts st (((rowList st.row).zip st.cores).zipIdx.map fun e => (e.2, e.1.1, e.1.2))

/-- 01 R17: the contexts of a stream that resumes: the ranks that were saved, on their cores. -/
def State.resumeContexts (s : State) (st : Stream) (t0 : Nat) : List Nat → State
  | [] => s
  | rank :: r =>
    let core := st.cores.getD rank 0
    match s.freeCtx ⟨st.die, core⟩ with
    | none => s.resumeContexts st t0 r
    | some x =>
      let rel := (rowList st.row).getD rank 0
      (s.setCtx ⟨st.die, core⟩ x
        { startCtx st rank rel (rel / 16) (t0 + rank * st.skew) 0 with life := .restoring }).resumeContexts st t0 r

/-- 17 R380, 01 R17: a resume entry is dispatched. -/
def State.resumeStream (s : State) (key : Nat) : State :=
  let st := s.stream key
  let t0 := s.startTime
  let s := s.modQ st.die st.q fun q => { q with resume := q.resume.filter (· != key) }
  let s := s.modStream key fun x => { x with out := false, t0 := t0, lastCharge := s.time }
  s.resumeContexts st t0 (st.saved.map (·.rank))

/-- 17 R384: the NORMAL stream of a tenant that holds a context of a full core and started last. -/
def State.latestOn (s : State) (d : BitVec 2) (tenant : BitVec 8) (c : BitVec 8) : Option Stream :=
  let held := (List.range 4).filterMap fun x =>
    let k := s.ctx ⟨d, c⟩ (BitVec.ofNat 2 x)
    let st := s.stream k.stream
    if k.life != .free && st.tenant == tenant && !(s.qrec d st.q).urgent && (s.streams.any fun y => y.key == st.key) then some st else none
  held.foldl (fun (b : Option Stream) x => match b with
    | none => some x
    | some y => if y.t0 < x.t0 then some x else some y) none

/-- 17 R384: an URGENT head that cannot be placed asks for pre-emptions in the next retirement slot. -/
def State.askPreempt (s : State) (d : BitVec 2) (q : BitVec 8) (cores : List (BitVec 8)) : State :=
  s.modDie d fun x => { x with asks := x.asks.filter (fun a => a.1 != q) ++ [(q, coreSet cores)] }

/-- 17 R384: the head of a queue has been placed: what it asked for is to be withdrawn. -/
def State.callBack (s : State) (d : BitVec 2) (q : BitVec 8) : State :=
  let keys := (s.streams.filter fun st => st.die == d && (match st.preempt with | some (_, some w) => w == q | _ => false)).map (·.key)
  s.modDie d fun x => { x with asks := x.asks.filter fun a => a.1 != q, calls := x.calls ++ keys }

/-- 17 R381: a row placed: the pass-overs and the reservation of its queue go. -/
def State.placed (s : State) (d : BitVec 2) (q : BitVec 8) : State :=
  (s.modQ d q fun r => { r with passes := 0, resv := none }).callBack d q

/-- 17 R381, R383, R384: a row passed over. -/
def State.passOver (s : State) (d : BitVec 2) (q : BitVec 8) (cores : List (BitVec 8)) : State :=
  let s := s.modQ d q fun r =>
    let n := min (r.passes + 1) 255
    { r with passes := n, resv := if n == 8 then some ⟨s.time, coreSet cores⟩ else r.resv }
  if (s.qrec d q).mayPreempt then s.askPreempt d q cores else s

/-! ### The start of a command -/

/-- 17 R375: the queue may start its head, which is this command. -/
def State.mayStart (s : State) (d : BitVec 2) (q : BitVec 8) (b : Bundle) (opc : Nat) : Bool :=
  (s.die d).up && (s.qrec d q).resume.isEmpty && s.headCmd d q == some b && cmdOpc b == opc &&
  !unmetHold (s.die d) q (s.qrec d q).owner b

/-- 17 R371: a format error ends the command at its start (status 20). -/
def State.startOr (s : State) (d : BitVec 2) (q : BitVec 8) (b : Bundle) (opc : Nat) (k : State → State) : State :=
  if !s.mayStart d q b opc then s
  else if !commandOk (s.die d) q (s.qrec d q).owner b then s.takeHead d q b .due 20
  else k s

/-- LAUNCH (17 R373, R374, R381, R383): rejected, dispatched, or passed over. -/
def State.launch (s : State) (d : BitVec 2) (q : BitVec 8) (b : Bundle) : State :=
  s.startOr d q b 1 fun s =>
    let seen := s.officeSeen d (s.qrec d q).asid (cmdWord b 1) 256
    match s.checkLaunch d q b with
    | .later x => s.officeAsk d q x
    | .rejected n => seen.takeHead d q b .due n
    | .ok l =>
      let st := s.newStream d q b l
      if s.placeable d q st.cores then ((seen.leaveRing d q).dispatchRow st).placed d q
      else s.passOver d q st.cores

/-- COPY (17 R372, R375): it starts when a bulk copy engine with room for it accepts it. -/
def State.copyCmd (s : State) (d : BitVec 2) (q : BitVec 8) (b : Bundle) : State :=
  s.startOr d q b 2 fun s => if s.bulkRoom d (s.freeVal 3 3720) then s.takeHead d q b .queued 0 else s

/-- A command that an engine or the Postmaster accepts. -/
def State.accept (s : State) (d : BitVec 2) (q : BitVec 8) (b : Bundle) (opc : Nat) : State :=
  s.startOr d q b opc fun s => s.takeHead d q b .moving 0

/-- HOLD (17 R372, R375): it starts, and completes, once its counter has reached N. -/
def State.holdCmd (s : State) (d : BitVec 2) (q : BitVec 8) (b : Bundle) : State :=
  s.startOr d q b 4 fun s => s.takeHead d q b .due 0

/-- ARM (17 R386). -/
def State.armCmd (s : State) (d : BitVec 2) (q : BitVec 8) (b : Bundle) : State :=
  s.startOr d q b 5 fun s =>
    let r := s.qrec d q
    (s.takeHead d q b .due 0).armEntry d (cmdBits b 1 8 0) (Vector.ofFn fun i => cmdWord b i.val) r.owner r.asid

def execLaunch (die : BitVec 2) (q : BitVec 8) (cmd : Bundle) (s : State) : Out := .next (s.launch die q cmd)
/-- COPY (17 R372). -/
def execCopy (die : BitVec 2) (q : BitVec 8) (cmd : Bundle) (s : State) : Out := .next (s.copyCmd die q cmd)
/-- SIGNAL (17 R372). -/
def execSignal (die : BitVec 2) (q : BitVec 8) (cmd : Bundle) (s : State) : Out := .next (s.accept die q cmd 3)
def execHold (die : BitVec 2) (q : BitVec 8) (cmd : Bundle) (s : State) : Out := .next (s.holdCmd die q cmd)
def execArm (die : BitVec 2) (q : BitVec 8) (cmd : Bundle) (s : State) : Out := .next (s.armCmd die q cmd)
/-- TAGFILL (17 R372). -/
def execTagfill (die : BitVec 2) (q : BitVec 8) (cmd : Bundle) (s : State) : Out := .next (s.accept die q cmd 6)
/-- MAP (18 R398). -/
def execMap (die : BitVec 2) (q : BitVec 8) (cmd : Bundle) (s : State) : Out := .next (s.accept die q cmd 7)
/-- UNMAP (18 R398). -/
def execUnmap (die : BitVec 2) (q : BitVec 8) (cmd : Bundle) (s : State) : Out := .next (s.accept die q cmd 8)

/-- The head command of a queue started, whichever it is. -/
def State.startHead (s : State) (d : BitVec 2) (q : BitVec 8) (b : Bundle) : State :=
  match cmdOpc b with
  | 1 => s.launch d q b
  | 2 => s.copyCmd d q b
  | 4 => s.holdCmd d q b
  | 5 => s.armCmd d q b
  | n => s.accept d q b n

/-! ### Dispatch (17 R380, R381) -/

/-- 17 R380: the queue is ready. -/
def State.queueReady (s : State) (d : BitVec 2) (q : BitVec 8) : Bool :=
  let r := s.qrec d q
  if !r.resume.isEmpty then r.state == .enabled || (r.state == .draining && !r.killing)
  else match s.headCmd d q with
    | some b => !unmetHold (s.die d) q r.owner b
    | none => false

/-- 17 R381: the ready URGENT queue of highest PRIO; among equals the lowest index. -/
def State.urgentHead (s : State) (d : BitVec 2) : Option (BitVec 8) :=
  ((List.range 256).map (BitVec.ofNat 8)).foldl (fun (b : Option (BitVec 8)) q =>
    if (s.qrec d q).urgent && s.queueReady d q then
      (match b with
      | none => some q
      | some p => if (s.qrec d p).prio < (s.qrec d q).prio then some q else some p)
    else b) none

/-- 17 R381: the next NORMAL queue after the cursor, in index order. -/
def State.nextNormal (s : State) (d : BitVec 2) : Option (BitVec 8) :=
  ((List.range 256).map fun i => (s.die d).cursor + BitVec.ofNat 8 (i + 1)).find? fun q =>
    let r := s.qrec d q
    !r.urgent && r.weight != 0 && (r.state == .enabled || r.state == .draining)

/-- 17 R381: Serve. -/
def State.serve (s : State) (d : BitVec 2) (q : BitVec 8) : State :=
  match (s.qrec d q).resume with
  | key :: _ =>
    let st := s.stream key
    let cores := st.saved.map fun v => st.cores.getD v.rank 0
    if s.placeable d q cores then (s.resumeStream key).placed d q else s.passOver d q cores
  | [] =>
    match s.headCmd d q with
    | some b => s.startHead d q b
    | none => s

/-- DISPATCH_STEP (17 R381). -/
def State.dispatch (s : State) (d : BitVec 2) : State :=
  if !(s.die d).up then s
  else
    let s := ((List.range 256).map (BitVec.ofNat 8)).foldl (fun s q => s.fetchHead d q) s
    match (if (s.die d).urgentRun < 8 then s.urgentHead d else none) with
    | some u => (s.serve d u).modDie d fun x => { x with urgentRun := x.urgentRun + 1 }
    | none =>
      let s := s.modDie d fun x => { x with urgentRun := 0 }
      match s.nextNormal d with
      | none => s
      | some q =>
        let s := s.modDie d fun x => { x with cursor := q }
        let r := s.qrec d q
        if r.resume.isEmpty && r.handed == r.head then s.modQ d q fun r => { r with deficit := 0, passes := 0 }
        else if !s.queueReady d q then s
        else
          let s := s.modQ d q fun r => { r with deficit := min (r.deficit + r.quantum) r.quantum }
          if 0 < (s.qrec d q).deficit then s.serve d q else s

def execDispatchStep (die : BitVec 2) (s : State) : Out := .next (s.dispatch die)

end Sys2Proof.Machine
end

