-- ==== Sys2Proof/Machine/Postmaster.lean ====
section
/-! DEFINITION. The Postmaster (17 R375 to R379, R384 to R389): the work of queue commands, page-table commands (18 R398,
R400, R406), completion records, the slots of the frame, franking actions, and the end of a drain. -/
namespace Sys2Proof.Machine

/-! ### Queue commands at work -/

def Die.qcmd? (x : Die) (id : Nat) : Option QCmd := x.qcmds.find? fun m => m.id == id
def State.setQCmd (s : State) (d : BitVec 2) (m : QCmd) : State :=
  s.modDie d fun x => { x with qcmds := x.qcmds.map fun y => if y.id == m.id then m else y }
def State.dropQCmd (s : State) (d : BitVec 2) (id : Nat) : State :=
  (s.donePackets (.queue d id)).modDie d fun x => { x with qcmds := x.qcmds.filter fun y => y.id != id }
/-- All the work of a command is done; its completion is to come. -/
def State.endQCmd (s : State) (d : BitVec 2) (m : QCmd) : State := s.setQCmd d { m with phase := .leases 0 }
/-- 17 R376: the command stops with a status; the first error stands. -/
def State.failQCmd (s : State) (d : BitVec 2) (m : QCmd) (status : Nat) : State :=
  s.endQCmd d { m with status := if m.status == 0 then BitVec.ofNat 8 status else m.status }

/-- 17 R376: the status for a place that cannot be accessed. -/
def statusOfKind (kind : Nat) : Nat := if kind == 5 then 18 else 16

/-- What a queue command finds at an address (01 R36, 18 R392, R397); `data` is what it writes there. -/
def State.reachQueue (s : State) (d : BitVec 2) (m : QCmd) (a : Word) (n : Nat) (rd wr tags : Bool) (data : List Byte) : State × Reach :=
  let r := s.qrec d m.q
  let t := s.meet d (.queue d m.id) r.owner r.asid a n rd wr tags data
  (t.1, match t.2 with | .bad _ k => .err (statusOfKind k) | x => x.reach)

/-- 17 R385, 09 R235: the counter that a tagged COPY steps: at the destination's die, owned by the owner of the queue's
address space there. -/
def State.copyTag (s : State) (d : BitVec 2) (m : QCmd) (dp : Spot) (va : Word) (n : Nat) : State :=
  let r : Stream := { Stream.none with asid := (s.qrec d m.q).asid, tenant := (s.qrec d m.q).owner }
  let w := cmdWord m.cmd 3
  match s.tagDie dp va d r with
  | some (e, owner) => if w.getLsbD 52 && n != 0 then s.bumpCounter e (cmdBits m.cmd 3 63 56) (if w.getLsbD 53 then n else 1) owner else s
  | none => s

/-- COPY at work (17 R372, R376, 09 R233 to R235): the next burst of up to 256 bytes. It stops at the first poisoned byte of
its source; what comes before it has landed. -/
def State.burstCopy (s : State) (d : BitVec 2) (m : QCmd) : State :=
  let r := s.qrec d m.q
  let len := cmdBits m.cmd 3 47 0
  let mode := cmdBits m.cmd 3 51 48
  let a := cmdWord m.cmd 1 + BitVec.ofNat 64 m.pos
  let b := cmdWord m.cmd 2 + BitVec.ofNat 64 m.pos
  let n := min (len - m.pos) (min (256 - b.toNat % 256) (65536 - a.toNat % 65536))
  if len ≤ m.pos then s.endQCmd d m
  else
    let x := s.reachQueue d m a n true false (mode == 3) []
    match x.2 with
    | .err e => x.1.failQCmd d m e
    | .held va => x.1.bringOffice d r.asid va (if mode == 3 then 5 else 1) m.id
    | .stall => x.1
    | .ok sp =>
      let l := x.1.spotRead d sp n
      let good := l.takeWhile fun x => !x.2
      let y := x.1.reachQueue d m b n false true (mode != 0) (good.map (·.1))
      match y.2 with
      | .err e => y.1.failQCmd d m e
      | .held va => y.1.bringOffice d r.asid va (if mode != 0 then 6 else 2) m.id
      | .stall => y.1
      | .ok dp =>
        match y.1.elemTags mode sp dp a b n with
        | .inr _ => y.1.failQCmd d m 17
        | .inl tags =>
          let s := (y.1.donePackets (.queue d m.id)).spotSubst r.asid sp
          let t := (s.spotWrite d r.asid dp good).1
          let t := (tags.take (good.length / 8)).foldl (fun t w => t.tagWord r.asid mode w.1 w.2) t
          let t := t.copyTag d m dp b good.length
          let m' := { m with pos := m.pos + good.length }
          if good.length < n then t.failQCmd d m' 19
          else if len ≤ m'.pos then t.endQCmd d m' else t.setQCmd d m'

/-- SIGNAL at work (17 R372): a release store, or a fill as STS. -/
def State.burstSignal (s : State) (d : BitVec 2) (m : QCmd) : State :=
  let r := s.qrec d m.q
  let a := cmdWord m.cmd 1
  let fill := (cmdWord m.cmd 3).getLsbD 0
  let b := bytesOfNat (cmdWord m.cmd 2).toNat 8
  let y := s.reachQueue d m a 8 false true fill b
  match y.2 with
  | .err e => y.1.failQCmd d m e
  | .held va => y.1.bringOffice d r.asid va (if fill then 6 else 2) m.id
  | .stall => y.1
  | .ok x =>
    match y.1.elemTags (if fill then 1 else 0) x x a a 8 with
    | .inr _ => y.1.failQCmd d m 17
    | .inl tags =>
      let t := ((y.1.donePackets (.queue d m.id)).spotWrite d r.asid x (b.map fun b => (b, false))).1
      (tags.foldl (fun t w => t.tagWord r.asid 1 w.1 w.2) t).endQCmd d m

/-- TAGFILL at work (17 R372): the words of the next 256 bytes. -/
def State.burstTagfill (s : State) (d : BitVec 2) (m : QCmd) : State :=
  let r := s.qrec d m.q
  let len := (cmdWord m.cmd 2).toNat
  let a := cmdWord m.cmd 1 + BitVec.ofNat 64 m.pos
  let n := min (len - m.pos) (256 - a.toNat % 256)
  let mode := if (cmdWord m.cmd 3).getLsbD 0 then 1 else 2
  if len ≤ m.pos then s.endQCmd d m
  else
    let y := s.reachQueue d m a n false true true []
    match y.2 with
    | .err e => y.1.failQCmd d m e
    | .held va => y.1.bringOffice d r.asid va 6 m.id
    | .stall => y.1
    | .ok x =>
      match y.1.elemTags mode x x a a n with
      | .inr _ => y.1.failQCmd d m 17
      | .inl tags =>
        let t := tags.foldl (fun t w => t.tagWord r.asid mode w.1 w.2) (y.1.donePackets (.queue d m.id))
        let m' := { m with pos := m.pos + n }
        if len ≤ m'.pos then t.endQCmd d m' else t.setQCmd d m'

/-! ### Page tables (18 R398, R400, R406) -/

/-- 18 R398: the span of an entry of a level. -/
def levelSpan (lvl : Nat) : Nat := if lvl == 0 then 2 ^ 36 else if lvl == 1 then bigSize else pageSize
/-- 18 R395: the index of an offset in a table of a level. -/
def levelIndex (lvl off : Nat) : Nat := if lvl == 0 then off / 2 ^ 36 % 512 else off / levelSpan lvl % 1024

/-- 18 R395: the entry at an address of a die. -/
def State.pteAt (s : State) (d : BitVec 2) (a : Nat) : Pte := BitVec.ofNat 128 (readNat s.mem (hbmKey d a) 16)

/-- 18 R395: the table of a level that holds the entry of an offset; none where one above it is missing. -/
def State.tableFor (s : State) (d : BitVec 2) (asid : BitVec 12) (off : Nat) : Nat → Option Nat
  | 0 => ((s.die d).roots.find? fun r => r.1 == asid.toNat).map (·.2)
  | n + 1 =>
    match s.tableFor d asid off n with
    | none => none
    | some t =>
      let e := s.pteAt d (t + 16 * levelIndex n off)
      if e.kind == 1 && !e.reservedNonZero && decide (Pte.addr e + 16384 ≤ hbmSize) then some (Pte.addr e) else none

/-- 18 R395: the leaves under a table of a level: their pages, entries and size. -/
def leavesUnder (s : State) (d : BitVec 2) : Nat → Nat → Nat → Nat → List (Nat × Pte × Bool)
  | 0, _, _, _ => []
  | fuel + 1, lvl, t, off =>
    (List.range (if lvl == 0 then 512 else 1024)).flatMap fun i =>
      let e := s.pteAt d (t + 16 * i)
      let o := off + i * levelSpan lvl
      if e.reservedNonZero then []
      else if e.kind == 1 then leavesUnder s d fuel (lvl + 1) (Pte.addr e) o
      else if lvl != 0 && (e.kind == 2 || e.kind == 3 || e.kind == 4 || e.kind == 5) then [(o / leafSize (lvl == 1), e, lvl == 1)]
      else []

/-- The leaves that one entry stands for. -/
def leavesOf (s : State) (d : BitVec 2) (lvl off : Nat) (e : Pte) : List (Nat × Pte × Bool) :=
  if e.reservedNonZero then []
  else if e.kind == 1 then leavesUnder s d (2 - lvl) (lvl + 1) (Pte.addr e) (off / levelSpan lvl * levelSpan lvl)
  else if lvl != 0 && (e.kind == 2 || e.kind == 3 || e.kind == 4 || e.kind == 5) then [(off / leafSize (lvl == 1), e, lvl == 1)]
  else []

/-- 18 R398: a MAP or UNMAP: what it names. -/
structure MapCmd where
  asid : BitVec 12
  lvl : Nat
  va : Word
  pte : Pte
  count : Nat
  unmap : Bool
  deriving DecidableEq, Repr

def mapCmd (b : Bundle) : MapCmd :=
  let un := cmdOpc b == 8
  { asid := BitVec.ofNat 12 (cmdBits b 1 11 0), lvl := cmdBits b 1 17 16, va := cmdWord b 2
    pte := if un then 0 else cmdWord b 4 ++ cmdWord b 3, count := (cmdWord b (if un then 3 else 5)).toNat, unmap := un }

/-- 18 R398: the kinds that MAP may write at a level, with their alignment. -/
def mapKindOk (m : MapCmd) : Bool :=
  let k := m.pte.kind
  if k == 1 then decide (m.lvl ≤ 1) && m.count == 1
  else if k == 2 || k == 3 then
    (m.lvl == 2 && m.pte.extractLsb' 14 2 == 0) || (m.lvl == 1 && Pte.addr m.pte % bigSize == 0)
  else k == 4 && (m.lvl == 1 || m.lvl == 2)

/-- 18 R398: the table address of each entry; none when the command is wrong (status 20): the address is not a local one of the
die, or the tenant of the queue does not hold the ASID there (log entry 47). -/
def State.mapSlots (s : State) (d : BitVec 2) (tenant : BitVec 8) (m : MapCmd) : Option (List (Nat × Nat)) :=
  let off := vaOff m.va
  if m.lvl == 3 || !localForm s m.va || vaDie m.va != d || off % levelSpan m.lvl != 0 || m.count == 0 ||
      decide (2 ^ 45 < off + m.count * levelSpan m.lvl) || (s.die d).asidOwner.getD m.asid.toNat 0xFF != tenant ||
      (!m.unmap && !mapKindOk m) then none
  else
    (List.range m.count).mapM fun i =>
      let o := off + i * levelSpan m.lvl
      (s.tableFor d m.asid o m.lvl).map fun t => (o, t + 16 * levelIndex m.lvl o)

/-- 18 R398: entry `i` that MAP writes: ADDR of a frame or a host page goes on by the span. -/
def mapEntry (m : MapCmd) (i : Nat) : Pte :=
  if m.unmap then 0
  else if m.pte.kind == 2 || m.pte.kind == 3 then m.pte + (BitVec.ofNat 128 (i * levelSpan m.lvl / 16384) <<< 14)
  else m.pte

/-- MAP and UNMAP at work (18 R398, R400): the entries are written, and what they replace is kept until it may be reused. -/
def State.burstMap (s : State) (d : BitVec 2) (q : QCmd) : State :=
  let m := mapCmd q.cmd
  match s.mapSlots d (s.qrec d q.q).owner m with
  | none => s.failQCmd d q 20
  | some l =>
    let old := l.flatMap fun e => leavesOf s d m.lvl e.1 (s.pteAt d e.2)
    let mem := l.zipIdx.foldl (fun mem e => writeNat mem (hbmKey d e.1.2) 16 (mapEntry m e.2).toNat) s.mem
    let till := if m.unmap || !old.isEmpty then s.time + (s.die d).lease else 0
    { s with mem := mem }.setQCmd d { q with pos := s.time, pages := old, phase := .leases till }

/-- 18 R400: nothing uses an old mapping any longer. -/
def State.pageFree (s : State) (d : BitVec 2) (asid : BitVec 12) (p : Nat × Pte × Bool) : Bool :=
  let x := s.die d
  (p.2.1.kind != 2 || (List.range (leafSize p.2.2 / pageSize)).all fun j =>
    !s.pinned (d.toNat * regionSize + Pte.addr p.2.1 + 65536 * j)) &&
  !(x.migr.any fun y => y.asid == asid && y.page == p.1) &&
  !(x.tlb.any fun t => t.asid == asid && t.page == p.1 && t.big == p.2.2 && t.pte == p.2.1 && decide (s.time < t.till))

/-- The WAITED bits of `n` bytes of tags cleared. -/
def clearWaited (m : Memory) (k n : Nat) : Memory :=
  m.filterMap fun c =>
    if decide (k ≤ c.1) && decide (c.1 < k + n) then
      (let v := c.2 &&& 0x55; if v == unlisted then none else some (c.1, v))
    else some c

/-- 18 R406: the records of a TAGGED page that has gone wake with 2, and its WAITED bits are cleared. -/
def State.wakePage (s : State) (d : BitVec 2) (asid : BitVec 12) (p : Nat × Pte × Bool) : State :=
  if !p.2.1.tagged then s
  else
    let size := leafSize p.2.2
    let recs : List ParkRec := (s.die d).buckets.flatMap fun b => b.recs.filter fun r =>
      r.asid == asid && vaDie r.word == d && vaOff r.word / size == p.1
    let s := recs.foldl (fun s r => s.wakeRec d r 2) s
    { s with mem := clearWaited s.mem (hbmKey d ((s.die d).tagBase + 2048 * p.2.1.tagIdx)) (2048 * (size / pageSize)) }

/-- ENGINE_COMMAND_COMPLETE of a queue command (17 R375): nothing of it is outstanding any longer, and its completion
is due. -/
def State.completeQCmd (s : State) (d : BitVec 2) (id : Nat) : State :=
  match (s.die d).qcmd? id with
  | none => s
  | some m =>
    match m.phase with
    | .leases till =>
      let asid := (mapCmd m.cmd).asid
      if decide (s.time < till) || !m.pages.all (s.pageFree d asid) then s
      else (m.pages.foldl (fun s p => s.wakePage d asid p) s).setQCmd d { m with phase := .due, bce := none, pos := 0, pages := [] }
    | _ => s

/-- ENGINE_BURST of a queue command. -/
def State.burstQCmd (s : State) (d : BitVec 2) (id : Nat) : State :=
  match (s.die d).qcmd? id with
  | none => s
  | some m =>
    if m.phase != .moving || !(s.die d).up then s
    else
      match cmdOpc m.cmd with
      | 2 => s.burstCopy d m
      | 3 => s.burstSignal d m
      | 6 => s.burstTagfill d m
      | _ => s.burstMap d m

/-- ENGINE_COMMAND_START of a COPY (01 R36): its bulk copy engine sets to work on it in a turn of its tenant. -/
def State.startQCmd (s : State) (d : BitVec 2) (id : Nat) : State :=
  match (s.die d).qcmd? id with
  | none => s
  | some m => if s.copyMayStart d m then s.setQCmd d { m with phase := .moving } else s

/-- ENGINE_COMMAND_START (09 R231). -/
def execEngineCommandStart (r : CmdRef) (s : State) : Out :=
  .next (match r with
    | .engine c id => s.startCmd c id
    | .queue d id => s.startQCmd d id)

/-- ENGINE_BURST (09 R233). -/
def execEngineBurst (r : CmdRef) (s : State) : Out :=
  .next (match r with
    | .engine c id => s.burstCmd c id
    | .queue d id => s.burstQCmd d id)

/-- ENGINE_COMMAND_COMPLETE (09 R230, 17 R375). -/
def execEngineCommandComplete (r : CmdRef) (s : State) : Out :=
  .next (match r with
    | .engine c id => s.completeCmd c id
    | .queue d id => s.completeQCmd d id)

/-! ### Completion records (17 R375, R376) -/

/-- 17 R376: the eight words of a record. -/
def recordWords (m : QCmd) : List Nat :=
  let utag := if m.kind == 1 || m.kind == 2 then cmdBits m.cmd 0 63 32 else 0
  let opc := if m.kind == 4 then 0 else cmdOpc m.cmd
  [2 ^ 32 * utag + 65536 * m.status.toNat + 256 * opc + m.kind.toNat, 2 ^ 32 * (m.stream % 2 ^ 32) + m.index.toNat,
    m.a.toNat, m.b.toNat] ++ m.regs.toList.map (·.toNat)

/-- 17 R367, R371: a record raises the queue's vector: IRQEN is set and, for the record of a command, its header asks for
it; a record of no command needs IRQEN alone (log entry 48). -/
def raisesVector (r : QueueRec) (m : QCmd) : Bool :=
  r.ctl.getLsbD 14 && (cmdIrq m.cmd || (m.kind != 1 && m.kind != 2))

/-- 17 R376: a record written at CTAIL, or dropped in a full ring; the vector raised. A ring that cannot be written loses it
(log entry 19). -/
def State.postRecord (s : State) (d : BitVec 2) (m : QCmd) : Posting :=
  let r := s.qrec d m.q
  if (r.ctail - r.chead).toNat == 2 ^ r.clog then
    .done ((s.modQ d m.q fun r => { r with ovf := true }).count d 22 1)
  else
    match s.officeWrite d (if m.kind == 4 then .office d m.q else .queue d m.id) r.owner r.asid (r.cbase + BitVec.ofNat 64 (64 * (r.ctail.toNat % 2 ^ r.clog))) (wordsBytes 8 (recordWords m)) with
    | .done s =>
      let s := s.modQ d m.q fun r => { r with ctail := r.ctail + 1 }
      .done (if raisesVector r m then s.sends (.msix r.owner (r.ctl.extractLsb' 8 6)) else s)
    | p => p

/-- 17 R375: the record, then the counter's increment. -/
def State.postDue (s : State) (d : BitVec 2) (m : QCmd) : State :=
  let after := fun (s : State) =>
    let s := s.dropQCmd d m.id
    if (m.kind == 1 || m.kind == 2) && cmdCnt m.cmd then s.bumpCounter d (cmdCidx m.cmd) 1 (s.qrec d m.q).owner else s
  if m.kind == 1 && !cmdRec m.cmd then after s
  else
    match s.postRecord d m with
    | .done t => after t
    | .lost t => after t
    | .wait t => t
    | .held va => s.bringOffice d (s.qrec d m.q).asid va 2 0

/-! ### The frame (17 R377) -/

/-- 17 R377: the time at which slot `n`, counted from the first frame on, begins. -/
def slotTime (n : Nat) : Nat := n / 128 * 11200 + 175 * (n % 128) / 2

/-- The activity of the slot that runs now; 0 before the first. -/
def Die.activity (x : Die) : Nat := if x.slots == 0 then 0 else (x.sched.getD ((x.slots - 1) % 128) 0).toNat

/-- 17 R377: the next slot of the die may begin, and names this activity. -/
def State.slotDue (s : State) (d : BitVec 2) (code : Nat) : Bool :=
  let x := s.die d
  x.up && decide (slotTime x.slots ≤ s.time) && decide (x.slots / 128 < x.frames) && (x.sched.getD (x.slots % 128) 0).toNat == code

/-- A slot: it begins, and its work is done. -/
def State.inSlot (s : State) (d : BitVec 2) (code : Nat) (work : State → State) : State :=
  if s.slotDue d code then work (s.modDie d fun x => { x with slots := x.slots + 1, frankLeft := 0 }) else s

/-- IDLE_SLOT (17 R377). -/
def execIdleSlot (die : BitVec 2) (s : State) : Out := .next (s.inSlot die 0 id)

/-- 17 R377: the doorbell bitmap read and cleared. -/
def State.readDoorbells (s : State) (d : BitVec 2) : State :=
  let bits := (s.die d).doorbells
  s.modDie d fun x => { x with
    doorbells := 0
    queues := Vector.ofFn fun i => if bits.getLsbD i.val then { x.queues.getD i.val QueueRec.reset with
      handed := (x.queues.getD i.val QueueRec.reset).tail } else x.queues.getD i.val QueueRec.reset }

/-- DOORBELL_SLOT (17 R377). -/
def execDoorbellSlot (die : BitVec 2) (s : State) : Out := .next (s.inSlot die 1 fun s => s.readDoorbells die)

/-- MTU_FAULT_SLOT (18 R401). -/
def execMtuFaultSlot (die : BitVec 2) (s : State) : Out := .next (s.inSlot die 2 fun s => s.mtuFaultSlot die)

/-! ### Pre-emption requests (11 R286, R292, 17 R384) -/

/-- 11 R286: PREEMPT_PENDING and PREEMPT_DEADLINE set in every context of a stream. -/
def State.requestPreempt (s : State) (key : Nat) (deadline : Word) (why : Option (BitVec 8)) : State :=
  let st := s.stream key
  if st.kill.isSome || st.out || !(s.streams.any fun x => x.key == key) then s
  else
    let s := s.modStream key fun x => { x with preempt := some (deadline, why) }
    (s.ctxsOf key).foldl (fun s e => s.modCtx e.1 e.2 fun k =>
      if k.life == .saved || k.life == .leaving then k else { k with preempt := true, deadline := deadline }) s

/-- 11 R292: a request withdrawn: pending bits cleared, saved contexts restored in place. -/
def State.withdrawPreempt (s : State) (key : Nat) : State :=
  match (s.stream key).preempt with
  | some (_, some _) =>
    let s := s.modStream key fun x => { x with preempt := none }
    (s.ctxsOf key).foldl (fun s e => s.modCtx e.1 e.2 fun k =>
      { k with
        preempt := false
        life := match k.life with | .saved => .restoring | .saving => .running | l => l
        startAt := if k.life == .saved then s.time else k.startAt }) s
  | _ => s

/-- 11 R292: a context of the stream goes on although its request stands: its save was abandoned. -/
def State.abandoned (s : State) (st : Stream) : Bool :=
  (match st.preempt with | some (_, some _) => true | _ => false) && (s.ctxsOf st.key).any fun e =>
    let k := s.ctx e.1 e.2
    (k.life == .running || k.life == .reserved) && !k.preempt

/-- 17 R384: the deadline of a request that is made now for an URGENT queue. -/
def State.deadlineFor (s : State) (d : BitVec 2) (q : BitVec 8) : Word := BitVec.ofNat 64 (s.time + (s.qrec d q).pdeadline)

/-- 11 R292: the Postmaster requests again, with a new deadline, or withdraws, as it likes (log entry 1). -/
def State.again (s : State) (st : Stream) : State :=
  match st.preempt with
  | some (_, some q) =>
    if s.freeVal 1 (3600 + st.key % 64) == 1 then s.requestPreempt st.key (s.deadlineFor st.die q) (some q)
    else s.withdrawPreempt st.key
  | _ => s

/-- 17 R384: the requests of an URGENT queue: on each core of its row that has no free context, the stream that started
last; a stream already under a request is not chosen again. -/
def State.preemptFor (s : State) (d : BitVec 2) (q : BitVec 8) (row : BitVec 256) : State :=
  ((rowList row).map (BitVec.ofNat 8)).foldl (fun s c =>
    if (s.freeCtx ⟨d, c⟩).isSome then s
    else
      match s.latestOn d (s.qrec d q).owner c with
      | some st => if st.preempt.isSome then s else s.requestPreempt st.key (s.deadlineFor d q) (some q)
      | none => s) s

/-- RETIREMENT_SLOT (17 R377): records and increments, then requests withdrawn, issued, and issued again. -/
def State.retireSlot (s : State) (d : BitVec 2) : State :=
  let due := (s.die d).qcmds.filter fun m => m.phase == .due
  let s := due.foldl (fun s m => s.postDue d m) s
  let calls := (s.die d).calls
  let asks := (s.die d).asks
  let s := s.modDie d fun x => { x with calls := [], asks := [] }
  let lame := s.streams.filter fun st => st.die == d && s.abandoned st && !calls.contains st.key
  let s := calls.foldl (fun s k => s.withdrawPreempt k) s
  let s := asks.foldl (fun s a => s.preemptFor d a.1 a.2) s
  lame.foldl (fun s st => s.again st) s

def execRetirementSlot (die : BitVec 2) (s : State) : Out := .next (s.inSlot die 3 fun s => s.retireSlot die)

/-- QUEUE_COMMAND_COMPLETE (17 R375): one completion that is due, in a retirement slot. -/
def execQueueCommandComplete (die : BitVec 2) (id : Nat) (s : State) : Out :=
  .next (match (s.die die).qcmd? id with
    | some m => if m.phase == .due && (s.die die).up && (s.die die).activity == 3 then s.postDue die m else s
    | none => s)

/-! ### Franking (17 R385 to R387) -/

/-- What a fired action comes to. -/
inductive Franked where
  | done (s : State)
  /-- it waits for room in a full ring, and those behind it with it -/
  | wait (s : State)
  /-- it waits for a page or a route, and holds back no other -/
  | later (s : State)

/-- 17 R387: ENQUEUE: the command goes to an ENABLED queue of the same tenant; it waits while the ring is full. The Postmaster
is no engine of a tenant: its write to the ring waits for no turn (01 R36). -/
def State.frankEnqueue (s : State) (d : BitVec 2) (e : FrankEntry) : Franked :=
  let q : BitVec 8 := (e.words.getD 4 0).setWidth 8
  let r := s.qrec d q
  if r.owner != e.tenant || r.state != .enabled then .done s
  else if r.full then .wait s
  else
    let at_ := e.words.getD 5 0
    match s.officeRead d q e.asid at_ 64 with
    | .held va => .later (s.bringOffice d e.asid va 1 0)
    | .ask va => .later (s.sendPacket d (.office d q) e.tenant e.asid va false [])
    | .wait => .later s
    | .none => .done (s.donePackets (.office d q))
    | .ok l _ =>
      match (s.officeSeen d e.asid at_ 64).append d (.office d q) q (s.die d).turnOwner l with
      | .done t _ => .done t
      | .wait t => .later t
      | .held va => .later (s.bringOffice d r.asid va 2 0)
      | .bad t _ => .done t

/-- 17 R387, R385: FABRIC: 16 bytes sent as one posted write, tagged when TAGW is set. The write is a request of the
firmware: it is held at the MTU like any other and holds back no other action; one to another package is a packet. -/
def State.frankFabric (s : State) (d : BitVec 2) (e : FrankEntry) : Franked :=
  let va := e.words.getD 4 0
  let b := bytesOfNat (e.words.getD 6 0).toNat 8 ++ bytesOfNat (e.words.getD 7 0).toNat 8
  let t := s.postWrite d e.tenant e.asid va b (e.words.getD 5 0)
  .done (if t.1.reqStill t.2 then t.1.fabricWrite t.2 else t.1)

/-- 17 R387: FLAG: the count is posted to a flag of a core of the tenant's partition. -/
def State.frankFlag (s : State) (d : BitVec 2) (e : FrankEntry) : Franked :=
  let w := (e.words.getD 4 0).toNat
  match partCore (s.die d) e.tenant (bitsOf w 7 0) with
  | some p => .done (s.modCore ⟨d, p⟩ fun k => k.post (BitVec.ofNat 5 (bitsOf w 12 8)) ((e.words.getD 5 0).setWidth 16))
  | none => .done s

def State.frankAct (s : State) (d : BitVec 2) (e : FrankEntry) : Franked :=
  match bitsOf (e.words.getD 1 0).toNat 25 24 with
  | 0 => s.frankEnqueue d e
  | 1 => s.frankFabric d e
  | _ => s.frankFlag d e

/-- 17 R377: up to `n` actions in firing order; one that waits for a full ring holds back those behind it. Those in `kept`
have been tried and wait for a page or a route: they stay, first in order, for a later slot. -/
def State.frankRun (s : State) (d : BitVec 2) : Nat → List FrankEntry → State
  | 0, kept => s.modDie d fun x => { x with fired := kept ++ x.fired, frankLeft := 0 }
  | n + 1, kept =>
    match (s.die d).fired with
    | [] => s.modDie d fun x => { x with fired := kept, frankLeft := 0 }
    | e :: r =>
      match (s.modDie d fun x => { x with fired := r }).frankAct d e with
      | .done t => t.frankRun d n kept
      | .later t => t.frankRun d n (kept ++ [e])
      | .wait t => t.modDie d fun x => { x with fired := kept ++ e :: x.fired, frankLeft := kept.length + n + 1 }

/-- FRANKING_SLOT (17 R377): the entries that have fired, as they stand at the slot's start, at most 16. -/
def execFrankingSlot (die : BitVec 2) (s : State) : Out :=
  .next (s.inSlot die 4 fun s => s.frankRun die (min 16 (s.die die).fired.length) [])

/-- FRANK_ENQUEUE (17 R387): in the rest of a franking slot, an action that waited is tried again, and those behind it. -/
def execFrankEnqueue (die : BitVec 2) (s : State) : Out :=
  .next (if (s.die die).up && (s.die die).activity == 4 && decide (0 < (s.die die).frankLeft) then s.frankRun die (s.die die).frankLeft [] else s)

/-- POSTMARK_INCREMENT (17 R385): a counter stored to, or incremented. -/
def execPostmarkIncrement (die : BitVec 2) (ctr : BitVec 8) (store : Bool) (value : Word) (s : State) : Out :=
  .next (s.modDie die fun x => x.setCounter ctr.toNat (if store then value else x.counters.getD ctr.toNat 0 + value))

/-! ### The end of a drain (17 R388) -/

/-- 17 R388: nothing of the queue is left. -/
def State.drained (s : State) (d : BitVec 2) (q : BitVec 8) : Bool :=
  (s.qrec d q).state == .draining && !(s.streams.any fun st => st.die == d && st.q == q) &&
  !((s.die d).qcmds.any fun m => m.q == q)

/-- 17 R376: the record of a drain. -/
def drainRecord (q : BitVec 8) (r : QueueRec) : QCmd :=
  { id := 0, q := q, index := 0, cmd := 0, pos := 0, status := 0, phase := .due, bce := none, stream := 0, kind := 4
    a := r.killed ++ r.retired, b := (r.tail - r.head).setWidth 64, regs := Vector.replicate 4 0, pages := [] }

/-- QUEUE_DRAIN_COMPLETE (17 R388). -/
def execQueueDrainComplete (die : BitVec 2) (q : BitVec 8) (s : State) : Out :=
  .next (if !s.drained die q || !(s.die die).up then s
    else
      let ended := fun (t : State) => t.modQ die q fun r =>
        { r with state := .disabled, deficit := 0, passes := 0, resv := none, killing := false }
      match s.postRecord die (drainRecord q (s.qrec die q)) with
      | .held va => s.bringOffice die (s.qrec die q).asid va 2 0
      | .wait t => t
      | .lost t => ended t
      | .done t => ended t)

end Sys2Proof.Machine
end

