-- ==== Sys2Proof/Machine/HostPort.lean ====
section
/-! DEFINITION. What the host does through its functions (17 R363 to R370, R386 to R391, 18 R394): doorbells, queue
control, the tenancy tables, BAR2, and the reset of a function. -/
namespace Sys2Proof.Machine

/-- 19 R415: the regions are open, and there is such a function (17 R363). -/
def State.hostOpen (s : State) (fn : BitVec 5) : Bool :=
  s.island.booted && s.island.pcieGood && decide (fn.toNat < 17)

/-- 17 R363: FUNCERR with a bit set. -/
def State.funcErr (s : State) (fn : BitVec 5) (bit : Nat) : State :=
  { s with fns := s.fns.setIfInBounds fn.toNat { (s.fns.getD fn.toNat Fn.reset) with
      funcerr := (s.fns.getD fn.toNat Fn.reset).funcerr ||| (1#3 <<< bit) } }

/-- The tenant of a function (17 R363). -/
def fnTenant (fn : BitVec 5) : BitVec 8 := fn.setWidth 8

/-- A write by a function: dropped while the host side is closed. -/
def State.host (s : State) (fn : BitVec 5) (k : State → State) : State := if s.hostOpen fn then k s else s

/-- 17 R364: a write to a queue's registers: dropped with FUNCERR bit 0 where the function does not own the queue;
a die that is down does not answer (19 R418). -/
def State.ownerWrite (s : State) (fn : BitVec 5) (d : BitVec 2) (q : BitVec 8) (k : State → State) : State :=
  s.host fn fun s =>
    if (s.qrec d q).owner != fnTenant fn then s.funcErr fn 0
    else if !(s.die d).up then s
    else k s

/-- 17 R364: a write that only the physical function may make. -/
def State.physWrite (s : State) (fn : BitVec 5) (d : BitVec 2) (k : State → State) : State :=
  s.host fn fun s => if fn != 0 then s.funcErr fn 0 else if !(s.die d).up then s else k s

/-! ### Doorbells (17 R369) -/

def State.doorbell (s : State) (fn : BitVec 5) (d : BitVec 2) (q : BitVec 8) (v : BitVec 32) : State :=
  s.ownerWrite fn d q fun s =>
    let r := s.qrec d q
    if r.state != .enabled then s
    else if 2 ^ r.rlog < (v - r.head).toNat || (v - r.head).toNat < (r.tail - r.head).toNat then s.funcErr fn 0
    else (s.modQ d q fun r => { r with tail := v }).modDie d fun x => { x with doorbells := x.doorbells ||| (1#256 <<< q.toNat) }

/-- DOORBELL_WRITE (17 R369). -/
def execDoorbellWrite (fn : BitVec 5) (die : BitVec 2) (q : BitVec 8) (value : BitVec 32) (s : State) : Out :=
  .next (s.doorbell fn die q value)

/-! ### Queue states (17 R368, R388, R389) -/

/-- 17 R368: what ENABLE asks of a queue. -/
def enableOk (x : Die) (r : QueueRec) : Bool :=
  decide (4 ≤ r.rlog) && decide (4 ≤ r.clog) && r.rbase.toNat % 64 == 0 && r.cbase.toNat % 64 == 0 &&
  x.asidOwner.getD r.asid.toNat 0xFF == r.owner

def State.enable (s : State) (fn : BitVec 5) (d : BitVec 2) (q : BitVec 8) : State :=
  s.ownerWrite fn d q fun s =>
    let r := s.qrec d q
    if r.state != .disabled then s
    else if !enableOk (s.die d) r then s.funcErr fn 1
    else s.modQ d q fun r => { r with state := .enabled, deficit := 0, passes := 0, retired := 0, killed := 0 }

/-- QUEUE_ENABLE (17 R368). -/
def execQueueEnable (fn : BitVec 5) (die : BitVec 2) (q : BitVec 8) (s : State) : Out := .next (s.enable fn die q)

/-- 17 R384, R388: a queue whose head is not started any more asks for nothing. -/
def State.dropAsks (s : State) (d : BitVec 2) (q : BitVec 8) : State :=
  s.modDie d fun x => { x with asks := x.asks.filter fun a => a.1 != q }

def State.destroy (s : State) (fn : BitVec 5) (d : BitVec 2) (q : BitVec 8) : State :=
  s.ownerWrite fn d q fun s =>
    if (s.qrec d q).state != .enabled then s
    else (s.modQ d q fun r => { r with state := .draining, killing := false, resv := none }).dropAsks d q

/-- QUEUE_DESTROY (17 R388). -/
def execQueueDestroy (fn : BitVec 5) (die : BitVec 2) (q : BitVec 8) (s : State) : Out := .next (s.destroy fn die q)

/-- 17 R389: a resume entry discarded, its save areas unread: its stream is killed. Which context counts as struck
first is its first saved rank, and the context number is free (log entry 1). -/
def State.killOut (s : State) (key : Nat) (reason : Nat) : State :=
  let st := s.stream key
  let rank := ((st.saved.map (·.rank)).head?).getD 0
  let rel := (rowList st.row).getD rank 0
  let s := s.killStream key reason (⟨st.die, 0⟩, 0)
  let s := s.modStream key fun x => { x with
    struck := BitVec.ofNat 64 (reason + 256 * rank + 65536 * rel + 2 ^ 24 * (s.freeVal 2 3990).toNat) }
  s.retireStream key

/-- 17 R389: a running stream of a queue that is killed. -/
def State.killRunning (s : State) (key : Nat) (deadline : Word) : State :=
  (s.requestPreempt key deadline none).checkOut key

def State.killQueue (s : State) (fn : BitVec 5) (d : BitVec 2) (q : BitVec 8) : State :=
  s.ownerWrite fn d q fun s =>
    let r := s.qrec d q
    if r.state != .enabled && r.state != .draining then s
    else
      let s := (s.modQ d q fun r => { r with state := .draining, killing := true, resv := none, resume := [] }).dropAsks d q
      let s := r.resume.foldl (fun s k => s.killOut k 6) s
      let keys := (s.streams.filter fun st => st.die == d && st.q == q && !st.out && st.kill.isNone).map (·.key)
      keys.foldl (fun s k => s.killRunning k (BitVec.ofNat 64 (s.time + r.pdeadline))) s

/-- QUEUE_KILL (17 R389). -/
def execQueueKill (fn : BitVec 5) (die : BitVec 2) (q : BitVec 8) (s : State) : Out := .next (s.killQueue fn die q)

/-! ### Tenancy tables (17 R365, R366) -/

/-- 17 R365: a value that names a tenant, or none. -/
def tenantOk (v : BitVec 8) : Bool := decide (v.toNat ≤ 16) || v == 0xFF

/-- 17 R365: a context of a cluster is held. -/
def State.clusterBusy (s : State) (d : BitVec 2) (c : Nat) : Bool :=
  (List.range 16).any fun n => (List.range 4).any fun x =>
    (s.ctx ⟨d, BitVec.ofNat 8 (16 * c + n)⟩ (BitVec.ofNat 2 x)).life != .free

/-- 17 R366, R368: an assignment word written. -/
def State.assign (s : State) (fn : BitVec 5) (d : BitVec 2) (q : BitVec 8) (v : Word) : State :=
  let r := s.qrec d q
  let w : Word := v &&& 0xFFFFFFFFFFFF1FFF
  let owner : BitVec 8 := v.setWidth 8
  if q == 0 || !tenantOk owner then s.funcErr fn 1
  else if owner == r.owner then s.modQ d q fun r => { r with word := w }
  else if r.state != .free && r.state != .disabled then s.funcErr fn 1
  else if owner == 0xFF then s.modQ d q fun r => { r with word := w, state := .free }
  else if r.state == .free then s.modQ d q fun _ => { QueueRec.reset with word := w, state := .disabled }
  else s.modQ d q fun r => { r with word := w }

/-- QUEUE_ASSIGNMENT_WRITE (17 R366). -/
def execQueueAssignmentWrite (fn : BitVec 5) (die : BitVec 2) (q : BitVec 8) (value : Word) (s : State) : Out :=
  .next (s.physWrite fn die fun s => s.assign fn die q value)

/-- 17 R365: a byte of a die's tenancy tables written. -/
def State.tenancyByte (s : State) (fn : BitVec 5) (d : BitVec 2) (off : Nat) (v : BitVec 8) : State :=
  let x := s.die d
  if 0x200 ≤ off && off < 0xA00 then
    let q : BitVec 8 := BitVec.ofNat 8 ((off - 0x200) / 8)
    let k := 8 * (off % 8)
    s.assign fn d q (((s.qrec d q).word &&& ~~~(0xFF#64 <<< k)) ||| (v.setWidth 64 <<< k))
  else if !(off < 0x10 || (0x100 ≤ off && off < 0xD18)) then s.funcErr fn 0
  else if !tenantOk v then s.funcErr fn 1
  else if off < 0x10 then
    if x.clusterOwner.getD off 0xFF != v && s.clusterBusy d off then s.funcErr fn 1
    else s.setDie d { x with clusterOwner := x.clusterOwner.setIfInBounds off v }
  else if off < 0x200 then
    s.setDie d { x with slotNext := some ((x.slotNext.getD x.slotOwner).setIfInBounds (off - 0x100) v) }
  else if off < 0xB00 then s.setDie d { x with ctrOwner := x.ctrOwner.setIfInBounds (off - 0xA00) v }
  else if off < 0xD00 then s.setDie d { x with frankOwner := x.frankOwner.setIfInBounds (off - 0xB00) v }
  else s.setDie d { x with chanOwner := x.chanOwner.setIfInBounds (off - 0xD00) v }

/-- TENANCY_TABLE_WRITE (17 R365). -/
def execTenancyTableWrite (fn : BitVec 5) (die : BitVec 2) (off : BitVec 12) (value : BitVec 8) (s : State) : Out :=
  .next (s.physWrite fn die fun s => s.tenancyByte fn die off.toNat value)

/-- 18 R395: the address of the root table that the firmware allocates for an ASID (log entry 8). -/
def rootAt (asid : BitVec 12) : Nat := hbmSize - 16384 * (asid.toNat + 1)

/-- 18 R395: an ASID's owner set: its root is allocated and cleared. -/
def State.setAsidOwner (s : State) (fn : BitVec 5) (d : BitVec 2) (asid : BitVec 12) (v : BitVec 8) : State :=
  let x := s.die d
  if !tenantOk v then s.funcErr fn 1
  else if x.asidOwner.getD asid.toNat 0xFF == v then s
  else
    let roots := x.roots.filter fun r => r.1 != asid.toNat
    let x' : Die := { x with
      asidOwner := x.asidOwner.setIfInBounds asid.toNat v
      roots := if v == 0xFF then roots else roots ++ [(asid.toNat, rootAt asid)] }
    { s with mem := clearBytes s.mem (hbmKey d (rootAt asid)) 16384 }.setDie d x'

/-- ASID_OWNER_WRITE (18 R395). -/
def execAsidOwnerWrite (fn : BitVec 5) (die : BitVec 2) (asid : BitVec 12) (value : BitVec 8) (s : State) : Out :=
  .next (s.physWrite fn die fun s => s.setAsidOwner fn die asid value)

/-- 17 R363: FUNCERR's bits are cleared by writing 1. -/
def State.clearFuncErr (s : State) (fn : BitVec 5) (value : BitVec 3) : State :=
  { s with fns := s.fns.setIfInBounds fn.toNat { (s.fns.getD fn.toNat Fn.reset) with
    funcerr := (s.fns.getD fn.toNat Fn.reset).funcerr &&& ~~~value } }

/-- FUNCERR_CLEAR (17 R363). -/
def execFuncerrClear (fn : BitVec 5) (value : BitVec 3) (s : State) : Out :=
  .next (s.host fn fun s => s.clearFuncErr fn value)

/-! ### Registers of BAR0 -/

/-- 17 R367: a word of a queue's control record written: the words that only DISABLED lets be written, CTRL, CHEAD. -/
def State.recordWrite (s : State) (fn : BitVec 5) (d : BitVec 2) (q : BitVec 8) (o : Nat) (v : Word) : State :=
  let dis := fun (f : QueueRec → QueueRec) (s : State) =>
    s.ownerWrite fn d q fun s => if (s.qrec d q).state == .disabled then s.modQ d q f else s
  match o with
  | 0x00 => dis (fun r => { r with rbase := v }) s
  | 0x08 => dis (fun r => { r with cbase := v }) s
  | 0x10 =>
    let s := dis (fun r => { r with ctl := v &&& 0x3FFC7FFF }) s
    (match (v.extractLsb' 16 2).toNat with
    | 1 => s.enable fn d q
    | 2 => s.destroy fn d q
    | 3 => s.killQueue fn d q
    | _ => s)
  | 0x30 => s.ownerWrite fn d q fun s => s.modQ d q fun r => { r with chead := v.setWidth 32 }
  | _ => s.ownerWrite fn d q id

/-- 17 R378: eight codes of the schedule table; the last word makes the table pending on every die. -/
def State.schedWrite (s : State) (k : Nat) (v : Word) : State :=
  { s with dies := s.dies.map fun x =>
      let buf := (List.range 8).foldl (fun b i => b.setIfInBounds (k + i) (v.extractLsb' (8 * i) 8)) x.schedBuf
      { x with schedBuf := buf, schedNext := if k == 120 then some buf else x.schedNext } }

/-! ### BAR4 (19 R423) -/

/-- 19 R423: a write to DOORBELL: dropped with FUNCERR bit 0 while the mailbox is busy; one that sets bit 0 makes it busy. -/
def State.mailDoorbell (s : State) (fn : BitVec 5) (set : Bool) : State :=
  if (s.fn fn).busy then s.funcErr fn 0
  else if set then { s with nextId := s.nextId + 1 }.modFn fn fun f => { f with busy := true, order := s.nextId }
  else s

/-- 19 R423: a write of 8 bytes to BAR4: to the request or to DOORBELL; any other sets FUNCERR bit 0 (log entry 74). -/
def State.bar4Write (s : State) (fn : BitVec 5) (off : Nat) (v : Word) : State :=
  s.host fn fun s =>
    if off % 8 == 0 && decide (off < 0x100) then s.modFn fn fun f => { f with req := f.req.setIfInBounds (off / 8) v }
    else if off == 0x200 then s.mailDoorbell fn (v.getLsbD 0)
    else s.funcErr fn 0

/-- 19 R423: 8 bytes of BAR4 as they read. -/
def Fn.bar4At (f : Fn) (off : Nat) : Option Word :=
  if off % 8 != 0 then none
  else if off < 0x100 then some (f.req.getD (off / 8) 0)
  else if off < 0x200 then some (f.resp.getD (off / 8 - 32) 0)
  else if off == 0x200 then some (BitVec.ofNat 64 f.busy.toNat)
  else none

/-- 17 R363: a write to BAR0 goes to the region its offset lies in; every other offset is reserved (R364). Of the function
registers, FUNCID is at 0 and FUNCERR at 8 (log entry 74). -/
def State.bar0Write (s : State) (fn : BitVec 5) (off : Nat) (v : Word) : State :=
  let byte := fun (i : Nat) => v.extractLsb' (8 * i) 8
  if off % 8 != 0 then s.host fn fun s => s.funcErr fn 0
  else if off == 0 then s
  else if off == 8 then s.host fn fun s => s.clearFuncErr fn (v.setWidth 3)
  else if 0x1000 ≤ off && off < 0x5000 && off % 0x1000 < 0x800 then
    s.doorbell fn (BitVec.ofNat 2 (off / 0x1000 - 1)) (BitVec.ofNat 8 (off % 0x1000 / 8)) (v.setWidth 32)
  else if 0x10000 ≤ off && off < 0x20000 then
    s.recordWrite fn (BitVec.ofNat 2 (off / 0x4000)) (BitVec.ofNat 8 (off % 0x4000 / 64)) (off % 64) v
  else if 0x20000 ≤ off && off < 0x24000 then
    let d : BitVec 2 := BitVec.ofNat 2 (off / 0x1000)
    let o := off % 0x1000
    s.physWrite fn d fun s =>
      if 0x200 ≤ o && o < 0xA00 then s.assign fn d (BitVec.ofNat 8 ((o - 0x200) / 8)) v
      else (List.range 8).foldl (fun s i => s.tenancyByte fn d (o + i) (byte i)) s
  else if 0x30000 ≤ off && off < 0x34000 then
    let d : BitVec 2 := BitVec.ofNat 2 (off / 0x1000)
    s.physWrite fn d fun s =>
      (List.range 8).foldl (fun s i => s.setAsidOwner fn d (BitVec.ofNat 12 (off % 0x1000 + i)) (byte i)) s
  else if 0x38000 ≤ off && off < 0x38080 then
    s.host fn fun s => if fn != 0 then s.funcErr fn 0 else s.schedWrite (off - 0x38000) v
  else s.host fn fun s => s.funcErr fn 0

/-- REGISTER_WRITE (17 R363, R367, 19 R423): 8 bytes of BAR0, or of BAR4 where bit 18 of the offset is set. -/
def execRegisterWrite (fn : BitVec 5) (off : BitVec 19) (value : Word) (s : State) : Out :=
  .next (if off.getLsbD 18 then s.bar4Write fn (off.toNat % 2 ^ 18) value else s.bar0Write fn off.toNat value)

/-- 17 R368: the code of a queue's state. -/
def QState.code : QState → Nat | .free => 0 | .disabled => 1 | .enabled => 2 | .draining => 3

/-- 17 R367: a word of a queue's control record as it reads; an URGENT queue's DEFICIT reads 0 (R381). -/
def QueueRec.wordAt (r : QueueRec) (o : Nat) : Word :=
  match o with
  | 0x00 => r.rbase
  | 0x08 => r.cbase
  | 0x10 => r.ctl
  | 0x18 => r.head.setWidth 64
  | 0x20 => r.tail.setWidth 64
  | 0x28 => r.ctail.setWidth 64
  | 0x30 => r.chead.setWidth 64
  | _ =>
    (if r.urgent then 0 else BitVec.ofInt 48 r.deficit) ++ BitVec.ofNat 8 r.passes ++ BitVec.ofBool r.resv.isSome ++
    BitVec.ofBool r.killing ++ BitVec.ofBool r.ovf ++ 0#3 ++ BitVec.ofNat 2 r.state.code

/-- 17 R365: a byte of a die's tenancy tables as it reads, outside the assignment words; none where it is reserved. -/
def Die.tenancyAt (x : Die) (o : Nat) : Option (BitVec 8) :=
  if o < 0x10 then some (x.clusterOwner.getD o 0xFF)
  else if 0x100 ≤ o && o < 0x200 then some ((x.slotNext.getD x.slotOwner).getD (o - 0x100) 0xFF)
  else if 0xA00 ≤ o && o < 0xB00 then some (x.ctrOwner.getD (o - 0xA00) 0xFF)
  else if 0xB00 ≤ o && o < 0xD00 then some (x.frankOwner.getD (o - 0xB00) 0xFF)
  else if 0xD00 ≤ o && o < 0xD18 then some (x.chanOwner.getD (o - 0xD00) 0xFF)
  else none

/-- Eight bytes as a word. -/
def eightOf (f : Nat → BitVec 8) : Word :=
  f 7 ++ f 6 ++ f 5 ++ f 4 ++ f 3 ++ f 2 ++ f 1 ++ f 0

/-- 17 R363 to R369: an 8-byte read of BAR0: the die whose registers it reads, if any, and the value; none where the
function may not read the location, or the location is reserved. What FUNCID holds above its tenant is free (log entry
74). -/
def State.bar0Read (s : State) (fn : BitVec 5) (off : Nat) : Option (Option (BitVec 2) × Word) :=
  let own := fun (d : BitVec 2) (q : BitVec 8) (f : QueueRec → Word) =>
    if (s.qrec d q).owner == fnTenant fn then some (some d, f (s.qrec d q)) else none
  if off % 8 != 0 then none
  else if off == 0 then some (none, s.freeVal 56 3998 ++ fnTenant fn)
  else if off == 8 then some (none, (s.fns.getD fn.toNat Fn.reset).funcerr.setWidth 64)
  else if 0x1000 ≤ off && off < 0x5000 && off % 0x1000 < 0x800 then
    own (BitVec.ofNat 2 (off / 0x1000 - 1)) (BitVec.ofNat 8 (off % 0x1000 / 8)) fun r => r.tail.setWidth 64
  else if 0x10000 ≤ off && off < 0x20000 then
    own (BitVec.ofNat 2 (off / 0x4000)) (BitVec.ofNat 8 (off % 0x4000 / 64)) fun r => r.wordAt (off % 64)
  else if fn != 0 then none
  else if 0x20000 ≤ off && off < 0x24000 then
    let d : BitVec 2 := BitVec.ofNat 2 (off / 0x1000)
    let o := off % 0x1000
    if 0x200 ≤ o && o < 0xA00 then some (some d, (s.qrec d (BitVec.ofNat 8 ((o - 0x200) / 8))).word)
    else if (List.range 8).all fun i => ((s.die d).tenancyAt (o + i)).isSome then
      some (some d, eightOf fun i => ((s.die d).tenancyAt (o + i)).getD 0)
    else none
  else if 0x30000 ≤ off && off < 0x34000 then
    let d : BitVec 2 := BitVec.ofNat 2 (off / 0x1000)
    some (some d, eightOf fun i => (s.die d).asidOwner.getD (off % 0x1000 + i) 0xFF)
  else if 0x38000 ≤ off && off < 0x38080 then
    some (none, eightOf fun i => (s.die 0).schedBuf.getD (off - 0x38000 + i) 0)
  else none

/-- A read of BAR0 that may be made is answered with the register's value; what a die that is down answers is a free value
(log entry 74). A read that may not be made returns 0 and sets FUNCERR bit 0 (17 R364). -/
def State.readBar0 (s : State) (fn : BitVec 5) (off : Nat) : State :=
  match s.bar0Read fn off with
  | none => (s.funcErr fn 0).sends (.read fn (List.replicate 8 0))
  | some (d, v) =>
    let answers := match d with | some e => (s.die e).up | none => true
    s.sends (.read fn (bytesOfNat (if answers then v else s.freeVal 64 3999).toNat 8))

/-- A read of BAR4. -/
def State.readBar4 (s : State) (fn : BitVec 5) (off : Nat) : State :=
  match (s.fn fn).bar4At off with
  | some v => s.sends (.read fn (bytesOfNat v.toNat 8))
  | none => (s.funcErr fn 0).sends (.read fn (List.replicate 8 0))

/-- REFUSED_READ (17 R363 to R369, 19 R423): a read of 8 bytes of BAR0, refused or not, or of BAR4 where bit 18 of the offset is
set. -/
def execRefusedRead (fn : BitVec 5) (off : BitVec 19) (s : State) : Out :=
  .next (s.host fn fun s => if off.getLsbD 18 then s.readBar4 fn (off.toNat % 2 ^ 18) else s.readBar0 fn off.toNat)

/-! ### BAR2 (18 R394) -/

/-- 18 R394: the device address of an offset of the window. -/
def bar2Addr (n : Nat) (off : Word) : Word :=
  BitVec.ofNat 64 (bitsOf off.toNat (n - 1) (n - 2) * 2 ^ 45 + bitsOf off.toNat (n - 3) 0)

/-- 17 R363, 18 R394: the exponent of BAR2's size, from 30 to 39, as the host has last set it; any other changes nothing. -/
def bar2Size (old : Nat) (size : BitVec 6) : Nat := if 30 ≤ size.toNat && size.toNat ≤ 39 then size.toNat else old

/-- The window of a function resized by the host. -/
def State.resizeBar2 (s : State) (fn : BitVec 5) (size : BitVec 6) : State :=
  { s with fns := s.fns.setIfInBounds fn.toNat { (s.fns.getD fn.toNat Fn.reset) with
    bar2 := bar2Size (s.fns.getD fn.toNat Fn.reset).bar2 size } }

/-- What the host reads at pieces of device memory; where one is poisoned the spec does not say what it gets: a free value (log
entry 74). -/
def State.hostBytes (s : State) (l : List (Place × Nat)) (n : Nat) : List Byte :=
  if s.spanPoison l then bytesOfNat (s.freeVal (8 * n) 3997).toNat n else s.spanRead l

/-- BAR2_ACCESS (18 R394): a plain access by the host, of as many bytes as `data` has; a read returns them. The host sets the
size of the window before it makes the access (17 R363). -/
def execBar2Access (fn : BitVec 5) (write : Bool) (off : WindowAt) (data : List Byte) (s : State) : Out :=
  .next (s.host fn fun s =>
    let s := s.resizeBar2 fn off.size
    let refuse := fun (s : State) => if write then s.funcErr fn 0 else (s.funcErr fn 0).sends (.aborted fn)
    let va := bar2Addr (s.fns.getD fn.toNat Fn.reset).bar2 off.off
    match s.windowAsid (fnTenant fn) with
    | none => refuse s
    | some w =>
      -- 18 R394: the function must own ASID w there
      if (s.die (vaDie va)).asidOwner.getD w.toNat 0xFF != fnTenant fn then refuse s
      else
        match s.span w va data.length (!write) write false with
        | .ok l =>
          if l.any fun p => !p.1.isDev then refuse s
          else
            let s := s.fillRange w va data.length
            if write then s.spanWrite l data else (s.countSubst w l).sends (.read fn (s.hostBytes l data.length))
        | _ => refuse s)

/-! ### Function reset (17 R391) -/

/-- 11 R294: every stream of a tenant is killed, on every die. -/
def State.killTenant (s : State) (t : BitVec 8) (reason : Nat) : State :=
  ((s.streams.filter fun st => st.tenant == t).map (·.key)).foldl (fun s k =>
    let who := ((s.ctxsOf k).head?).getD (⟨(s.stream k).die, 0⟩, 0)
    (s.killStream k reason who).retireStream k) s

/-- 17 R391: a queue of a tenant that is reset. -/
def resetQueue (t : BitVec 8) (r : QueueRec) : QueueRec :=
  if r.owner != t || r.state == .free then r
  else { r with state := .disabled, deficit := 0, passes := 0, resv := none, killing := false, resume := [] }

/-- 17 R391: a die's part of a function reset. -/
def Die.resetTenant (x : Die) (t : BitVec 8) : Die :=
  let own := fun (q : BitVec 8) => (x.queues[q.toNat]'(q.isLt)).owner == t
  { x with
    queues := x.queues.map (resetQueue t)
    qcmds := x.qcmds.filter fun m => !own m.q
    asks := x.asks.filter fun a => !own a.1
    doorbells := x.doorbells &&& ~~~(coreSet (((List.range 256).map (BitVec.ofNat 8)).filter own))
    frank := x.frank.map fun e => match e with | some f => if f.tenant == t then none else some f | none => none
    counters := Vector.ofFn fun i => if x.ctrOwner.getD i.val 0xFF == t then 0 else x.counters.getD i.val 0 }

/-- The packet is one of a queue of a tenant. -/
def State.queuePacketOf (s : State) (t : BitVec 8) (p : Packet) : Bool :=
  match p.who with
  | .queue _ _ => p.tenant == t
  | .office d q => (s.qrec d q).owner == t
  | _ => false

/-- 17 R391: the reset of one tenant. -/
def State.resetTenant (s : State) (t : BitVec 8) : State :=
  let s := s.killTenant t 7
  { s with
    dies := s.dies.map fun x => x.resetTenant t
    packets := s.packets.filter fun p => p.phase == PacketPhase.sent || !s.queuePacketOf t p }

/-- 17 R391: the reset of a function; that of the physical function resets every function. -/
def State.functionReset (s : State) (fn : Nat) : State :=
  if fn == 0 then (List.range 17).foldl (fun s t => s.resetTenant (BitVec.ofNat 8 t)) s
  else s.resetTenant (BitVec.ofNat 8 fn)

/-- FUNCTION_RESET (17 R391). -/
def execFunctionReset (fn : BitVec 5) (s : State) : Out := .next (if fn.toNat < 17 then s.functionReset fn.toNat else s)

end Sys2Proof.Machine
end

