-- ==== Sys2Proof/Machine/Island.lean ====
section
/-! DEFINITION. The island (19): the start-up steps, the boot journal and measurements, SPDM, the controls of the
management port, thermal shutdown, and uncorrectable on-chip errors (18 R414). -/
namespace Sys2Proof.Machine

/-! ### The journal and measurements (19 R416 to R418) -/

def Island.extend (i : Island) (r : Nat) (d : BitVec 256) : Island :=
  { i with mr := i.mr.setIfInBounds r (extendMr (i.mr.getD r 0) d) }

/-- 19 R418: an entry of the current start; the latest 64 starts are kept. -/
def Island.log (i : Island) (now step unit choice outcome : Nat) : Island :=
  let e : JournalEntry :=
    ⟨i.starts, BitVec.ofNat 8 step, BitVec.ofNat 8 unit, BitVec.ofNat 8 choice, BitVec.ofNat 8 outcome, BitVec.ofNat 64 (now - i.startTime)⟩
  { i with journal := (i.journal.filter fun x => decide (i.starts.toNat < x.start.toNat + 64)) ++ [e] }

/-- An entry of the current start in place of the one that its step and unit have. -/
def Island.amend (i : Island) (now step unit choice outcome : Nat) : Island :=
  Island.log { i with journal := i.journal.filter fun e => !(e.start == i.starts && e.step.toNat == step && e.unit.toNat == unit) }
    now step unit choice outcome

/-- The record of a start. -/
def Island.record (i : Island) (n : Nat) : List JournalEntry := i.journal.filter fun e => e.start.toNat == n
/-- 19 R418: the record of the previous start. -/
def Island.previous (i : Island) : List JournalEntry := i.record (i.starts.toNat - 1)

/-- 19 R418: the bytes of an entry, as two words. -/
def JournalEntry.words (e : JournalEntry) : List Word := [e.start ++ e.step ++ e.unit ++ e.choice ++ e.outcome, e.time]

/-- An entry of a step and unit with an outcome, in a record. -/
def logged (l : List JournalEntry) (step unit outcome : Nat) : Bool :=
  l.any fun e => e.step.toNat == step && e.unit.toNat == unit && e.outcome.toNat == outcome

/-- 19 R416: the image verifies: its digest is right, its signature is over the header and by the fused key, and its SVN is not
below the rollback value. -/
def Island.verifies (i : Island) (m : FirmwareImage) : Bool :=
  sha3 m.content == m.digest && sha3 m.key == i.aroftKey && m.signature == ⟨m.key, m.digest, m.svn⟩ && decide (i.rollback ≤ m.svn)

/-- 19 R418: the entry of a stack in the previous record. -/
def Island.stackBefore (i : Island) (u : Nat) : Option JournalEntry := i.previous.find? fun e => e.step == 3 && e.unit.toNat == u

/-- 19 R418: a stack is trained in full: its last training failed, it was left out, or there is none; a start that has skipped the
step hands its choice on. -/
def Island.trainsFull (i : Island) (u : Nat) : Bool :=
  match i.stackBefore u with
  | some e => e.outcome == 1 || e.outcome == 3 || (e.outcome == 2 && e.choice == 1)
  | none => true

def Island.slot (i : Island) (k : BitVec 1) : FirmwareImage := if k == 0 then i.slotA else i.slotB

/-- 19 R418, R424: the slot tried first: a BOOTSEL for this start, one that an update has activated, or the one that the journal
makes the first (log entry 21). -/
def Island.firstSlot (i : Island) : BitVec 1 := i.sel.getD (i.activated.getD i.prefer)

/-- 19 R418: the units of a step, and CHOICE of an entry that is skipped. -/
def stepUnits (step : Nat) : Nat := if step == 3 then 8 else if step == 5 then 24 else 1
def Island.skipChoice (i : Island) (step u : Nat) : Nat :=
  if step == 2 then i.firstSlot.toNat else if step == 3 then (i.trainsFull u).toNat else 0

/-- 19 R418: the steps of a start from one on do not run: their entries say so. -/
def Island.skipFrom (now : Nat) (i : Island) (step : Nat) : Island :=
  (List.range (9 - step)).foldl (fun j k =>
    (List.range (stepUnits (step + k))).foldl (fun j u => j.log now (step + k) u (i.skipChoice (step + k) u) 2) j) i

/-! ### The start-up steps (19 R415) -/

/-- A start begins: registers of the island and the dies are as after reset, but for where the tag pools lie, which are still
to be cleared (log entry 20). A start in which a die was shut down for temperature is journalled as failed (R425). -/
def State.beginStart (s : State) : State :=
  let i := if s.island.hotDies == 0 then s.island else s.island.amend s.time 8 0 0 1
  { s with
    poison := s.poison, issue := none, reqs := [], races := [], arrivals := [], streams := [], packets := [], cores := []
    dies := s.dies.map fun x => { Die.reset with tagBase := x.tagBase, tagBlocks := x.tagBlocks }
    fns := s.fns.map fun f => { Fn.reset with bar2 := f.bar2 }
    island := { i with
      mr := Vector.replicate 8 0, starts := i.starts + 1, startTime := s.time, booted := false, spdmOnlyVersion := false
      hotDies := 0, sel := i.bootsel, bootsel := none } }

/-- 19 R420: at its first start a package derives its identity key from the secret in its fuses, and stores the certificate of
that key. -/
def Island.identify (i : Island) : Island :=
  match i.key with
  | some _ => i
  | none =>
    let k := Config.identityKey i.secret
    { i with key := some k, certificate := some (Config.certificate k) }

/-- Step 1: the identity at the first start, the boot ROM's own test, and the island firmware; its activation after an update may
raise the rollback value (R416, R419). -/
def step1 (now : Nat) (i : Island) : Island :=
  let i := i.identify.extend 0 (Config.measure 0 0)
  if i.romGood && i.verifies i.island then
    { (i.extend 1 i.island.digest).log now 1 0 0 0 with
      step := 2, renewed := false, rollback := if i.renewed then max i.rollback i.island.setsRollback else i.rollback }
  else { (i.log now 1 0 0 1).skipFrom now 2 with step := 0, recovery := true }

/-- The image of a slot is taken: measured, journalled, run. The activation of an update may raise the rollback value (R416). -/
def Island.takeSlot (now : Nat) (i : Island) (k : BitVec 1) (second : Bool) : Island :=
  { (i.extend 2 (i.slot k).digest).log now 2 0 k.toNat 0 with
    step := 3, running := k, prefer := if i.sel.isNone || second then k else i.prefer
    activated := if i.activated == some k then none else i.activated
    rollback := if i.activated == some k then max i.rollback (i.slot k).setsRollback else i.rollback }

/-- The image of a slot fails: its activation has been tried. -/
def Island.failSlot (now : Nat) (i : Island) (k : BitVec 1) : Island :=
  { i.log now 2 0 k.toNat 1 with activated := if i.activated == some k then none else i.activated }

/-- Step 2: one slot, then the other. -/
def step2 (now : Nat) (i : Island) : Island :=
  let a := i.firstSlot
  if i.verifies (i.slot a) then i.takeSlot now a false
  else
    let i := i.failSlot now a
    if i.verifies (i.slot (~~~a)) then i.takeSlot now (~~~a) true
    else { (i.failSlot now (~~~a)).skipFrom now 3 with step := 0, recovery := true }

/-- Step 3: the training of one stack (19 R418). -/
def trainStack (now : Nat) (i : Island) (u : Nat) : Island :=
  let full := i.trainsFull u
  if i.leftStacks.getLsbD u then i.log now 3 u full.toNat 3
  else if (if full then i.stackFull else i.stackCached).getLsbD u then i.log now 3 u full.toNat 0
  else
    let again := match i.stackBefore u with | some e => e.choice == 1 && e.outcome == 1 | none => false
    let i := i.log now 3 u full.toNat 1
    if full && again then { i with leftStacks := i.leftStacks ||| (1#8 <<< u) } else i

def step3 (now : Nat) (values : Nat) (i : Island) : Island :=
  { (List.range 8).foldl (trainStack now) (i.extend 4 (Config.measure 4 values)) with step := 4 }

/-- Step 4: memories cleared, the default schedule table installed and measured. -/
def step4 (now : Nat) (i : Island) : Island :=
  let i := i.extend 3 (sha3 schedDefault.toList)
  { i.log now 4 0 0 (if i.clearGood == 0xF then 0 else 1) with step := 5 }

/-- 19 R415: the tag pools and the regions of the pigeonholes cleared: every tag is empty, and no bucket holds a record. -/
def State.clearPools (s : State) : State :=
  ([0, 1, 2, 3] : List (BitVec 2)).foldl (fun s d =>
    let x := s.die d
    (s.zeroAt (hbmKey d x.tagBase) (2048 * x.tagBlocks)).zeroAt (hbmKey d bucketBase) bucketRegion) s

/-- Step 5: the training of one port; one that fails is left down until it is cleared. -/
def trainPort (now : Nat) (i : Island) (u : Nat) : Island :=
  if i.leftPorts.getLsbD u then i.log now 5 u 0 3
  else if i.portGood.getLsbD u then i.log now 5 u 0 0
  else { i.log now 5 u 0 1 with leftPorts := i.leftPorts ||| (1#24 <<< u) }

/-- The package ports that a start has brought up. -/
def Island.portsUp (i : Island) : BitVec 24 := i.portGood &&& ~~~i.leftPorts

def step5 (now : Nat) (i : Island) : Island :=
  { ((List.range 24).foldl (trainPort now) (i.extend 5 (Config.measure 5 i.portsUp.toNat))) with step := 6 }

/-- Step 6: PCI Express. -/
def step6 (now : Nat) (i : Island) : Island := { i.log now 6 0 0 (if i.pcieGood then 0 else 1) with step := 7 }

/-- The bytes of a start's record. -/
def recordBytes (l : List JournalEntry) : List Byte := wordsBytes 8 ((l.flatMap JournalEntry.words).map (·.toNat))

/-- The summary of a start's record (19 R415, R421). -/
def Island.summary (i : Island) : BitVec 256 := Config.measure 6 (natOfBytes (recordBytes (i.record i.starts.toNat)))

/-- Step 7: the journal summary. -/
def step7 (now : Nat) (i : Island) : Island := { (i.extend 6 i.summary).log now 7 0 0 0 with step := 8 }

/-- 19 R418: both stacks of a die are trained, and its step 4 went well. -/
def Island.dieGood (i : Island) (d : Nat) : Bool :=
  let l := i.record i.starts.toNat
  logged l 3 (2 * d) 0 && logged l 3 (2 * d + 1) 0 && i.clearGood.getLsbD d

/-- The next coordinate, and the one before, on a ring of 16 packages (00 R1). -/
def next16 (x : BitVec 5) : BitVec 5 := if x == 15 then 0 else x + 1
def prev16 (x : BitVec 5) : BitVec 5 := if x == 0 then 15 else x - 1

/-- 20 R427, R430: the neighbour of a package on a port, in the torus of 16 × 16 × 32 packages that 00 R1 names (log
entry 8). -/
def neighbour (coord : BitVec 15) (p : Nat) : BitVec 15 :=
  let x : BitVec 5 := coord.extractLsb' 10 5
  let y : BitVec 5 := coord.extractLsb' 5 5
  let z : BitVec 5 := coord.extractLsb' 0 5
  match p with
  | 0 => next16 x ++ y ++ z
  | 1 => prev16 x ++ y ++ z
  | 2 => x ++ next16 y ++ z
  | 3 => x ++ prev16 y ++ z
  | 4 => x ++ y ++ (z + 1)
  | _ => x ++ y ++ (z - 1)

/-- 20 R430: the route table until the first ROUTESET: the neighbours that are up. -/
def firstRoutes (coord : BitVec 15) (ports : BitVec 6) : Vector (BitVec 16) 32768 :=
  ((List.range 6).filter fun p => ports.getLsbD p).foldl
    (fun t p => t.set (neighbour coord p).toNat (BitVec.ofNat 16 p) (neighbour coord p).isLt) (Vector.replicate 32768 7)

/-- 18 R401: the frames that a die's firmware holds in reserve (log entry 8). -/
def firstFrames : List Nat := (List.range 64).map fun k => hbmSize - 64 * 2 ^ 20 - 65536 * (k + 1)

/-- A die as a start leaves it: up, if nothing of it is left out. -/
def upDie (now : Nat) (coord : BitVec 15) (i : Island) (d : Nat) : Die :=
  if !i.dieGood d then Die.reset
  else
    let ports : BitVec 6 := i.portsUp.extractLsb' (6 * d) 6
    let f := now / 11200 + 1
    { Die.reset with
      up := true, portUp := ports, routes := firstRoutes coord ports, reserve := firstFrames, frames := f, slots := 128 * f
      rounds := now / 8192, turns := now / 32 }

/-- Step 8: the dies that are good come up, and the regions open. -/
def State.step8 (s : State) : State :=
  let i := { s.island.log s.time 8 0 0 0 with step := 0, booted := true }
  { s with island := i, dies := Vector.ofFn fun d => upDie s.time s.coord i d.val }

/-- BOOT_START (19 R415): the next step of a start. A HOLD keeps the steps that bring up the dies from running (R424). -/
def execBootStart (s : State) : Out :=
  .next (
    let i := s.island
    if i.hold || i.step == 0 then s
    else
      match i.step with
      | 1 =>
        let s := s.beginStart
        { s with island := step1 s.time s.island }
      | 2 => { s with island := step2 s.time i }
      | 3 => { s with island := step3 s.time (s.freeVal 256 3980).toNat i }
      | 4 => { s.clearPools with island := step4 s.time i }
      | 5 => { s with island := step5 s.time i }
      | 6 => { s with island := step6 s.time i }
      | 7 => { s with island := step7 s.time i }
      | _ => s.step8)

def State.modIsland (s : State) (f : Island → Island) : State := { s with island := f s.island }

/-! ### SPDM (19 R421) -/

/-- PCI Express has been brought up (19 R415). -/
def Island.pcieUp (i : Island) : Bool := i.pcieGood && !i.recovery && (i.booted || decide (7 ≤ i.step))

/-- An SPDM request reaches the island from the requester that stands first, over MCTP always, over the DOE of a function while PCI
Express is up; with none standing it has come over MCTP (log entry 3). -/
def State.asked (s : State) (k : Asker → State → State) : State :=
  let t := s.modIsland fun i => { i with askers := i.askers.drop 1 }
  match s.island.askers.headD .mctp with
  | .mctp => k .mctp t
  | .doe fn => if s.island.pcieUp && decide (fn.toNat < 17) then k (.doe fn) t else t

/-- SPDM_GET_VERSION. -/
def execSpdmGetVersion (s : State) : Out := .next (s.asked fun who s => s.sends (.spdm who [0x14] []))

/-- SPDM_NEGOTIATE_ALGORITHMS: an offer of neither ends in an ERROR. -/
def execSpdmNegotiateAlgorithms (mldsa sha3 : Bool) (s : State) : Out :=
  .next (s.asked fun who s =>
    if s.island.spdmOnlyVersion then s.sends (.spdmError who)
    else if !mldsa && !sha3 then (s.modIsland fun i => { i with spdmOnlyVersion := true }).sends (.spdmError who)
    else s.sends (.spdm who [mldsa.toNat, sha3.toNat] []))

/-- The blocks of a measurement answer: MR0 to MR7, and the summary of the current start's record. -/
def Island.blocks (i : Island) : List (BitVec 256) := i.mr.toList ++ [i.summary]

/-- SPDM_GET_MEASUREMENTS: a signed answer is signed with the identity key, over the requester's nonce (19 R420, R421). Before
the first start has derived the key there is none to sign with, and the request ends in an ERROR (log entry 9). -/
def execSpdmGetMeasurements (sign : Bool) (nonce : BitVec 256) (s : State) : Out :=
  .next (s.asked fun who s =>
    if s.island.spdmOnlyVersion then s.sends (.spdmError who)
    else
      let b := s.island.blocks
      if !sign then s.sends (.spdm who b [])
      else
        match s.island.key with
        | some k => s.sends (.spdm who b (Config.signature k ((b ++ [nonce]).flatMap fun x => bytesOfNat x.toNat 32)))
        | none => s.sends (.spdmError who))

/-! ### The management port (19 R424) -/

/-- An answer of the management port: 0 done, 2 an error, 3 busy. -/
def State.answerMgmt (s : State) (status : Nat) : State := s.sends (.mgmt status)

/-- HOLD: the step that runs is the last. -/
def execMgmtHold (s : State) : Out := .next ((s.modIsland fun i => { i with hold := true }).answerMgmt 0)

/-- RESET: every stream is killed with reason 7, the host's links go down, and a start begins; the steps that a start under way
has not reached are skipped. -/
def execReset (s : State) : Out :=
  .next (if s.island.updating.isSome then s.answerMgmt 3
    else
      let s : State := (s.streams.map (·.key)).foldl (fun s k =>
        (s.killStream k 7 (((s.ctxsOf k).head?).getD (⟨(s.stream k).die, 0⟩, 0))).retireStream k) s
      let s : State := { s with
        dies := s.dies.map fun x => { x with up := false }
        outbox := s.outbox ++ (List.range 17).map fun f => .linkLost (BitVec.ofNat 5 f) }
      (s.modIsland fun i =>
        { (if 2 ≤ i.step then i.skipFrom s.time i.step else i) with step := 1, hold := false, recovery := false, booted := false }).answerMgmt 0)

/-- FUNCRESET f (17 R391). -/
def execFuncreset (f : BitVec 8) (s : State) : Out :=
  .next (if f.toNat < 17 then (s.functionReset f.toNat).answerMgmt 0 else s.answerMgmt 2)

/-- BOOTSEL s. -/
def execBootsel (slot : BitVec 1) (s : State) : Out :=
  .next (if s.island.updating.isSome then s.answerMgmt 3
    else (s.modIsland fun i => { i with bootsel := some slot }).answerMgmt 0)

/-- CLEAR k, u. -/
def execClear (k u : BitVec 8) (s : State) : Out :=
  .next (if k == 0 && decide (u.toNat < 8) then (s.modIsland fun i => { i with leftStacks := i.leftStacks &&& ~~~(1#8 <<< u.toNat) }).answerMgmt 0
    else if k == 1 && decide (u.toNat < 24) then
      (s.modIsland fun i => { i with
        leftPorts := i.leftPorts &&& ~~~(1#24 <<< u.toNat) }).answerMgmt 0
    else s.answerMgmt 2)

/-- POWERCAP w. -/
def execPowercap (w : BitVec 16) (s : State) : Out :=
  .next (if decide (600 ≤ w.toNat) && decide (w.toNat ≤ 2200) then (s.modIsland fun i => { i with powercap := w }).answerMgmt 0
    else s.answerMgmt 2)

/-- The end of an update: it has written the slot that does not run, and activates it for the next start. In a recovery that the
island firmware has caused it has written that (R419; log entry 51). -/
def Island.update (i : Island) (m : FirmwareImage) : Island :=
  if i.recovery && !i.verifies i.island then { i with updating := none, island := m, renewed := true }
  else
    let i := if i.running == 0 then { i with slotB := m } else { i with slotA := m }
    { i with updating := none, activated := some (~~~i.running) }

/-- PLDM_FIRMWARE_UPDATE: the first begins an update with an image; the second ends it. -/
def execPldmFirmwareUpdate (content : List Byte) (digest : BitVec 256) (svn : Nat) (trust : ImageTrust) (s : State) : Out :=
  .next ((s.modIsland fun i =>
    match i.updating with
    | none => { i with updating := some ⟨content, digest, svn, trust.signature, trust.setsRollback, trust.key⟩ }
    | some m => i.update m).answerMgmt 0)

/-! ### Thermal shutdown (19 R426) -/

/-- 19 R426: the page of a ring is lost with its die, or cannot be written. -/
def State.ringGone (s : State) (d : BitVec 2) (asid : BitVec 12) (a : Word) : Bool :=
  match s.rangeAt d asid a 64 false true false with
  | .ok l => l.any fun p => match p.1 with | .dev e _ _ => e == d | _ => false
  | .held va _ => vaDie va == d
  | .remote _ => false
  | .bad _ _ => true

/-- 19 R426: a record goes to a ring that does not lie in the die's own memory, as a posted write; others are lost. -/
def State.lastRecord (s : State) (d : BitVec 2) (m : QCmd) : State :=
  let r := s.qrec d m.q
  let s := if (m.kind == 1 || m.kind == 2) && cmdCnt m.cmd then s.bumpCounter d (cmdCidx m.cmd) 1 r.owner else s
  let a := r.cbase + BitVec.ofNat 64 (64 * (r.ctail.toNat % 2 ^ r.clog))
  if m.kind == 1 && !cmdRec m.cmd then s
  else if (r.ctail - r.chead).toNat == 2 ^ r.clog then (s.modQ d m.q fun r => { r with ovf := true }).count d 22 1
  else if s.ringGone d r.asid a then s
  else
    let t := s.postWrite d r.owner r.asid a (wordsBytes 8 (recordWords m)) 0
    let s := (t.1.fabricWrite t.2).modQ d m.q fun r => { r with ctail := r.ctail + 1 }
    if raisesVector r m then s.sends (.msix r.owner (r.ctl.extractLsb' 8 6)) else s

/-- 19 R426: a killed stream settled at once: its contexts leave, and its record is due. -/
def State.endStream (s : State) (key : Nat) : State :=
  let s := (s.ctxsOf key).foldl (fun s e => s.setCtx e.1 e.2 Ctx.idle) s
  s.retireStream key

/-- A packet goes. -/
def State.dropPacket (s : State) (id : Nat) : State := { s with packets := s.packets.filter fun y => y.id != id }
def State.setPacket (s : State) (p : Packet) : State :=
  { s with packets := s.packets.map fun y => if y.id == p.id then p else y }

/-- 08 R187: a cause of an element of a SCAT is reported unless one of it has been. -/
def State.reportElem (s : State) (r : Req) (addr info : Word) (e : Nat) : State :=
  if (s.ctx r.core r.ctx).reports.any fun x => x.id == r.id then s else s.reportReq r 0x112 addr info e 0

/-- 20 R432: an access is not performed, with a KIND: a request ends with its trap, an element of a SCAT is left out, an agent
learns of it when it looks, and a posted write is dropped and counted. -/
def State.refusePacket (s : State) (p : Packet) (kind : Nat) : State :=
  let gone := s.dropPacket p.id
  match p.who with
  | .req id =>
    (match s.req? id with
    | some r => gone.failReq r 0x112 p.va (kindInfo kind) 0 0
    | none => gone)
  | .elem id e =>
    (match s.req? id with
    | some r =>
      if reqWrites r then gone.reportElem r p.va (kindInfo kind) e
      else (gone.failReq r 0x112 p.va (kindInfo kind) e 0).dropPackets id
    | none => gone)
  | .posted => gone.count p.die 7 1
  | .transit => gone
  | _ => s.setPacket { p with phase := .refused kind }

/-- 20 R432: a packet cannot be delivered. -/
def State.undeliverable (s : State) (p : Packet) : State := s.refusePacket p 6

/-- 20 R432: of the packets that have left by some ports, those in flight over a link that goes down are lost: which those
are is free (log entry 1). -/
def State.losePackets (s : State) (on : Packet → Bool) : State :=
  (s.packets.filter fun p => p.phase == .sent && on p && s.freeVal 1 (3940 + p.id % 16) == 1).foldl (fun s p => s.undeliverable p) s

/-- 19 R426: the streams of a die are killed, the records go out, and the die is down; its links are down for the packets
that travel over them. -/
def State.shutDown (s : State) (d : BitVec 2) : State :=
  let keys := (s.streams.filter fun st => st.die == d).map (·.key)
  let s := keys.foldl (fun s k =>
    if (s.stream k).out then s.killOut k 10
    else (s.killStream k 10 (((s.ctxsOf k).head?).getD (⟨d, 0⟩, 0))).endStream k) s
  let all := (s.die d).qcmds
  let s := (all.filter fun m => m.kind == 2).foldl (fun s m => s.lastRecord d m) s
  let s := (all.filter fun m => m.kind != 2).foldl (fun s m =>
    s.lastRecord d (if m.phase == .due then m else { m with status := 20 })) s
  let s := ((List.range 256).map (BitVec.ofNat 8)).foldl (fun (s : State) q =>
    let r := s.qrec d q
    if r.ctl.getLsbD 14 && r.owner != 0xFF then s.sends (.msix r.owner (r.ctl.extractLsb' 8 6)) else s) s
  let s := s.modDie d fun x => { x with
    up := false, qcmds := [], asks := [], calls := []
    queues := x.queues.map fun r => { r with state := .disabled, resv := none, resume := [], killing := false } }
  let s : State := { s with reqs := (s.reqs.filter fun r => !(r.office && r.core.die == d && r.instr == .nop)).map fun r =>
    if r.phase.isHeld && vaDie r.heldVa == d then { r with phase := .issued, admitted := true } else r }
  ((s.modIsland fun i => { i with hotDies := i.hotDies ||| (1#4 <<< d.toNat) }).sends (.pldm 1 d.toNat)).losePackets fun p => p.die == d

/-- THERMAL_SHUTDOWN (19 R426). -/
def execThermalShutdown (die : BitVec 2) (s : State) : Out := .next (if (s.die die).up then s.shutDown die else s)

/-! ### Uncorrectable on-chip errors (18 R414) -/

/-- UNCORRECTABLE_ONCHIP_ERROR (18 R414). A line of the MSC is two granules; the address space whose line it is, for the counters
of 18 R412, is free (log entry 53). -/
def execUncorrectableOnchipError (site : ErrorSite) (s : State) : Out :=
  .next (match site with
    | .scratch c u => if 8 * u + 8 ≤ spadBytes then { s with poison := addPoison s.poison (spadKey c.die c.core (8 * u)) 8 } else s
    | .msc d g =>
      if 32 * g + 32 ≤ hbmSize then
        let k := hbmKey d (32 * g) / 64 * 64
        let n := ((poisonUnits k 64).filter fun u => !s.poison.contains u).length
        ({ s with poison := addPoison s.poison k 64, races := s.races.filter fun r => r.line != k }).countErr d (s.freeVal 12 3899) 2 n
      else s
    | .registers x =>
      let k := s.ctx (coreOf x) x.ctx
      if k.life == .free then s else s.killStream k.stream 8 (coreOf x, x.ctx))

end Sys2Proof.Machine
end

