-- ==== Sys2Proof/Machine/Fleet.lean ====
section
/-! DEFINITION. The BAR4 mailbox and its commands (19 R423, 18 R399 to R409, 20 R430, R431, R434), the frame boundary
(17 R377, R378), and the torus: hops, links that go down, and packets that cannot be delivered (20 R428, R432). -/
namespace Sys2Proof.Machine

/-! ### The mailbox -/

/-- MAILBOX_DOORBELL_WRITE (19 R423): a write to DOORBELL; one that sets bit 0 makes the mailbox busy with the request that the
function has written. -/
def execMailboxDoorbellWrite (fn : BitVec 5) (value : Word) (s : State) : Out :=
  .next (s.host fn fun s => s.mailDoorbell fn (value.getLsbD 0))

/-- 19 R423: operand `i`; an operand that is not there reads as 0. -/
def arg (args : List Word) (i : Nat) : Nat := (args.getD i 0).toNat

/-- 19 R423: a command of the physical function: STATUS 1 for another, 2 for a bad operand, else its effect and 0. -/
def State.physCommand (s : State) (fn : BitVec 5) (ok : Bool) (k : State → State) : State :=
  if fn != 0 then s.answer fn 1 [] else if !ok then s.answer fn 2 [] else (k s).answer fn 0 []

def within (lo hi n : Nat) : Bool := decide (lo ≤ n) && decide (n ≤ hi)

/-- LEASE (18 R399, R400): it holds for entries filled from now on, and may lengthen the wait of a page-table command. -/
def State.doLease (s : State) (fn : BitVec 5) (d : BitVec 2) (args : List Word) : State :=
  s.physCommand fn (within 700 700000 (arg args 0)) fun s => s.modDie d fun x => { x with
    lease := arg args 0
    qcmds := x.qcmds.map fun m => match m.phase with
      | .leases t => if t == 0 then m else { m with phase := .leases (max t (m.pos + arg args 0)) }
      | _ => m }

/-- HWIN (18 R403). -/
def State.doHwin (s : State) (fn : BitVec 5) (d : BitVec 2) (args : List Word) : State :=
  s.physCommand fn (within 0 255 (arg args 0)) fun s => s.modDie d fun x => { x with hwin := arg args 0 }

/-- A die has a TAGGED leaf. -/
def State.anyTagged (s : State) (d : BitVec 2) : Bool :=
  (s.die d).roots.any fun r => (leavesUnder s d 3 0 r.2 0).any fun l => l.2.1.tagged

/-- TAGPOOL (18 R405). -/
def State.doTagpool (s : State) (fn : BitVec 5) (d : BitVec 2) (args : List Word) : State :=
  s.physCommand fn (!s.anyTagged d && decide (arg args 0 + 2048 * arg args 1 ≤ hbmSize)) fun s =>
    s.modDie d fun x => { x with tagBase := arg args 0, tagBlocks := arg args 1 }

/-- SPLIT (18 R408, R409): the split, named by its read lanes, is set, and the stack quiesces for a while; a stack that quiesces
already is busy. -/
def State.doSplit (s : State) (fn : BitVec 5) (d : BitVec 2) (args : List Word) : State :=
  if fn == 0 && ((s.die d).quiesce.getD (arg args 0) none).isSome then s.answer fn 3 []
  else s.physCommand fn (decide (arg args 0 < 2) && [16, 20, 24, 28].contains (arg args 1)) fun s => s.modDie d fun x => { x with
    split := x.split.setIfInBounds (arg args 0) (BitVec.ofNat 8 (arg args 1))
    quiesce := x.quiesce.setIfInBounds (arg args 0) (some (s.time + (s.freeVal 16 3970).toNat)) }

/-- FAULTRING (18 R401). -/
def State.doFaultring (s : State) (fn : BitVec 5) (d : BitVec 2) (args : List Word) : State :=
  s.physCommand fn (arg args 0 % 4096 == 0 && within 4 12 (arg args 1)) fun s =>
    s.modDie d fun x => { x with faultBase := args.getD 0 0, faultLog := arg args 1, faultHead := 0 }

/-- FAULTWAIT (18 R401). -/
def State.doFaultwait (s : State) (fn : BitVec 5) (d : BitVec 2) (args : List Word) : State :=
  s.physCommand fn (within 700 70000000 (arg args 0)) fun s => s.modDie d fun x => { x with faultWait := arg args 0 }

/-- LINKTO (20 R431). -/
def State.doLinkto (s : State) (fn : BitVec 5) (d : BitVec 2) (args : List Word) : State :=
  s.physCommand fn (within 7000 7000000 (arg args 0)) fun s => s.modDie d fun x => { x with linkto := arg args 0 }

/-- EXTEND (19 R417): the digest of four words goes into MR7. -/
def State.doExtend (s : State) (fn : BitVec 5) (args : List Word) : State :=
  s.physCommand fn true fun s =>
    s.modIsland fun i => i.extend 7 (args.getD 3 0 ++ args.getD 2 0 ++ args.getD 1 0 ++ args.getD 0 0)

/-- JOURNAL (19 R418, R423): up to 14 entries of a start's record, from an index. -/
def State.doJournal (s : State) (fn : BitVec 5) (args : List Word) : State :=
  let l := s.island.record (arg args 0)
  if l.isEmpty then s.answer fn 2 []
  else s.answer fn 0 (((l.drop (arg args 1)).take 14).flatMap JournalEntry.words)

/-- 20 R434, 18 R412: the counters of a die: the fleet counters, then three for each ASID: corrected errors, substitutions and new
poisonings (log entry 53). -/
def Die.counterAt (x : Die) (i : Nat) : Word :=
  if i < 30 then x.telem.getD i 0
  else ((x.asidErrs.find? fun e => e.1 == (i - 30) / 3).map fun e => e.2.getD ((i - 30) % 3) 0).getD 0
def counterCount : Nat := 30 + 3 * 4096

/-- TELEM (20 R434): 1 to 28 counters from an index. -/
def State.doTelem (s : State) (fn : BitVec 5) (d : BitVec 2) (args : List Word) : State :=
  if !within 1 28 (arg args 1) || decide (counterCount < arg args 0 + arg args 1) then s.answer fn 2 []
  else s.answer fn 0 ((List.range (arg args 1)).map fun i => (s.die d).counterAt (arg args 0 + i))

/-- MIGRATE (18 R403, R404): direction 0 in, 1 out. The request enters the fault queue of the die (R403), and stands until it is
answered there. -/
def State.doMigrate (s : State) (fn : BitVec 5) (d : BitVec 2) (args : List Word) : State :=
  let asid : BitVec 12 := (args.getD 0 0).setWidth 12
  let va := args.getD 1 0
  let out := args.getD 2 0 == 1
  if arg args 0 < 4096 && (s.die d).asidOwner.getD asid.toNat 0xFF != fnTenant fn then s.answer fn 1 []
  else if 4096 ≤ arg args 0 || 1 < arg args 2 || va.toNat % 65536 != 0 || !localForm s va || va.getLsbD 63 || vaDie va != d then s.answer fn 2 []
  else
    if (s.die d).hostMigr.any fun h => h.fn == fn then s
    else
      let h : HostMigr := ⟨fn, s.nextId, asid, va, out⟩
      { s with nextId := s.nextId + 1 }.modDie d fun x => { x with hostMigr := x.hostMigr ++ [h] }

/-- 20 R430: the image of a route table. -/
def imageRoutes (l : List Byte) : Vector (BitVec 16) 32768 :=
  let a := l.toArray
  Vector.ofFn fun i => a.getD (2 * i.val + 1) 0 ++ a.getD (2 * i.val) 0

/-- The image lies in the memory of the die. -/
def onDie (d : BitVec 2) (l : List (Place × Nat)) : Bool := l.all fun p => match p.1 with | .dev e _ _ => e == d | _ => false

/-- ROUTESET (20 R430): the image is taken; the table is switched at a frame boundary, and the request stands until
then, as it does while the image has to come home or its stack quiesces. The image is translated in the window ASID of the
physical function (log entry 16). -/
def State.doRouteset (s : State) (fn : BitVec 5) (d : BitVec 2) (args : List Word) : State :=
  if fn != 0 then s.answer fn 1 []
  else if (s.die d).routeNext.isSome then s
  else if arg args 0 % 65536 != 0 then s.answer fn 2 []
  else
    match s.windowAsid 0 with
    | none => s.answer fn 2 []
    | some a =>
      match s.span a (args.getD 0 0) 65536 true false false with
      | .ok l =>
        let t := imageRoutes (s.spanRead l)
        if !onDie d l then s.answer fn 2 []
        else if !s.still l then s
        else if t.any fun e => e.extractLsb' 4 12 != 0 then s.answer fn 2 []
        else (s.fillRange a (args.getD 0 0) 65536).modDie d fun x => { x with routeNext := some t, routeGen := args.getD 1 0 }
      | .held va _ => if vaDie va == d then s.bringOffice d a va 1 0 else s.answer fn 2 []
      | _ => s.answer fn 2 []

/-- 19 R423: one request served by the Postmaster of a die. A CMD that the table does not name is a bad operand. -/
def State.serveCommand (s : State) (fn : BitVec 5) (d : BitVec 2) (cmd : Nat) (args : List Word) : State :=
  match cmd with
  | 0x01 => s.doLease fn d args
  | 0x02 => s.doHwin fn d args
  | 0x03 => s.doTagpool fn d args
  | 0x04 => s.doSplit fn d args
  | 0x05 => s.doFaultring fn d args
  | 0x06 => s.doFaultwait fn d args
  | 0x07 => s.doMigrate fn d args
  | 0x08 => s.doExtend fn args
  | 0x09 => s.doJournal fn args
  | 0x0A => s.doTelem fn d args
  | 0x0B => s.doRouteset fn d args
  | 0x0C => s.doLinkto fn d args
  | _ => s.answer fn 2 []

/-- 19 R423: the die that a request names. -/
def reqDie (req : Vector Word 32) : BitVec 2 := (req.getD 0 0).extractLsb' 8 2

/-- The functions whose requests wait for a die, in the order in which they came (19 R422). -/
def State.mailboxes (s : State) (d : BitVec 2) : List (BitVec 5) :=
  let l := ((List.range 17).map (BitVec.ofNat 5)).filter fun f => (s.fn f).busy && reqDie (s.fn f).req == d
  l.foldl (fun a f => (a.takeWhile fun g => decide ((s.fn g).order < (s.fn f).order)) ++ f ::
    (a.dropWhile fun g => decide ((s.fn g).order < (s.fn f).order))) []

/-- 19 R424, 20 R434: the management port's next request answered. -/
def State.serveMgmt (s : State) (q : MgmtReq) : State :=
  match q with
  | .setEid e => if 8 ≤ e.toNat && e != 0xFF then (s.modIsland fun i => { i with eid := e }).sends (.mctp 0 [e.setWidth 64]) else s.sends (.mctp 2 [])
  | .getEid => s.sends (.mctp 0 [s.island.eid.setWidth 64])
  | .getTypes => s.sends (.mctp 0 [0x00, 0x01, 0x05, 0x7F])
  | .sensor d i => s.sends (if i < counterCount then .mctp 0 [(s.die d).counterAt i] else .mctp 2 [])

/-- 17 R377: the requests of the management port that wait are answered, in their order. -/
def State.serveMgmts (s : State) : State := s.mgmt.foldl (fun s q => s.serveMgmt q) { s with mgmt := [] }

/-- MAILBOX_SLOT (17 R377, 19 R423): the mailboxes that name the die, and the management port. -/
def execMailboxSlot (die : BitVec 2) (s : State) : Out :=
  .next (s.inSlot die 6 fun s => ((s.mailboxes die).foldl (fun s f =>
    let q := (s.fn f).req
    s.serveCommand f die ((q.getD 0 0).setWidth 8 : BitVec 8).toNat (q.toList.drop 1)) s).serveMgmts)

/-- A mailbox command by itself: it is served if the function and the die are there. -/
def State.mailbox (s : State) (fn : BitVec 5) (d : BitVec 2) (k : State → State) : State :=
  s.host fn fun s => if (s.die d).up then k s else s

def execLease (fn : BitVec 5) (die : BitVec 2) (args : List Word) (s : State) : Out := .next (s.mailbox fn die fun s => s.doLease fn die args)
def execHwin (fn : BitVec 5) (die : BitVec 2) (args : List Word) (s : State) : Out := .next (s.mailbox fn die fun s => s.doHwin fn die args)
def execTagpool (fn : BitVec 5) (die : BitVec 2) (args : List Word) (s : State) : Out := .next (s.mailbox fn die fun s => s.doTagpool fn die args)
def execSplit (fn : BitVec 5) (die : BitVec 2) (args : List Word) (s : State) : Out := .next (s.mailbox fn die fun s => s.doSplit fn die args)
def execFaultring (fn : BitVec 5) (die : BitVec 2) (args : List Word) (s : State) : Out := .next (s.mailbox fn die fun s => s.doFaultring fn die args)
def execFaultwait (fn : BitVec 5) (die : BitVec 2) (args : List Word) (s : State) : Out := .next (s.mailbox fn die fun s => s.doFaultwait fn die args)
def execMigrate (fn : BitVec 5) (die : BitVec 2) (args : List Word) (s : State) : Out := .next (s.mailbox fn die fun s => s.doMigrate fn die args)
def execExtend (fn : BitVec 5) (die : BitVec 2) (args : List Word) (s : State) : Out := .next (s.mailbox fn die fun s => s.doExtend fn args)
def execJournal (fn : BitVec 5) (die : BitVec 2) (args : List Word) (s : State) : Out := .next (s.mailbox fn die fun s => s.doJournal fn args)
def execTelem (fn : BitVec 5) (die : BitVec 2) (args : List Word) (s : State) : Out := .next (s.mailbox fn die fun s => s.doTelem fn die args)
def execRouteset (fn : BitVec 5) (die : BitVec 2) (args : List Word) (s : State) : Out := .next (s.mailbox fn die fun s => s.doRouteset fn die args)
def execLinkto (fn : BitVec 5) (die : BitVec 2) (args : List Word) (s : State) : Out := .next (s.mailbox fn die fun s => s.doLinkto fn die args)

/-! ### Telemetry -/

/-- TELEMETRY_SLOT (17 R377, 20 R434): the counters of what the model does not decide go on by free amounts: CRC
retries, corrected errors, withheld cycles; TJMAX rises to a free value (log entry 1). The corrected errors of one slot are of one
address space (18 R412), which is free. -/
def execTelemetrySlot (die : BitVec 2) (s : State) : Out :=
  .next (s.inSlot die 5 fun s =>
    let s := [0, 1, 2, 3, 4, 5, 27].foldl (fun s i => s.count die i (s.freeVal 16 (3900 + i)).toNat) s
    let s := s.countErr die (s.freeVal 12 3899) 0 (s.freeVal 16 3908).toNat
    s.modDie die fun x => { x with telem := x.telem.set 28 (BitVec.ofNat 64 (max (x.telem.getD 28 0).toNat (s.freeVal 10 3928).toNat)) })

/-! ### The frame boundary (17 R377, R378, 20 R430) -/

/-- 17 R378: what the Postmaster asks of a schedule table. -/
def schedOk (i : Island) (t : Vector (BitVec 8) 128) : Bool :=
  ((List.range 128).all fun k => (t.getD k 0 == 1) == (k % 8 == 0)) &&
  ([2, 3, 4, 5, 6].all fun c => t.toList.contains (BitVec.ofNat 8 c)) && (t.toList.all fun c => decide (c.toNat ≤ 6)) &&
  sha3 t.toList == Config.schedDigest (i.slot i.running).digest

/-- 17 R378: a pending table is installed or discarded. -/
def State.checkSched (s : State) (d : BitVec 2) : State :=
  match (s.die d).schedNext with
  | none => s
  | some t =>
    let s := s.modDie d fun x => { x with schedNext := none, sched := if schedOk s.island t then t else x.sched }
    if schedOk s.island t then s else s.funcErr 0 2

/-- 20 R430: the entry of a destination changes in the table that is to come. -/
def Die.changing (x : Die) (dest : BitVec 15) : Bool :=
  match x.routeNext with
  | some t => t[dest.toNat]'(dest.isLt) != x.routes[dest.toNat]'(dest.isLt)
  | none => false

/-- 20 R430: every packet sent to a destination that changes has been acknowledged: the table is switched. -/
def State.switchRoutes (s : State) (d : BitVec 2) : State :=
  match (s.die d).routeNext with
  | none => s
  | some t =>
    if s.packets.any fun p => p.phase == .sent && (s.die d).changing p.dest then s
    else (s.modDie d fun x => { x with routes := t, routeNext := none }).answer 0 0 []

/-- POSTMASTER_FRAME (17 R377): a frame begins, at a package time that is a multiple of 11,200. -/
def execPostmasterFrame (die : BitVec 2) (s : State) : Out :=
  .next (
    let x := s.die die
    if !x.up || decide (s.time < x.frames * 11200) || decide (x.slots < x.frames * 128) then s
    else ((s.modDie die fun x => { x with frames := x.frames + 1 }).checkSched die).switchRoutes die)

/-! ### Packets (20 R428, R432) -/

/-- The agent that has sent a packet still waits for it. -/
def State.packetWanted (s : State) (p : Packet) : Bool :=
  match p.who with
  | .req id | .elem id _ => s.reqs.any fun r => r.id == id
  | .unit c id => ((s.core c).cmds.any fun m => m.id == id) || (s.core c).arrayQ.any fun o => o.id == id
  | .fetch c x _ => (s.ctx c x).life == .running
  | .queue d id => (s.die d).qcmds.any fun m => m.id == id
  | .office d q => (s.qrec d q).waiting || (s.die d).qcmds.any fun m => m.q == q && m.kind == 4
  | .posted | .transit => true

/-- 20 R428, R430: packets of one die, destination and virtual channel leave in their order. -/
def State.packetTurn (s : State) (p : Packet) : Bool :=
  match s.packets.find? fun y => y.die == p.die && y.dest == p.dest && y.vc == p.vc && (y.phase == .waiting || y.phase.isHeld) with
  | some y => y.id == p.id
  | none => true

/-- 20 R429: the credit pool of a virtual channel on a port, ordinary or for detours, has room: as the neighbour likes (log entry
1). -/
def State.hasCredit (s : State) (d : BitVec 2) (port : BitVec 3) (vc : BitVec 2) (detour : Bool) : Bool :=
  s.freeVal 1 (5000 + (d ++ port ++ vc ++ BitVec.ofBool detour : BitVec 8).toNat) == 1

/-- 18 R393: a packet of another package that has come to the die that owns its address: a write is made, a read is answered with
the bytes of its line (log entry 22). -/
def State.serveTransit (s : State) (p : Packet) : State :=
  let s := s.dropPacket p.id
  let va := p.va &&& localBits
  if p.wr then
    match s.rangeAt p.die p.asid va p.data.length false true false with
    | .bad _ _ => s
    | _ => let t := s.postWrite p.die p.tenant p.asid va p.data 0
           t.1.fabricWrite t.2
  else
    match s.rangeAt p.die p.asid (va / 64 * 64) 64 true false false with
    | .ok l => s.sends (.reply p (s.spanRead l))
    | _ => s

/-- 20 R428, R429: a packet delivered to the owning die here, because the route entry says that this package is its destination:
the agent makes its access here. -/
def State.deliverHere (s : State) (p : Packet) : State :=
  let gone := s.dropPacket p.id
  match p.who with
  | .req id => gone.modReq id fun r => { r with phase := .issued }
  | .elem id _ => (gone.dropPackets id).modReq id fun r => { r with phase := .issued }
  | .posted =>
    let n := p.data.length - 8
    let t := gone.postWrite p.die p.tenant p.asid p.va (p.data.take n) (BitVec.ofNat 64 (natOfBytes (p.data.drop n)))
    t.1.fabricWrite t.2
  | .transit => s.serveTransit p
  | _ => gone

/-- 20 R428 to R430: a packet that waits: it leaves on the port that the route entry of its die names, or of the next die whose port
is up, if its credit pool has room; a route change holds it back. -/
def State.packetGoes (s : State) (p : Packet) : State :=
  match s.torusExit p.die p.dest with
  | .held => if p.phase.isHeld then s else s.setPacket { p with phase := .held s.time }
  | .port d q =>
    let detour := ((s.die p.die).routes[p.dest.toNat]'(p.dest.isLt)).getLsbD 3
    let p' : Packet := { p with die := d, phase := .sent, port := q, detour := detour }
    if !s.hasCredit d q p.vc detour then s.setPacket { p with phase := .waiting }
    else (if p.who == .transit then s.dropPacket p.id else s.setPacket p').sends (.packet d q p')
  | .here => s.deliverHere p
  | .unreachable => s.undeliverable p

/-- 20 R430, R432: a packet that has left is acknowledged, refused at its destination with the KIND of a permission trap, or lost on
its way: which is free (log entry 1). A posted write is then done with. -/
def State.packetEnds (s : State) (p : Packet) : State :=
  let kind := (s.freeVal 3 3941).toNat
  if s.lostOnWay then s.undeliverable p
  else if !s.packetWanted p || p.who == .posted then s.dropPacket p.id
  else if kind == 1 || kind == 2 || kind == 5 || kind == 6 then s.refusePacket p kind
  else s.setPacket { p with phase := .answered }

/-- A packet of another package reaches a die of this one. -/
def State.packetEnters (s : State) (p : Packet) : State :=
  { s with
    torusIn := s.torusIn.filter fun y => y.id != p.id, nextId := s.nextId + 1
    packets := s.packets ++ [{ p with id := s.nextId, who := .transit, phase := .waiting }] }

/-- PACKET_HOP (20 R428). -/
def execPacketHop (id : Nat) (s : State) : Out :=
  .next (match s.packets.find? fun p => p.id == id with
    | some p =>
      (match p.phase with
      | .sent => s.packetEnds p
      | .waiting | .held _ =>
        if !s.packetWanted p then s.dropPacket id
        else if s.packetTurn p then s.packetGoes p
        else s
      | _ => if s.packetWanted p then s else s.dropPacket id)
    | none =>
      match s.torusIn.find? fun p => p.id == id with
      | some p => if (s.die p.die).up then s.packetEnters p else s
      | none => s)

/-- ROUTE_HOLD_EXPIRY (20 R432): a packet held for more than 700,000 cycles. -/
def execRouteHoldExpiry (id : Nat) (s : State) : Out :=
  .next (match s.packets.find? fun p => p.id == id with
    | none => s
    | some p =>
      match p.phase with
      | .held t => if t + 700000 < s.time then s.undeliverable p else s
      | _ => s)

/-- LINK_DOWN (20 R431, R432): a link that has passed no flit for LINKTO cycles, or has failed 16 retries in a row, goes down and
stays down until the next start; the journal of this start says so (19 R418). The packets in flight over it are lost: which those
are is free (log entry 1). -/
def execLinkDown (die : BitVec 2) (silent : LinkSilence) (s : State) : Out :=
  .next (
    let port := silent.port
    let x := s.die die
    let u := 6 * die.toNat + port.toNat
    if !x.up || decide (6 ≤ port.toNat) || !x.portUp.getLsbD port.toNat || decide (silent.idle < x.linkto ∧ silent.retries < 16) then s
    else
      let s := (s.modDie die fun x => { x with portUp := x.portUp &&& ~~~(1#6 <<< port.toNat) }).count die 6 1
      let s := (s.modIsland fun i => { i.amend s.time 5 u 0 1 with leftPorts := i.leftPorts ||| (1#24 <<< u) }).sends (.pldm 2 u)
      s.losePackets fun p => p.die == die && p.port == port)

end Sys2Proof.Machine
end

