-- ==== Sys2Proof/Machine/Agents.lean ====
section
/-! DEFINITION. Which agents may move: the events that the clock has made due, and the events that may come next
(log entries 2 and 3). The table of operations and events gives the steps; this file says when each is offered. -/
namespace Sys2Proof.Machine

/-- What the outside may do to the package: the host, the management port, the torus neighbours, physics. -/
def isInput (i : Instr) : Bool :=
  match i with
  | .doorbellWrite _ _ _ _ | .queueEnable _ _ _ | .queueDestroy _ _ _ | .queueKill _ _ _ | .tenancyTableWrite _ _ _ _
  | .queueAssignmentWrite _ _ _ _ | .asidOwnerWrite _ _ _ _ | .funcerrClear _ _ | .registerWrite _ _ _ | .bar2Access _ _ _ _
  | .refusedRead _ _ | .mailboxDoorbellWrite _ _ | .functionReset _ | .correctableErrorFreeze _ | .uncorrectableOnchipError _
  | .thermalShutdown _ | .linkDown _ _ | .linkPacketArrive _ _ _ _ | .postmarkIncrement _ _ _ _ | .spdmGetVersion
  | .spdmNegotiateAlgorithms _ _ | .spdmGetMeasurements _ _ | .mgmtHold | .reset | .funcreset _ | .bootsel _ | .clear _ _
  | .powercap _ | .pldmFirmwareUpdate _ _ _ _ => true
  | _ => false

/-- 17 R377, 19 R424: a request of the management port, which the Postmasters serve in their mailbox slots. -/
def isMgmt (i : Instr) : Bool :=
  match i with
  | .mgmtHold | .reset | .funcreset _ | .bootsel _ | .clear _ _ | .powercap _ | .pldmFirmwareUpdate _ _ _ _ => true
  | _ => false

/-- The dies that are up. -/
def State.upDies (s : State) : List (BitVec 2) := ([0, 1, 2, 3] : List (BitVec 2)).filter fun d => (s.die d).up

/-- The contexts that streams hold. -/
def State.heldCtxs (s : State) : List (CoreRef × BitVec 2 × Ctx) :=
  s.cores.flatMap fun e => ((List.range 4).map (BitVec.ofNat 2)).filterMap fun x =>
    let k := e.2.getCtx x
    if k.life == .free then none else some (⟨BitVec.ofNat 2 (e.1 / 256), BitVec.ofNat 8 e.1⟩, x, k)

/-! ### What the clock has made due -/

/-- The slot that begins next on a die, as its event (17 R377). -/
def slotEvent (d : BitVec 2) (code : Nat) : Instr :=
  match code with
  | 0 => .idleSlot d
  | 1 => .doorbellSlot d
  | 2 => .mtuFaultSlot d
  | 3 => .retirementSlot d
  | 4 => .frankingSlot d
  | 5 => .telemetrySlot d
  | _ => .mailboxSlot d

/-- 01 R36, 17 R377: the periodic events of a die. -/
def State.periodic (s : State) (d : BitVec 2) : List Instr :=
  let x := s.die d
  let code := (x.sched.getD (x.slots % 128) 0).toNat
  (if (x.rounds + 1) * 8192 ≤ s.time then [.slotTableRound d] else []) ++
  (if (x.turns + 1) * 32 ≤ s.time && decide ((x.turns + 1) / 256 ≤ x.rounds) then [.slotTurn d] else []) ++
  (if s.slotDue d code then [slotEvent d code] else []) ++
  (if x.frames * 11200 ≤ s.time && decide (x.frames * 128 ≤ x.slots) then [.postmasterFrame d] else []) ++
  ((([0, 1] : List (BitVec 1)).filter fun k => match x.quiesce.getD k.toNat none with | some t => decide (t ≤ s.time) | none => false).map
    fun k => .splitQuiesceEnd d k)

/-- 11 R286: a context with a request pending that has not reached a safe point by its deadline. -/
def State.overdue (s : State) (st : Stream) : Bool := (s.lateCtx st.key).isSome

/-- The events that package time has made due, in the order in which they are taken. They take no time. -/
def State.dueEvents (s : State) : List Instr :=
  (s.streams.filter s.overdue).map (fun st => .preemptTimeout st.key) ++
  s.upDies.flatMap s.periodic ++
  (s.cores.filterMap fun e => match e.2.freeze with
    | some t => if t ≤ s.time then some (.freezeEnd ⟨BitVec.ofNat 2 (e.1 / 256), BitVec.ofNat 8 e.1⟩) else none
    | none => none) ++
  (s.heldCtxs.filterMap fun e =>
    if e.2.2.life == .reserved && !e.2.2.preempt && decide (e.2.2.startAt ≤ s.time) then
      some (.contextStart ⟨e.1.die, e.1.core, e.2.1⟩) else none) ++
  (s.streams.filterMap fun st => if !st.out && decide (st.lastCharge + 65536 ≤ s.time) then some (.streamCharge st.key) else none) ++
  (s.reqs.filterMap fun r => if s.retryDue r then some (.feRetry r.id) else none) ++
  (s.reqs.filterMap fun r => match r.phase with
    | .held (.frames t) => if t + (s.die (vaDie r.heldVa)).faultWait < s.time then some (.faultwaitExpiry r.id) else none
    | _ => none) ++
  (s.packets.filterMap fun p => match p.phase with
    | .held t => if t + 700000 < s.time then some (.routeHoldExpiry p.id) else none
    | _ => none)

/-! ### What may come next -/

/-- Cores that hold a context which may be presented, or an RFT that may leave handler mode (01 R20, R22, 06 R152). -/
def State.issuers (s : State) : List Instr :=
  s.cores.flatMap fun e =>
    let c : CoreRef := ⟨BitVec.ofNat 2 (e.1 / 256), BitVec.ofNat 8 e.1⟩
    if e.2.freeze.isSome || !(((List.range 4).map (BitVec.ofNat 2)).any fun x => s.eligible c x || s.rftDue c x) then []
    else .bundleIssue c :: (if e.2.quantum < 4096 then [] else [.yieldQuantum c])

/-- The events of contexts that do not issue. -/
def State.ctxEvents (s : State) (e : CoreRef × BitVec 2 × Ctx) : List Instr :=
  let x : CtxRef := ⟨e.1.die, e.1.core, e.2.1⟩
  let k := e.2.2
  (if k.life == .running && !k.takable.isEmpty then [.attributedTrap x] else []) ++
  (if k.life == .leaving && s.mayLeave e.1 e.2.1 then [.contextLeave x] else []) ++
  (if k.life == .saving || ((k.life == .reserved || k.life == .restoring) && k.preempt) then [.contextSave x] else []) ++
  (if k.life == .restoring && !k.preempt && decide (k.startAt ≤ s.time) then [.contextRestore x] else [])

/-- The event that a request waits for. -/
def State.reqEvent (s : State) (r : Req) : Option Instr :=
  match r.phase with
  | .issued => if s.reqReady r then some (.deviceMemoryRequest r.id) else none
  | .performed => some (.scoreboardArrival r.id)
  | .remote => if s.answered r.id then some (.scoreboardArrival r.id) else none
  | _ => none

/-- The work of a core's engines and arrays. -/
def State.coreEvents (s : State) (e : Nat × Core) : List Instr :=
  let c : CoreRef := ⟨BitVec.ofNat 2 (e.1 / 256), BitVec.ofNat 8 e.1⟩
  if e.2.freeze.isSome then []
  else
    (match e.2.arrayQ with
      | [] => []
      | o :: _ => (match o.instr with | .txstep _ _ => [.chainBlockCommit c] | _ => [.arrayOpExecute c])) ++
    e.2.cmds.filterMap fun m =>
      if m.done then (if s.mayComplete c m then some (.engineCommandComplete (.engine c m.id)) else none)
      else if m.started && !m.susp then some (.engineBurst (.engine c m.id))
      else if s.cmdMayStart c m then some (.engineCommandStart (.engine c m.id))
      else none

/-- The work of a die's MTU, queues and Postmaster. -/
def State.dieEvents (s : State) (d : BitVec 2) : List Instr :=
  let x := s.die d
  (x.tlb.filterMap fun t => if t.till ≤ s.time then some (.tlbLeaseExpiry d t.asid t.page) else none) ++
  (x.resvs.filterMap fun r => if r.till ≤ s.time then some (.reservationExpiry d r.asid r.word) else none) ++
  (x.migr.map fun m => .migrationComplete d m.asid m.page) ++
  (x.qcmds.filterMap fun m => match m.phase with
    | .queued => if s.copyMayStart d m then some (.engineCommandStart (.queue d m.id)) else none
    | .moving => some (.engineBurst (.queue d m.id))
    | .leases _ => some (.engineCommandComplete (.queue d m.id))
    | .due => if x.activity == 3 then some (.queueCommandComplete d m.id) else none) ++
  (if x.activity == 4 && decide (0 < x.frankLeft) then [.frankEnqueue d] else []) ++
  (if x.queues.any fun q => q.state == .enabled || q.state == .draining then [.dispatchStep d] else []) ++
  (((List.range 256).filter fun q => s.drained d (BitVec.ofNat 8 q)).map fun q => .queueDrainComplete d (BitVec.ofNat 8 q))

/-- 18 R409: an access through BAR2 waits while a stack of the die that it reaches quiesces. -/
def State.windowStill (s : State) (i : Instr) : Bool :=
  match i with
  | .bar2Access fn _ off _ => s.devStill (vaDie (bar2Addr (bar2Size (s.fn fn).bar2 off.size) off.off))
  | _ => true

/-- 17 R377, 19 R422, R424: the next input may be taken: a request of the management port is served while the dies are in a
mailbox slot, and at once where no die is up. -/
def State.takesInput (s : State) (i : Instr) : Bool :=
  isInput i && (!isMgmt i || s.upDies.all fun d => (s.die d).activity == 6) && s.windowStill i

/-- The packets that may go on: those that wait, those under way, and those whose agent has gone. -/
def State.packetEvents (s : State) : List Instr :=
  (s.packets.filterMap fun p =>
    if p.phase == .waiting || p.phase.isHeld || p.phase == .sent || !s.packetWanted p then some (.packetHop p.id) else none) ++
  (s.torusIn.take 1).map fun p => .packetHop p.id

/-- Every event that may come next. -/
def State.candidates (s : State) : List Instr :=
  (match s.inputs with | i :: _ => if s.takesInput i then [i] else [] | [] => []) ++
  (if s.island.step != 0 && !s.island.hold then [.bootStart] else []) ++
  s.issuers ++ s.heldCtxs.flatMap s.ctxEvents ++ s.reqs.filterMap s.reqEvent ++ s.cores.flatMap s.coreEvents ++
  (s.arrivals.map fun a => .arrivalWordUpdate a.core) ++ s.upDies.flatMap s.dieEvents ++
  s.packetEvents

/-- The event that comes next: what is due first; else one of those that may come, by a free choice (log entry 3). -/
def State.pick (s : State) : Option Instr :=
  match s.candidates with
  | [] => none
  | [i] => some i
  | l => l[Config.choose s.free % l.length]?

/-- A step has been made: the free counter goes on (log entry 1). -/
def State.spent (s : State) : State := { s with free := s.free + 1 }
/-- Package time goes on by at least one cycle (log entry 2). Where no die is up, the island answers what the management port has
asked (19 R424). -/
def State.tick (s : State) : State :=
  let t := if s.upDies.isEmpty then s.serveMgmts else s
  { t with free := s.free + 1, time := s.time + 1 + Config.delay s.free }

/-- The input that has been taken leaves the list. -/
def State.dropInput (s : State) (i : Instr) : State := if isInput i then { s with inputs := s.inputs.drop 1 } else s

/-- 04 R92: the next operation of the bundle that is being issued, and the state in which it executes. -/
def State.nextOp (s : State) : Option (Instr × State) :=
  match s.issue with
  | none => none
  | some u =>
    match u.ops with
    | [] => none
    | (e, i) :: r => some (i, { s with cur := e, issue := some { u with ops := r } })

/-! ### A program placed for the next step -/

/-- Where `withFetchWord` puts its tables and its code page in the memory of die 0. -/
def stageRoot : Nat := hbmSize - 16384
def stageMiddle : Nat := 0x10000
def stageLast : Nat := 0x14000

/-- Die 0 with ASID 0 of tenant 0, its turn running, and every period in the future. -/
def stageDie (now : Nat) : Die :=
  { Die.reset with
    up := true, roots := [(0, stageRoot)], asidOwner := Die.reset.asidOwner.set 0 0, turnOwner := 0
    clusterOwner := Die.reset.clusterOwner.set 0 0, rounds := now / 8192, turns := now / 32, frames := now / 11200 + 1
    slots := 128 * (now / 11200 + 1) }

def stageStream (key now : Nat) : Stream :=
  { Stream.none with key := key, tenant := 0, asid := 0, codeLimit := 0x10000, row := 1, cores := [0], t0 := now, lastCharge := now }

def stageCtx (key now : Nat) : Ctx :=
  { startCtx (stageStream key now) 0 0 0 now 0 with life := .running, acqTime := now, gsAcqTime := now }

/-- The tables that map the page of device address 0 to frame 0, with every permission, and the bundle in it. -/
def stageMem (m : Memory) (b : Bundle) : Memory :=
  let m := writeNat m (hbmKey 0 stageRoot) 16 (stageMiddle + 1)
  let m := writeNat m (hbmKey 0 stageMiddle) 16 (stageLast + 1)
  let m := writeNat m (hbmKey 0 stageLast) 16 0x3A
  writeBytes m (hbmKey 0 0) (bytesOfBundle b)

/-- A package whose one agent is context 0 of core 0 of die 0, at the bundle (log entry 4). -/
def State.stage (s : State) (b : Bundle) : State :=
  { s with
    mem := stageMem s.mem b, poison := [], inputs := [], issue := none, reqs := [], nextId := s.nextId + 1, arrivals := [], packets := []
    torusIn := [], mgmt := []
    streams := [stageStream s.nextId s.time], cores := [(0, Core.reset.setCtx 0 (stageCtx s.nextId s.time))]
    dies := (Vector.replicate 4 Die.reset).set 0 (stageDie s.time), island := { s.island with step := 0, booted := true, askers := [] } }

end Sys2Proof.Machine
end

