-- ==== Sys2Proof/Machine/Control.lean ====
section
/-! DEFINITION. S slot: branches, loop control and system instructions (06 R139 to R155). What happens at the end of
the bundle is noted in the bundle being issued, and its retirement does it (Retire). -/
namespace Sys2Proof.Machine

/-- NOP (04 R90). -/
def execNop (s : State) : Out := .next s

/-- PBR (06 R140). -/
def execPbr (h : Head) (f : FI) : State → Out := slotOp h fun s =>
  s.result (.b (f.d.setWidth 2)) ((codeAddr (s.cur.pc + f.imm.signExtend 64 * 64)).setWidth 2048) allBits 1 0

/-- PBRI (06 R140). -/
def execPbri (h : Head) (f : F3) : State → Out := slotOp h fun s =>
  s.result (.b (f.d.setWidth 2)) ((codeAddr (s.readS h f.a 1)).setWidth 2048) allBits 1 0

/-- BR (06 R140). -/
def execBr (h : Head) (f : F3) : State → Out := slotOpC h (.br h f) fun s =>
  let t := s.readB h (f.a.setWidth 2) 1
  s.modIss fun i => { i with branch := some t }

/-- CALL (06 R140). -/
def execCall (h : Head) (f : F3) : State → Out := slotOpC h (.call h f) fun s =>
  let t := s.readB h (f.a.setWidth 2) 1
  (s.modIss fun i => { i with branch := some t }).writeS 62 (s.cur.pc + 64) 1 0

/-- RET (06 R140). -/
def execRet (h : Head) (f : F3) : State → Out := slotOpC h (.ret h f) fun s =>
  let t := codeAddr (s.readS h 62 1)
  s.modIss fun i => { i with branch := some t }

/-- LOOP (06 R142). -/
def execLoop (h : Head) (f : FL) : State → Out := slotOpC h (.loop h f) fun s =>
  s.modIss fun i => { i with loop := some f.imm }

/-- LOOPBRK (06 R143). -/
def execLoopbrk (h : Head) (f : F3) : State → Out := slotOpC h (.loopbrk h f) fun s =>
  s.modIss fun i => { i with loopBrk := true }

/-- SETLC (06 R144). -/
def execSetlc (h : Head) (f : FI) : State → Out := slotOp h fun s =>
  s.result (.lcnt (f.d.setWidth 3)) ((s.readS h f.a 1 + f.imm.signExtend 64).setWidth 2048) allBits 1 0

/-- SETG (06 R145). -/
def execSetg (h : Head) (f : F3) : State → Out := slotOp h fun s =>
  s.result (.g (f.d.setWidth 3) (f.sub.setWidth 3)) ((s.readS h f.a 1).setWidth 2048) allBits 1 0

/-- GETG (06 R145). -/
def execGetg (h : Head) (f : F3) : State → Out := slotOp h fun s =>
  let v := s.readReg (.g (f.a.setWidth 3) (f.sub.setWidth 3)) (saltOf s h.slot 1)
  s.writeS f.d (if f.sub == 0 then v.setWidth 64 else (v.setWidth 32).signExtend 64) 1 0

/-- The register that holds a system register's word: LCNT has a name of its own. -/
def sysReg (n : Nat) : Reg := if 0x48 ≤ n && n ≤ 0x4D then .lcnt (BitVec.ofNat 3 (n - 0x48)) else .sr (BitVec.ofNat 12 n)

/-- 02 R52: a system register as the context reads it. -/
def sysRead (s : State) (h : Head) (n : Nat) : Word :=
  let c := s.cx
  match n with
  | 0 => s.cur.ctx.setWidth 64
  | 1 => c.coreIdx.setWidth 64
  | 2 => c.clusterIdx.setWidth 64
  | 3 => s.cur.core.die.setWidth 64
  | 4 => s.coord.setWidth 64
  | 5 => c.rank.setWidth 64
  | 6 => c.rowsize.setWidth 64
  | 7 => c.streamId.setWidth 64
  | 8 => BitVec.ofNat 64 s.time
  | 9 => slotMap (s.die s.cur.core.die) (s.stream c.stream).tenant
  | 0x50 | 0x51 | 0x52 | 0x53 | 0x54 | 0x55 => c.lidx s.cur.acc (n - 0x50)
  | _ => (s.readReg (sysReg n) (saltOf s h.slot 1)).setWidth 64

/-- 06 R139: an access to STICKY comes after every earlier floating-point operation. -/
def State.beforeSticky (s : State) (n : Nat) : State := if n == 0x45 then s.modCx Ctx.flushFlags else s

/-- GETSR (06 R146). -/
def execGetsr (h : Head) (f : FI) : State → Out := slotOp h fun s =>
  let s := s.beforeSticky f.imm.toNat
  s.writeS f.d (sysRead s h f.imm.toNat) 1 0

/-- 02 R54: the four-cycle shadow of a write to FMT. -/
def Ctx.shadowFmt (c : Ctx) : Ctx :=
  { c with fmtOld := (c.fmtOld.filter fun e => decide (c.issueX ≤ e.untilX) || decide (c.issueA ≤ e.untilA)) ++
      [⟨c.fmt, c.issueX + 4, c.issueA + 4⟩] }

/-- 02 R53, R54: a system register written. -/
def State.writeSys (s : State) (n : Nat) (w : Word) : State :=
  let s := if n == 0x40 then s.modCx Ctx.shadowFmt else s
  s.result (sysReg n) (w.setWidth 2048) allBits 1 0

/-- SETSR (06 R146). -/
def execSetsr (h : Head) (f : FI) : State → Out := slotOpC h (.setsr h f) fun s =>
  (s.beforeSticky f.imm.toNat).writeSys f.imm.toNat (s.readS h f.a 1)

/-- SETFMT (06 R148). -/
def execSetfmt (h : Head) (f : FL) : State → Out := slotOpC h (.setfmt h f) fun s => s.writeSys 0x40 (f.imm.setWidth 64)

/-- SETX (06 R149). -/
def execSetx (h : Head) (f : F3) : State → Out := slotOpC h (.setx h f) fun s =>
  s.result (.x (f.d.setWidth 2)) ((s.readS h f.b 2 ++ s.readS h f.a 1).setWidth 2048) allBits 1 0

/-- SAFEPT (06 R150): a safe point outside handler mode. -/
def execSafept (h : Head) (f : F3) : State → Out := slotOpC h (.safept h f) fun s =>
  if s.cx.hmode then s else s.modIss fun i => { i with safept := true }

/-- TRAP (06 R151): its effect is the software trap. -/
def execTrap (h : Head) (f : FI) : State → Out := slotOpC h (.trap h f) fun s => s

/-- RFT (06 R152). -/
def execRft (h : Head) (f : F3) : State → Out := slotOpC h (.rft h f) fun s => s.modIss fun i => { i with rft := true }

/-- HALT (06 R153). -/
def execHalt (h : Head) (f : F3) : State → Out := slotOpC h (.halt h f) fun s => s.modIss fun i => { i with halt := true }

/-- YIELD (06 R154). -/
def execYield (h : Head) (_ : F3) : State → Out :=
  slotOp h fun s => s.modIss fun i => { i with yield := true }

/-- TIME (06 R155). -/
def execTime (h : Head) (f : F3) : State → Out := slotOp h fun s => s.writeS f.d (BitVec.ofNat 64 s.time) 1 0

end Sys2Proof.Machine
end

