-- ==== Sys2Proof/Machine/Scalar.lean ====
section
/-! DEFINITION. S slot: integer, move, compare, predicate and floating-point operations (06 R126 to R138). -/
namespace Sys2Proof.Machine

/-- 06 R126, R129: a register form whose exact result is a function of the extended sources. -/
def intOp (h : Head) (f : F3) (bound : Nat) (g : Int → Int → Int) : State → Out :=
  slotOp h fun s =>
    s.writeS f.d (intResult f.ty h.md (g (intOf f.ty (s.readS h f.a 1).toNat) (intOf f.ty (s.readS h f.b 2).toNat))) bound 0

/-- 06 R129: a register form on the raw bits of its sources. -/
def rawOp (h : Head) (f : F3) (bound : Nat) (g : Nat → Nat → Int) : State → Out :=
  slotOp h fun s => s.writeS f.d (intResult f.ty h.md (g (s.readS h f.a 1).toNat (s.readS h f.b 2).toNat)) bound 0

/-- 06 R131: an immediate form of type `t` whose exact result is a function of the extended sources. -/
def immOp (h : Head) (f : FI) (t : Ty) (bound : Nat) (b : Int) (g : Int → Int → Int) : State → Out :=
  slotOp h fun s => s.writeS f.d (intResult t h.md (g (intOf t (s.readS h f.a 1).toNat) b)) bound 0

/-- 06 R131: an immediate form on the raw bits of its source. -/
def rawImm (h : Head) (f : FI) (t : Ty) (bound : Nat) (g : Nat → Int) : State → Out :=
  slotOp h fun s => s.writeS f.d (intResult t h.md (g (s.readS h f.a 1).toNat)) bound 0

/-- The 64-bit pattern of a sign-extended immediate. -/
def immBits (f : FI) : Nat := (f.imm.signExtend 64).toNat

/-- 06 R129: the high half of a 128-bit product. -/
def highHalf (x y : Int) : Int := x * y / (2 ^ 64 : Nat)

/-- ADD (06 R129) -/
def execAdd (h : Head) (f : F3) : State → Out := intOp h f 1 (· + ·)

/-- SUB (06 R129) -/
def execSub (h : Head) (f : F3) : State → Out := intOp h f 1 (· - ·)

/-- MUL (06 R129) -/
def execMul (h : Head) (f : F3) : State → Out := intOp h f 3 (· * ·)

/-- MULH (06 R129) -/
def execMulh (h : Head) (f : F3) : State → Out := intOp h f 3 highHalf

/-- MULHN (06 R129) -/
def execMulhn (h : Head) (f : F3) : State → Out := intOp h f 3 highHalf

/-- DIV (03 R77) -/
def execDiv (h : Head) (f : F3) : State → Out := intOp h f 18 (divInt true (tyWidth f.ty))

/-- DIVN (03 R77) -/
def execDivn (h : Head) (f : F3) : State → Out := intOp h f 18 (divInt false (tyWidth f.ty))

/-- REM (03 R77) -/
def execRem (h : Head) (f : F3) : State → Out := intOp h f 18 (remInt true (tyWidth f.ty))

/-- REMN (03 R77) -/
def execRemn (h : Head) (f : F3) : State → Out := intOp h f 18 (remInt false (tyWidth f.ty))

/-- AND (06 R129) -/
def execAnd (h : Head) (f : F3) : State → Out := rawOp h f 1 (bitwise f.ty Nat.land)

/-- OR (06 R129) -/
def execOr (h : Head) (f : F3) : State → Out := rawOp h f 1 (bitwise f.ty Nat.lor)

/-- XOR (06 R129) -/
def execXor (h : Head) (f : F3) : State → Out := rawOp h f 1 (bitwise f.ty Nat.xor)

/-- ANDN (06 R129) -/
def execAndn (h : Head) (f : F3) : State → Out := rawOp h f 1 (bitwise f.ty (andNot (tyWidth f.ty)))

/-- SHL (06 R129) -/
def execShl (h : Head) (f : F3) : State → Out := slotOp h fun s =>
  s.writeS f.d (intResult f.ty h.md (intOf f.ty (s.readS h f.a 1).toNat * (2 ^ ((s.readS h f.b 2).toNat % 64) : Nat))) 1 0

/-- SHR (06 R129) -/
def execShr (h : Head) (f : F3) : State → Out := rawOp h f 1 (fun a b => shrBits (tyWidth f.ty) a (b % 64))

/-- SRA (06 R129) -/
def execSra (h : Head) (f : F3) : State → Out := rawOp h f 1 (fun a b => sraBits (tyWidth f.ty) a (b % 64))

/-- ROTL (06 R129); its exact result is the rotated bits as SHR's are, without a sign (log entry 32) -/
def execRotl (h : Head) (f : F3) : State → Out := rawOp h f 1 (fun a b => rotlBits (tyWidth f.ty) a (b % 64))

/-- MIN (06 R129) -/
def execMin (h : Head) (f : F3) : State → Out := intOp h f 1 min

/-- MAX (06 R129) -/
def execMax (h : Head) (f : F3) : State → Out := intOp h f 1 max

/-- MINN (06 R129) -/
def execMinn (h : Head) (f : F3) : State → Out := intOp h f 1 min

/-- MAXN (06 R129) -/
def execMaxn (h : Head) (f : F3) : State → Out := intOp h f 1 max

/-- CLZ (06 R129) -/
def execClz (h : Head) (f : F3) : State → Out := rawOp h f 1 (fun a _ => (clzBits (tyWidth f.ty) a : Nat))

/-- POPC (06 R129) -/
def execPopc (h : Head) (f : F3) : State → Out := rawOp h f 1 (fun a _ => (popBits (tyWidth f.ty) a : Nat))

/-- SEL (06 R129) -/
def execSel (h : Head) (f : F3) : State → Out := slotOp h fun s =>
  s.writeS f.d (intResult f.ty h.md (intOf f.ty (if s.readP h f.sub 3 then s.readS h f.a 1 else s.readS h f.b 2).toNat)) 1 0

/-- EXT (06 R130) -/
def execExt (h : Head) (f : F3) : State → Out := rawOp h f 1 (fun a b => extField a (b % 64) (b / 256 % 64 + 1) (tySigned f.ty))

/-- INS (06 R130); a modifier takes i64 (04 R94) -/
def execIns (h : Head) (f : F3) : State → Out := slotOp h fun s =>
  let b := (s.readS h f.b 2).toNat
  s.writeS f.d (intResult 3 h.md (signedOf 64 (insField (s.readS h f.d 0).toNat (s.readS h f.a 1).toNat (b % 64) (b / 256 % 64 + 1)))) 1 0

/-- LEA (06 R129); a modifier takes i64 (04 R94) -/
def execLea (h : Head) (f : F3) : State → Out := slotOp h fun s =>
  s.writeS f.d (intResult 3 h.md (signedOf 64 ((s.readS h f.a 1).toNat + (s.readS h f.b 2).toNat * 2 ^ f.sub.toNat))) 1 0

/-- ADDI (06 R131) -/
def execAddi (h : Head) (f : FI) : State → Out := immOp h f 3 1 f.imm.toInt (· + ·)

/-- SUBI (06 R131) -/
def execSubi (h : Head) (f : FI) : State → Out := immOp h f 3 1 f.imm.toInt (· - ·)

/-- MULI (06 R131) -/
def execMuli (h : Head) (f : FI) : State → Out := immOp h f 3 3 f.imm.toInt (· * ·)

/-- MULHI (06 R131) -/
def execMulhi (h : Head) (f : FI) : State → Out := immOp h f 3 3 f.imm.toInt highHalf

/-- MULHNI (06 R131) -/
def execMulhni (h : Head) (f : FI) : State → Out := immOp h f 7 3 (f.imm.toNat : Int) highHalf

/-- DIVI (06 R131) -/
def execDivi (h : Head) (f : FI) : State → Out := immOp h f 3 18 f.imm.toInt (divInt true 64)

/-- DIVNI (06 R131) -/
def execDivni (h : Head) (f : FI) : State → Out := immOp h f 7 18 (f.imm.toNat : Int) (divInt false 64)

/-- REMI (06 R131) -/
def execRemi (h : Head) (f : FI) : State → Out := immOp h f 3 18 f.imm.toInt (remInt true 64)

/-- REMNI (06 R131) -/
def execRemni (h : Head) (f : FI) : State → Out := immOp h f 7 18 (f.imm.toNat : Int) (remInt false 64)

/-- ANDI (06 R131) -/
def execAndi (h : Head) (f : FI) : State → Out := rawImm h f 3 1 fun a => bitwise 3 Nat.land a (immBits f)

/-- ORI (06 R131) -/
def execOri (h : Head) (f : FI) : State → Out := rawImm h f 3 1 fun a => bitwise 3 Nat.lor a (immBits f)

/-- XORI (06 R131) -/
def execXori (h : Head) (f : FI) : State → Out := rawImm h f 3 1 fun a => bitwise 3 Nat.xor a (immBits f)

/-- ANDNI (06 R131) -/
def execAndni (h : Head) (f : FI) : State → Out := rawImm h f 3 1 fun a => bitwise 3 (andNot 64) a (immBits f)

/-- SHLI (06 R131) -/
def execShli (h : Head) (f : FI) : State → Out := immOp h f 3 1 f.imm.toInt fun x n => x * (2 ^ (n.toNat % 64) : Nat)

/-- SHRI (06 R131) -/
def execShri (h : Head) (f : FI) : State → Out := rawImm h f 3 1 fun a => shrBits 64 a (f.imm.toNat % 64)

/-- SRAI (06 R131) -/
def execSrai (h : Head) (f : FI) : State → Out := rawImm h f 3 1 fun a => sraBits 64 a (f.imm.toNat % 64)

/-- ROTLI (06 R131) -/
def execRotli (h : Head) (f : FI) : State → Out := rawImm h f 3 1 fun a => rotlBits 64 a (f.imm.toNat % 64)

/-- MINI (06 R131) -/
def execMini (h : Head) (f : FI) : State → Out := immOp h f 3 1 f.imm.toInt min

/-- MAXI (06 R131) -/
def execMaxi (h : Head) (f : FI) : State → Out := immOp h f 3 1 f.imm.toInt max

/-- MINNI (06 R131) -/
def execMinni (h : Head) (f : FI) : State → Out := immOp h f 7 1 (f.imm.toNat : Int) min

/-- MAXNI (06 R131) -/
def execMaxni (h : Head) (f : FI) : State → Out := immOp h f 7 1 (f.imm.toNat : Int) max

/-- SELI (06 R131) -/
def execSeli (h : Head) (f : FI) : State → Out := slotOp h fun s =>
  let b := (f.imm.extractLsb' 0 30).toInt
  s.writeS f.d (intResult 3 h.md (if s.readP h (f.imm.extractLsb' 30 4) 3 then intOf 3 (s.readS h f.a 1).toNat else b)) 1 0

/-- EXTI (06 R131) -/
def execExti (h : Head) (f : FI) : State → Out := rawImm h f (if f.imm.getLsbD 12 then 3 else 7) 1 fun a =>
  extField a (f.imm.toNat % 64) (f.imm.toNat / 64 % 64 + 1) (f.imm.getLsbD 12)

/-- INSI (06 R131) -/
def execInsi (h : Head) (f : FI) : State → Out := slotOp h fun s =>
  s.writeS f.d (intResult 3 h.md (signedOf 64 (insField (s.readS h f.d 0).toNat (s.readS h f.a 1).toNat (f.imm.toNat % 64) (f.imm.toNat / 64 % 64 + 1)))) 1 0

/-- LEAI (06 R131) -/
def execLeai (h : Head) (f : FI) : State → Out := rawImm h f 3 1 fun a =>
  signedOf 64 (a + ((f.imm.extractLsb' 0 30).signExtend 64).toNat * 2 ^ (f.imm.extractLsb' 30 4).toNat)

/-- MOVI (06 R132) -/
def execMovi (h : Head) (f : FL) : State → Out := slotOp h fun s => s.writeS f.d (f.imm.signExtend 64) 1 0

/-- MOVHI (06 R132) -/
def execMovhi (h : Head) (f : FL) : State → Out := slotOp h fun s =>
  s.writeS f.d (f.imm.extractLsb' 0 24 ++ (s.readS h f.d 0).extractLsb' 0 40) 1 0

/-- MOV (06 R132) -/
def execMov (h : Head) (f : F3) : State → Out := slotOp h fun s => s.writeS f.d (s.readS h f.a 1) 1 0

/-- 06 R133: a condition and its complement to two predicates, the complement last. -/
def State.writePair (s : State) (d c : BitVec 4) (v : Bool) (bound : Nat) (fl : Flags) : State :=
  (s.writeP d v bound fl).writeP c (!v) bound 0

/-- CMP (06 R134) -/
def execCmp (h : Head) (f : F4) : State → Out := slotOp h fun s =>
  s.writePair (f.d.setWidth 4) (f.c.setWidth 4) (condInt f.ty f.sub.toNat (s.readS h f.a 1).toNat (s.readS h f.b 2).toNat) 1 0

/-- CMPI (06 R135) -/
def execCmpi (h : Head) (f : FI) : State → Out := slotOp h fun s =>
  s.writePair (f.d.setWidth 4) (f.imm.extractLsb' 30 4)
    (condInt (if f.imm.getLsbD 26 then 7 else 3) (f.imm.extractLsb' 27 3).toNat (s.readS h f.a 1).toNat
      ((f.imm.extractLsb' 0 26).signExtend 64).toNat) 1 0

/-- FCMP (06 R136) -/
def execFcmp (h : Head) (f : F4) : State → Out := slotOp h fun s =>
  let c := condFlt f.ty f.sub.toNat (s.readS h f.a 1).toNat (s.readS h f.b 2).toNat
  s.writePair (f.d.setWidth 4) (f.c.setWidth 4) c.1 4 c.2

/-- PLOG (06 R137) -/
def execPlog (h : Head) (f : F3) : State → Out := slotOp h fun s =>
  s.writeP (f.d.setWidth 4) (truth f.sub (s.readP h (f.a.setWidth 4) 1) (s.readP h (f.b.setWidth 4) 2)) 1 0

/-- 06 R127, R138: a floating-point operation on two scalars. -/
def fltOp (h : Head) (f : F3) (bound : Nat) (g : Ty → Ctl → Nat → Nat → Nat × Flags) : State → Out :=
  slotOp h fun s =>
    let r := g f.ty (ctlS s h) (s.readS h f.a 1).toNat (s.readS h f.b 2).toNat
    s.writeS f.d (fltResult r.1) bound r.2

/-- 06 R138: a quotient, rounded once. -/
def laneDiv (t : Ty) (c : Ctl) (x y : Nat) : Nat × Flags := fltOut t c (fltDiv (decodeF t x) (decodeF t y))

/-- FADD (06 R138) -/
def execFadd (h : Head) (f : F3) : State → Out := fltOp h f 4 laneAdd

/-- FSUB (06 R138) -/
def execFsub (h : Head) (f : F3) : State → Out := fltOp h f 4 laneSub

/-- FMUL (06 R138) -/
def execFmul (h : Head) (f : F3) : State → Out := fltOp h f 4 laneMul

/-- FMIN (06 R138) -/
def execFmin (h : Head) (f : F3) : State → Out := fltOp h f 4 laneMin

/-- FMAX (06 R138) -/
def execFmax (h : Head) (f : F3) : State → Out := fltOp h f 4 laneMax

/-- FDIV (06 R138) -/
def execFdiv (h : Head) (f : F3) : State → Out := fltOp h f 12 laneDiv

/-- FMA (06 R138) -/
def execFma (h : Head) (f : F4) : State → Out := slotOp h fun s =>
  let r := laneFma f.ty (ctlS s h) (s.readS h f.a 1).toNat (s.readS h f.b 2).toNat (s.readS h f.c 3).toNat
  s.writeS f.d (fltResult r.1) 4 r.2

/-- FCVT (06 R138) -/
def execFcvt (h : Head) (f : F3) : State → Out := slotOp h fun s =>
  let c := ctlS s h
  let r := convert f.ty f.sub c.rnd c.e4ovf c.md (s.readS h f.a 1).toNat
  s.writeS f.d (if tyIsFloat f.ty then fltResult r.1 else extendTo64 f.ty r.1) 4 r.2

end Sys2Proof.Machine
end

