-- ==== Sys2Proof/Machine/Vector.lean ====
section
/-! DEFINITION. V slots (07 R156 to R177). -/
namespace Sys2Proof.Machine

/-- 07 R157: a result of one vector source under the mask. -/
def vecOp1 (h : Head) (f : F4) (bound : Nat) (g : Vec → Vec → VRes) : State → Out :=
  slotOp h fun s =>
    let a := s.readV f.a (saltOf s h.slot 1)
    a.1.writeV f.d (g (maskOf s h f.k) a.2) bound

/-- 07 R157, R159: a result of two vector sources under the mask. -/
def vecOp2 (h : Head) (f : F4) (bound : Nat) (g : Vec → Vec → Vec → VRes) : State → Out :=
  slotOp h fun s =>
    let a := s.readV f.a (saltOf s h.slot 1)
    let b := a.1.readV f.b (saltOf s h.slot 2)
    b.1.writeV f.d (g (maskOf s h f.k) a.2 b.2) bound

/-- 07 R157, R159: a result of three vector sources under the mask. -/
def vecOp3 (h : Head) (f : F4) (bound : Nat) (g : Vec → Vec → Vec → Vec → VRes) : State → Out :=
  slotOp h fun s =>
    let a := s.readV f.a (saltOf s h.slot 1)
    let b := a.1.readV f.b (saltOf s h.slot 2)
    let c := b.1.readV f.c (saltOf s h.slot 3)
    c.1.writeV f.d (g (maskOf s h f.k) a.2 b.2 c.2) bound

/-- 07 R159: lane by lane on two sources. -/
def laneOp2 (h : Head) (f : F4) (bound : Nat) (g : Ty → Ctl → Nat → Nat → Nat × Flags) : State → Out :=
  fun s => vecOp2 h f bound (fun m a b => map2 (tyWidth f.ty) m a b (g f.ty (ctlV s h f.rnd))) s

/-- 07 R164: lane by lane on one source of a floating-point type, each result rounded once. -/
def transOp (h : Head) (f : F4) (g : FVal → FVal × Flags) : State → Out :=
  fun s => vecOp1 h f 10 (fun m a => map1 (tyWidth f.ty) m a fun x => fltOut f.ty (ctlV s h f.rnd) (g (decodeF f.ty x))) s

/-- A bit pattern under a mask, with no flags. -/
def plainRes (m v : Vec) : VRes := ⟨v, m, 0⟩

/-- VADD (07 R159) -/
def execVadd (h : Head) (f : F4) : State → Out := laneOp2 h f 2 laneAdd

/-- VSUB (07 R159) -/
def execVsub (h : Head) (f : F4) : State → Out := laneOp2 h f 2 laneSub

/-- VMUL (07 R159) -/
def execVmul (h : Head) (f : F4) : State → Out := laneOp2 h f 4 laneMul

/-- VFMA (07 R159) -/
def execVfma (h : Head) (f : F4) : State → Out := fun s =>
  vecOp3 h f 4 (fun m a b c => map3 (tyWidth f.ty) m a b c (laneFma f.ty (ctlV s h f.rnd))) s

/-- VMIN (07 R159) -/
def execVmin (h : Head) (f : F4) : State → Out := laneOp2 h f 2 laneMin

/-- VMAX (07 R159) -/
def execVmax (h : Head) (f : F4) : State → Out := laneOp2 h f 2 laneMax

/-- VAND (07 R159) -/
def execVand (h : Head) (f : F4) : State → Out := laneOp2 h f 2 (fun t c => laneBits t c Nat.land)

/-- VOR (07 R159) -/
def execVor (h : Head) (f : F4) : State → Out := laneOp2 h f 2 (fun t c => laneBits t c Nat.lor)

/-- VXOR (07 R159) -/
def execVxor (h : Head) (f : F4) : State → Out := laneOp2 h f 2 (fun t c => laneBits t c Nat.xor)

/-- VSHL (07 R159) -/
def execVshl (h : Head) (f : F4) : State → Out := laneOp2 h f 2 laneShl

/-- VSHR (07 R159) -/
def execVshr (h : Head) (f : F4) : State → Out := laneOp2 h f 2 laneShr

/-- VSRA (07 R159) -/
def execVsra (h : Head) (f : F4) : State → Out := laneOp2 h f 2 laneSra

/-- VCMP (07 R160) -/
def execVcmp (h : Head) (f : F4) : State → Out := laneOp2 h f 2 fun t _ => laneCmp t f.sub.toNat

/-- VSEL (07 R161) -/
def execVsel (h : Head) (f : F4) : State → Out := vecOp3 h f 2 fun m a b c => map3 (tyWidth f.ty) m a b c laneSel

/-- VMOV (07 R161) -/
def execVmov (h : Head) (f : F4) : State → Out := vecOp1 h f 2 plainRes

/-- VBCAST (07 R161) -/
def execVbcast (h : Head) (f : F4) : State → Out := slotOp h fun s =>
  s.writeV f.d (plainRes (maskOf s h f.k) (bcast f.ty (s.readS h f.a 1))) 2

/-- VIOTA (07 R161) -/
def execViota (h : Head) (f : F4) : State → Out := slotOp h fun s =>
  s.writeV f.d (plainRes (maskOf s h f.k) (iota f.ty (s.readS h f.a 1) (s.readS h f.b 2))) 2

/-- VCVT (07 R162) -/
def execVcvt (h : Head) (f : F4) : State → Out := fun s =>
  vecOp1 h f 3 (fun m a => vcvt f.ty f.sub f.b.toNat (ctlV s h f.rnd) m a) s

/-- VPERM (07 R161) -/
def execVperm (h : Head) (f : F4) : State → Out := vecOp2 h f 3 fun m a b => plainRes m (perm f.ty a b)

/-- VSLIDE (07 R161) -/
def execVslide (h : Head) (f : F4) : State → Out := fun s =>
  vecOp2 h f 3 (fun m a b => plainRes m (slide f.ty a b (s.readS h f.c 3))) s

/-- VDOT4 (07 R163) -/
def execVdot4 (h : Head) (f : F4) : State → Out := fun s =>
  vecOp3 h f 4 (fun m a b c => vdot4 f.ty (ctlV s h f.rnd) m a b c) s

/-- VEXP2 (07 R164) -/
def execVexp2 (h : Head) (f : F4) : State → Out := transOp h f fltExp2

/-- VLOG2 (07 R164) -/
def execVlog2 (h : Head) (f : F4) : State → Out := transOp h f fltLog2

/-- VRCP (07 R164) -/
def execVrcp (h : Head) (f : F4) : State → Out := transOp h f fltRcp

/-- VRSQ (07 R164) -/
def execVrsq (h : Head) (f : F4) : State → Out := transOp h f fltRsq

/-- VSQRT (07 R164) -/
def execVsqrt (h : Head) (f : F4) : State → Out := transOp h f fltSqrt

/-- VDIV (07 R164) -/
def execVdiv (h : Head) (f : F4) : State → Out := laneOp2 h f 10 fun t c x y => fltOut t c (fltDiv (decodeF t x) (decodeF t y))

/-- VRED (07 R165) -/
def execVred (h : Head) (f : F4) : State → Out := slotOp h fun s =>
  let a := s.readV f.a (saltOf s h.slot 1)
  let k := s.readK h f.k 14
  let r := if tyIsFloat f.ty then redFlt f.ty f.sub.toNat (modeV s f.rnd) k a.2 else (redInt f.ty f.sub.toNat k a.2, 0)
  a.1.writeV f.d ⟨BitVec.ofNat 2048 r.1, allBits, r.2⟩ 6

/-- VSCAN (07 R166) -/
def execVscan (h : Head) (f : F4) : State → Out := fun s =>
  vecOp1 h f 6 (fun m a => vscan f.ty f.sub.toNat (modeV s f.rnd) m a (s.readS h f.b 2)) s

/-- VAMAX (07 R167) -/
def execVamax (h : Head) (f : F4) : State → Out := slotOp h fun s =>
  let a := s.readV f.a (saltOf s h.slot 1)
  let r := amax f.ty (s.readK h f.k 14) a.2
  a.1.writeV f.d ⟨r.1, allBits, r.2⟩ 6

/-- VQUANT (07 R168) -/
def execVquant (h : Head) (f : F4) : State → Out := fun s =>
  vecOp1 h f 6 (fun m a => vquant f.ty f.sub.toNat (ctlV s h f.rnd) m a (s.readS h f.b 2)) s

/-- VCMPR (07 R169) -/
def execVcmpr (h : Head) (f : F4) : State → Out := slotOp h fun s =>
  let a := s.readV f.a (saltOf s h.slot 1)
  a.1.writeV f.d (plainRes allBits (vcmpr f.ty a.2)) 6

/-- 07 R158: a register pair, the first register before the second. -/
def State.writePairV (s : State) (d : BitVec 6) (r : Vec × Vec) (bound : Nat) : State :=
  (s.writeV d (plainRes allBits r.1) bound).writeV (d + 1) (plainRes allBits r.2) bound

/-- VTOPK (07 R171) -/
def execVtopk (h : Head) (f : F4) : State → Out := slotOp h fun s =>
  let a := s.readV f.a (saltOf s h.slot 1)
  a.1.writePairV f.d (vtopk f.ty (s.readK h f.k 14) a.2 (s.readS h f.b 2) (s.readS h f.c 3)) 12

/-- VMERGEK (07 R172) -/
def execVmergek (h : Head) (f : F4) : State → Out := slotOp h fun s =>
  let v := fun (r : BitVec 6) (k : Nat) => s.readReg (.v (r.setWidth 5)) (saltOf s h.slot k)
  s.writePairV f.d (vmergek f.ty (v f.a 1) (v (f.a + 1) 4) (v f.b 2) (v (f.b + 1) 5) (s.readS h f.c 3)) 8

/-- VDESC (07 R173) -/
def execVdesc (h : Head) (f : F4) : State → Out := slotOp h fun s =>
  let a := s.readV f.a (saltOf s h.slot 1)
  let b := a.1.readV f.b (saltOf s h.slot 2)
  let r := vdesc a.2 b.2 (f.sub == 1)
  b.1.writeV f.d ⟨r.1, allBits, r.2⟩ 4

/-- VRAND (07 R174) -/
def execVrand (h : Head) (f : F4) : State → Out := slotOp h fun s =>
  s.writeV f.d (plainRes (maskOf s h f.k) (vrand (s.readS h f.a 1) (s.readS h f.b 2))) 4

/-- VKOP (07 R175) -/
def execVkop (h : Head) (f : F4) : State → Out := slotOp h fun s =>
  s.writeK (f.d.setWidth 3) (kop f.sub (s.readK h (f.a.setWidth 3) 1) (s.readK h (f.b.setWidth 3) 2)) 2

/-- VKMOV.ANY (07 R176) -/
def execVkmovAny (h : Head) (f : F4) : State → Out := slotOp h fun s =>
  let a := s.readV f.a (saltOf s h.slot 1)
  a.1.writeK (f.d.setWidth 3) (maskAny a.2) 2

/-- VKMOV.ALL (07 R176) -/
def execVkmovAll (h : Head) (f : F4) : State → Out := slotOp h fun s =>
  let a := s.readV f.a (saltOf s h.slot 1)
  a.1.writeK (f.d.setWidth 3) (maskAll a.2) 2

/-- VKMOV.FROMS (07 R176) -/
def execVkmovFroms (h : Head) (f : F4) : State → Out := slotOp h fun s => s.writeK (f.d.setWidth 3) (s.readS h f.a 1) 2

/-- VKMOV.TOS (07 R176) -/
def execVkmovTos (h : Head) (f : F4) : State → Out := slotOp h fun s => s.writeS f.d (s.readK h (f.a.setWidth 3) 1) 2 0

/-- VKMOV.TOV (07 R176) -/
def execVkmovTov (h : Head) (f : F4) : State → Out := slotOp h fun s =>
  s.writeV f.d (plainRes allBits (chunkMask (s.readK h (f.a.setWidth 3) 1))) 2

/-- VGETL (07 R177) -/
def execVgetl (h : Head) (f : F4) : State → Out := slotOp h fun s =>
  let a := s.readV f.a (saltOf s h.slot 1)
  let x := lane (tyWidth f.ty) a.2 ((s.readS h f.b 2).toNat % tyLanes f.ty)
  a.1.writeS f.d (if tyIsFloat f.ty then fltResult x else extendTo64 f.ty x) 2 0

/-- VSETL (07 R177) -/
def execVsetl (h : Head) (f : F4) : State → Out := slotOp h fun s =>
  let old := s.readReg (.v (f.d.setWidth 5)) (saltOf s h.slot 0)
  let n := (s.readS h f.b 2).toNat % tyLanes f.ty
  let x := BitVec.ofNat 2048 (((s.readS h f.a 1).toNat % 2 ^ tyWidth f.ty) <<< (tyWidth f.ty * n))
  s.writeV f.d (plainRes allBits (merge old x (laneSpan (tyWidth f.ty) n 1))) 2

end Sys2Proof.Machine
end

