-- ==== Sys2Proof/Machine/Dispatch.lean ====
section
/-! DEFINITION. One arm for each constructor of Instr: its meaning. -/
namespace Sys2Proof.Machine

def exec (i : Instr) (s : State) : Host.Outcome State Fault Refusal :=
  match i with
  | .nop => Sys2Proof.Machine.execNop s
  | .add h f => Sys2Proof.Machine.execAdd h f s
  | .sub h f => Sys2Proof.Machine.execSub h f s
  | .mul h f => Sys2Proof.Machine.execMul h f s
  | .mulh h f => Sys2Proof.Machine.execMulh h f s
  | .mulhn h f => Sys2Proof.Machine.execMulhn h f s
  | .div h f => Sys2Proof.Machine.execDiv h f s
  | .divn h f => Sys2Proof.Machine.execDivn h f s
  | .rem h f => Sys2Proof.Machine.execRem h f s
  | .remn h f => Sys2Proof.Machine.execRemn h f s
  | .and h f => Sys2Proof.Machine.execAnd h f s
  | .or h f => Sys2Proof.Machine.execOr h f s
  | .xor h f => Sys2Proof.Machine.execXor h f s
  | .andn h f => Sys2Proof.Machine.execAndn h f s
  | .shl h f => Sys2Proof.Machine.execShl h f s
  | .shr h f => Sys2Proof.Machine.execShr h f s
  | .sra h f => Sys2Proof.Machine.execSra h f s
  | .rotl h f => Sys2Proof.Machine.execRotl h f s
  | .min h f => Sys2Proof.Machine.execMin h f s
  | .max h f => Sys2Proof.Machine.execMax h f s
  | .minn h f => Sys2Proof.Machine.execMinn h f s
  | .maxn h f => Sys2Proof.Machine.execMaxn h f s
  | .clz h f => Sys2Proof.Machine.execClz h f s
  | .popc h f => Sys2Proof.Machine.execPopc h f s
  | .sel h f => Sys2Proof.Machine.execSel h f s
  | .ext h f => Sys2Proof.Machine.execExt h f s
  | .ins h f => Sys2Proof.Machine.execIns h f s
  | .lea h f => Sys2Proof.Machine.execLea h f s
  | .addi h f => Sys2Proof.Machine.execAddi h f s
  | .subi h f => Sys2Proof.Machine.execSubi h f s
  | .muli h f => Sys2Proof.Machine.execMuli h f s
  | .mulhi h f => Sys2Proof.Machine.execMulhi h f s
  | .mulhni h f => Sys2Proof.Machine.execMulhni h f s
  | .divi h f => Sys2Proof.Machine.execDivi h f s
  | .divni h f => Sys2Proof.Machine.execDivni h f s
  | .remi h f => Sys2Proof.Machine.execRemi h f s
  | .remni h f => Sys2Proof.Machine.execRemni h f s
  | .andi h f => Sys2Proof.Machine.execAndi h f s
  | .ori h f => Sys2Proof.Machine.execOri h f s
  | .xori h f => Sys2Proof.Machine.execXori h f s
  | .andni h f => Sys2Proof.Machine.execAndni h f s
  | .shli h f => Sys2Proof.Machine.execShli h f s
  | .shri h f => Sys2Proof.Machine.execShri h f s
  | .srai h f => Sys2Proof.Machine.execSrai h f s
  | .rotli h f => Sys2Proof.Machine.execRotli h f s
  | .mini h f => Sys2Proof.Machine.execMini h f s
  | .maxi h f => Sys2Proof.Machine.execMaxi h f s
  | .minni h f => Sys2Proof.Machine.execMinni h f s
  | .maxni h f => Sys2Proof.Machine.execMaxni h f s
  | .seli h f => Sys2Proof.Machine.execSeli h f s
  | .exti h f => Sys2Proof.Machine.execExti h f s
  | .insi h f => Sys2Proof.Machine.execInsi h f s
  | .leai h f => Sys2Proof.Machine.execLeai h f s
  | .movi h f => Sys2Proof.Machine.execMovi h f s
  | .movhi h f => Sys2Proof.Machine.execMovhi h f s
  | .mov h f => Sys2Proof.Machine.execMov h f s
  | .cmp h f => Sys2Proof.Machine.execCmp h f s
  | .cmpi h f => Sys2Proof.Machine.execCmpi h f s
  | .fcmp h f => Sys2Proof.Machine.execFcmp h f s
  | .plog h f => Sys2Proof.Machine.execPlog h f s
  | .fadd h f => Sys2Proof.Machine.execFadd h f s
  | .fsub h f => Sys2Proof.Machine.execFsub h f s
  | .fmul h f => Sys2Proof.Machine.execFmul h f s
  | .fma h f => Sys2Proof.Machine.execFma h f s
  | .fmin h f => Sys2Proof.Machine.execFmin h f s
  | .fmax h f => Sys2Proof.Machine.execFmax h f s
  | .fdiv h f => Sys2Proof.Machine.execFdiv h f s
  | .fcvt h f => Sys2Proof.Machine.execFcvt h f s
  | .pbr h f => Sys2Proof.Machine.execPbr h f s
  | .pbri h f => Sys2Proof.Machine.execPbri h f s
  | .br h f => Sys2Proof.Machine.execBr h f s
  | .call h f => Sys2Proof.Machine.execCall h f s
  | .ret h f => Sys2Proof.Machine.execRet h f s
  | .loop h f => Sys2Proof.Machine.execLoop h f s
  | .loopbrk h f => Sys2Proof.Machine.execLoopbrk h f s
  | .setlc h f => Sys2Proof.Machine.execSetlc h f s
  | .setg h f => Sys2Proof.Machine.execSetg h f s
  | .getg h f => Sys2Proof.Machine.execGetg h f s
  | .getsr h f => Sys2Proof.Machine.execGetsr h f s
  | .setsr h f => Sys2Proof.Machine.execSetsr h f s
  | .setfmt h f => Sys2Proof.Machine.execSetfmt h f s
  | .setx h f => Sys2Proof.Machine.execSetx h f s
  | .safept h f => Sys2Proof.Machine.execSafept h f s
  | .trap h f => Sys2Proof.Machine.execTrap h f s
  | .rft h f => Sys2Proof.Machine.execRft h f s
  | .halt h f => Sys2Proof.Machine.execHalt h f s
  | .yield h f => Sys2Proof.Machine.execYield h f s
  | .time h f => Sys2Proof.Machine.execTime h f s
  | .vadd h f => Sys2Proof.Machine.execVadd h f s
  | .vsub h f => Sys2Proof.Machine.execVsub h f s
  | .vmul h f => Sys2Proof.Machine.execVmul h f s
  | .vfma h f => Sys2Proof.Machine.execVfma h f s
  | .vmin h f => Sys2Proof.Machine.execVmin h f s
  | .vmax h f => Sys2Proof.Machine.execVmax h f s
  | .vand h f => Sys2Proof.Machine.execVand h f s
  | .vor h f => Sys2Proof.Machine.execVor h f s
  | .vxor h f => Sys2Proof.Machine.execVxor h f s
  | .vshl h f => Sys2Proof.Machine.execVshl h f s
  | .vshr h f => Sys2Proof.Machine.execVshr h f s
  | .vsra h f => Sys2Proof.Machine.execVsra h f s
  | .vcmp h f => Sys2Proof.Machine.execVcmp h f s
  | .vsel h f => Sys2Proof.Machine.execVsel h f s
  | .vmov h f => Sys2Proof.Machine.execVmov h f s
  | .vbcast h f => Sys2Proof.Machine.execVbcast h f s
  | .viota h f => Sys2Proof.Machine.execViota h f s
  | .vcvt h f => Sys2Proof.Machine.execVcvt h f s
  | .vperm h f => Sys2Proof.Machine.execVperm h f s
  | .vslide h f => Sys2Proof.Machine.execVslide h f s
  | .vdot4 h f => Sys2Proof.Machine.execVdot4 h f s
  | .vexp2 h f => Sys2Proof.Machine.execVexp2 h f s
  | .vlog2 h f => Sys2Proof.Machine.execVlog2 h f s
  | .vrcp h f => Sys2Proof.Machine.execVrcp h f s
  | .vrsq h f => Sys2Proof.Machine.execVrsq h f s
  | .vdiv h f => Sys2Proof.Machine.execVdiv h f s
  | .vsqrt h f => Sys2Proof.Machine.execVsqrt h f s
  | .vred h f => Sys2Proof.Machine.execVred h f s
  | .vscan h f => Sys2Proof.Machine.execVscan h f s
  | .vamax h f => Sys2Proof.Machine.execVamax h f s
  | .vquant h f => Sys2Proof.Machine.execVquant h f s
  | .vcmpr h f => Sys2Proof.Machine.execVcmpr h f s
  | .vtopk h f => Sys2Proof.Machine.execVtopk h f s
  | .vmergek h f => Sys2Proof.Machine.execVmergek h f s
  | .vdesc h f => Sys2Proof.Machine.execVdesc h f s
  | .vrand h f => Sys2Proof.Machine.execVrand h f s
  | .vkop h f => Sys2Proof.Machine.execVkop h f s
  | .vkmovAny h f => Sys2Proof.Machine.execVkmovAny h f s
  | .vkmovAll h f => Sys2Proof.Machine.execVkmovAll h f s
  | .vkmovFroms h f => Sys2Proof.Machine.execVkmovFroms h f s
  | .vkmovTos h f => Sys2Proof.Machine.execVkmovTos h f s
  | .vkmovTov h f => Sys2Proof.Machine.execVkmovTov h f s
  | .vgetl h f => Sys2Proof.Machine.execVgetl h f s
  | .vsetl h f => Sys2Proof.Machine.execVsetl h f s
  | .ld h f => Sys2Proof.Machine.execLd h f s
  | .ldv h f => Sys2Proof.Machine.execLdv h f s
  | .ldvs h f => Sys2Proof.Machine.execLdvs h f s
  | .ldx h f => Sys2Proof.Machine.execLdx h f s
  | .ldg h f => Sys2Proof.Machine.execLdg h f s
  | .ldgv h f => Sys2Proof.Machine.execLdgv h f s
  | .gath h f => Sys2Proof.Machine.execGath h f s
  | .ldw h f => Sys2Proof.Machine.execLdw h f s
  | .ldc h f => Sys2Proof.Machine.execLdc h f s
  | .ldt h f => Sys2Proof.Machine.execLdt h f s
  | .probe h f => Sys2Proof.Machine.execProbe h f s
  | .st h f => Sys2Proof.Machine.execSt h f s
  | .stv h f => Sys2Proof.Machine.execStv h f s
  | .stvs h f => Sys2Proof.Machine.execStvs h f s
  | .stg h f => Sys2Proof.Machine.execStg h f s
  | .stgv h f => Sys2Proof.Machine.execStgv h f s
  | .scat h f => Sys2Proof.Machine.execScat h f s
  | .stf h f => Sys2Proof.Machine.execStf h f s
  | .sts h f => Sys2Proof.Machine.execSts h f s
  | .tage h f => Sys2Proof.Machine.execTage h f s
  | .mpset h f => Sys2Proof.Machine.execMpset h f s
  | .mlds h f => Sys2Proof.Machine.execMlds h f s
  | .mms h f => Sys2Proof.Machine.execMms h f s
  | .mmsp h f => Sys2Proof.Machine.execMmsp h f s
  | .mmv h f => Sys2Proof.Machine.execMmv h f s
  | .accrd h f => Sys2Proof.Machine.execAccrd h f s
  | .accclr h f => Sys2Proof.Machine.execAccclr h f s
  | .accscl h f => Sys2Proof.Machine.execAccscl h f s
  | .txbind h f => Sys2Proof.Machine.execTxbind h f s
  | .txstep h f => Sys2Proof.Machine.execTxstep h f s
  | .txfin h f => Sys2Proof.Machine.execTxfin h f s
  | .txsave h f => Sys2Proof.Machine.execTxsave h f s
  | .txrest h f => Sys2Proof.Machine.execTxrest h f s
  | .txabort h f => Sys2Proof.Machine.execTxabort h f s
  | .cp h f => Sys2Proof.Machine.execCp h f s
  | .cpq h f => Sys2Proof.Machine.execCpq h f s
  | .wstr h f => Sys2Proof.Machine.execWstr h f s
  | .lsend h f => Sys2Proof.Machine.execLsend h f s
  | .pgreq h f => Sys2Proof.Machine.execPgreq h f s
  | .enq h f => Sys2Proof.Machine.execEnq h f s
  | .frank h f => Sys2Proof.Machine.execFrank h f s
  | .kvwalk h f => Sys2Proof.Machine.execKvwalk h f s
  | .kvappend h f => Sys2Proof.Machine.execKvappend h f s
  | .kvseal h f => Sys2Proof.Machine.execKvseal h f s
  | .kvtrunc h f => Sys2Proof.Machine.execKvtrunc h f s
  | .bmap h f => Sys2Proof.Machine.execBmap h f s
  | .strmrd h f => Sys2Proof.Machine.execStrmrd h f s
  | .strmcommit h f => Sys2Proof.Machine.execStrmcommit h f s
  | .strmin h f => Sys2Proof.Machine.execStrmin h f s
  | .fwait h f => Sys2Proof.Machine.execFwait h f s
  | .fpost h f => Sys2Proof.Machine.execFpost h f s
  | .aarm h f => Sys2Proof.Machine.execAarm h f s
  | .await h f => Sys2Proof.Machine.execAwait h f s
  | .barr h f => Sys2Proof.Machine.execBarr h f s
  | .bwait h f => Sys2Proof.Machine.execBwait h f s
  | .hbar h f => Sys2Proof.Machine.execHbar h f s
  | .fence h f => Sys2Proof.Machine.execFence h f s
  | .fencex h f => Sys2Proof.Machine.execFencex h f s
  | .park h f => Sys2Proof.Machine.execPark h f s
  | .wake h f => Sys2Proof.Machine.execWake h f s
  | .qeos h f => Sys2Proof.Machine.execQeos h f s
  | .qdrain h f => Sys2Proof.Machine.execQdrain h f s
  | .amo h f => Sys2Proof.Machine.execAmo h f s
  | .cas h f => Sys2Proof.Machine.execCas h f s
  | .bundleIssue c => Sys2Proof.Machine.execBundleIssue c s
  | .yieldQuantum c => Sys2Proof.Machine.execYieldQuantum c s
  | .contextStart x => Sys2Proof.Machine.execContextStart x s
  | .contextLeave x => Sys2Proof.Machine.execContextLeave x s
  | .slotTableRound die => Sys2Proof.Machine.execSlotTableRound die s
  | .slotTurn die => Sys2Proof.Machine.execSlotTurn die s
  | .scoreboardArrival id => Sys2Proof.Machine.execScoreboardArrival id s
  | .attributedTrap x => Sys2Proof.Machine.execAttributedTrap x s
  | .feRetry id => Sys2Proof.Machine.execFeRetry id s
  | .reservationExpiry die asid word => Sys2Proof.Machine.execReservationExpiry die asid word s
  | .arrivalWordUpdate c => Sys2Proof.Machine.execArrivalWordUpdate c s
  | .arrayOpExecute c => Sys2Proof.Machine.execArrayOpExecute c s
  | .chainBlockCommit c => Sys2Proof.Machine.execChainBlockCommit c s
  | .engineCommandStart r => Sys2Proof.Machine.execEngineCommandStart r s
  | .engineCommandComplete r => Sys2Proof.Machine.execEngineCommandComplete r s
  | .deviceMemoryRequest id => Sys2Proof.Machine.execDeviceMemoryRequest id s
  | .tlbLeaseExpiry die asid page => Sys2Proof.Machine.execTlbLeaseExpiry die asid page s
  | .migrationComplete die asid page => Sys2Proof.Machine.execMigrationComplete die asid page s
  | .faultwaitExpiry id => Sys2Proof.Machine.execFaultwaitExpiry id s
  | .contextSave x => Sys2Proof.Machine.execContextSave x s
  | .preemptTimeout stream => Sys2Proof.Machine.execPreemptTimeout stream s
  | .contextRestore x => Sys2Proof.Machine.execContextRestore x s
  | .postmasterFrame die => Sys2Proof.Machine.execPostmasterFrame die s
  | .idleSlot die => Sys2Proof.Machine.execIdleSlot die s
  | .doorbellSlot die => Sys2Proof.Machine.execDoorbellSlot die s
  | .mtuFaultSlot die => Sys2Proof.Machine.execMtuFaultSlot die s
  | .retirementSlot die => Sys2Proof.Machine.execRetirementSlot die s
  | .frankingSlot die => Sys2Proof.Machine.execFrankingSlot die s
  | .telemetrySlot die => Sys2Proof.Machine.execTelemetrySlot die s
  | .mailboxSlot die => Sys2Proof.Machine.execMailboxSlot die s
  | .dispatchStep die => Sys2Proof.Machine.execDispatchStep die s
  | .streamCharge stream => Sys2Proof.Machine.execStreamCharge stream s
  | .queueDrainComplete die q => Sys2Proof.Machine.execQueueDrainComplete die q s
  | .queueCommandComplete die id => Sys2Proof.Machine.execQueueCommandComplete die id s
  | .frankEnqueue die => Sys2Proof.Machine.execFrankEnqueue die s
  | .freezeEnd c => Sys2Proof.Machine.execFreezeEnd c s
  | .packetHop id => Sys2Proof.Machine.execPacketHop id s
  | .routeHoldExpiry id => Sys2Proof.Machine.execRouteHoldExpiry id s
  | .splitQuiesceEnd die stack => Sys2Proof.Machine.execSplitQuiesceEnd die stack s
  | .bootStart => Sys2Proof.Machine.execBootStart s
  | .engineBurst r => Sys2Proof.Machine.execEngineBurst r s
  | .linkPacketArrive die port vc pkt => Sys2Proof.Machine.execLinkPacketArrive die port vc pkt s
  | .doorbellWrite fn die q value => Sys2Proof.Machine.execDoorbellWrite fn die q value s
  | .queueEnable fn die q => Sys2Proof.Machine.execQueueEnable fn die q s
  | .queueDestroy fn die q => Sys2Proof.Machine.execQueueDestroy fn die q s
  | .queueKill fn die q => Sys2Proof.Machine.execQueueKill fn die q s
  | .tenancyTableWrite fn die off value => Sys2Proof.Machine.execTenancyTableWrite fn die off value s
  | .queueAssignmentWrite fn die q value => Sys2Proof.Machine.execQueueAssignmentWrite fn die q value s
  | .asidOwnerWrite fn die asid value => Sys2Proof.Machine.execAsidOwnerWrite fn die asid value s
  | .funcerrClear fn value => Sys2Proof.Machine.execFuncerrClear fn value s
  | .registerWrite fn off value => Sys2Proof.Machine.execRegisterWrite fn off value s
  | .bar2Access fn write off data => Sys2Proof.Machine.execBar2Access fn write off data s
  | .launch die q cmd => Sys2Proof.Machine.execLaunch die q cmd s
  | .copy die q cmd => Sys2Proof.Machine.execCopy die q cmd s
  | .signal die q cmd => Sys2Proof.Machine.execSignal die q cmd s
  | .hold die q cmd => Sys2Proof.Machine.execHold die q cmd s
  | .arm die q cmd => Sys2Proof.Machine.execArm die q cmd s
  | .tagfill die q cmd => Sys2Proof.Machine.execTagfill die q cmd s
  | .map die q cmd => Sys2Proof.Machine.execMap die q cmd s
  | .unmap die q cmd => Sys2Proof.Machine.execUnmap die q cmd s
  | .postmarkIncrement die ctr store value => Sys2Proof.Machine.execPostmarkIncrement die ctr store value s
  | .functionReset fn => Sys2Proof.Machine.execFunctionReset fn s
  | .correctableErrorFreeze c => Sys2Proof.Machine.execCorrectableErrorFreeze c s
  | .uncorrectableOnchipError site => Sys2Proof.Machine.execUncorrectableOnchipError site s
  | .thermalShutdown die => Sys2Proof.Machine.execThermalShutdown die s
  | .linkDown die silent => Sys2Proof.Machine.execLinkDown die silent s
  | .lease fn die args => Sys2Proof.Machine.execLease fn die args s
  | .hwin fn die args => Sys2Proof.Machine.execHwin fn die args s
  | .tagpool fn die args => Sys2Proof.Machine.execTagpool fn die args s
  | .split fn die args => Sys2Proof.Machine.execSplit fn die args s
  | .faultring fn die args => Sys2Proof.Machine.execFaultring fn die args s
  | .faultwait fn die args => Sys2Proof.Machine.execFaultwait fn die args s
  | .migrate fn die args => Sys2Proof.Machine.execMigrate fn die args s
  | .extend fn die args => Sys2Proof.Machine.execExtend fn die args s
  | .journal fn die args => Sys2Proof.Machine.execJournal fn die args s
  | .telem fn die args => Sys2Proof.Machine.execTelem fn die args s
  | .routeset fn die args => Sys2Proof.Machine.execRouteset fn die args s
  | .linkto fn die args => Sys2Proof.Machine.execLinkto fn die args s
  | .spdmGetVersion => Sys2Proof.Machine.execSpdmGetVersion s
  | .spdmNegotiateAlgorithms mldsa sha3 => Sys2Proof.Machine.execSpdmNegotiateAlgorithms mldsa sha3 s
  | .spdmGetMeasurements sign nonce => Sys2Proof.Machine.execSpdmGetMeasurements sign nonce s
  | .mgmtHold => Sys2Proof.Machine.execMgmtHold s
  | .reset => Sys2Proof.Machine.execReset s
  | .funcreset f => Sys2Proof.Machine.execFuncreset f s
  | .bootsel slot => Sys2Proof.Machine.execBootsel slot s
  | .clear k u => Sys2Proof.Machine.execClear k u s
  | .powercap w => Sys2Proof.Machine.execPowercap w s
  | .pldmFirmwareUpdate content digest svn trust => Sys2Proof.Machine.execPldmFirmwareUpdate content digest svn trust s
  | .mailboxDoorbellWrite fn value => Sys2Proof.Machine.execMailboxDoorbellWrite fn value s
  | .refusedRead fn off => Sys2Proof.Machine.execRefusedRead fn off s

end Sys2Proof.Machine
end

