-- ==== Sys2Proof/Machine/Step.lean ====
section
/-! DEFINITION. The step of the package: the event that is due, or one that may come next, with the operations of a
bundle that it issues. -/
namespace Sys2Proof.Machine

/-- 04 R92, 01 R34: the operations of the bundle execute in slot order, and it retires; `n` is at least their number. -/
def drain : Nat → State → Host.Outcome State Fault Refusal
  | 0, s => .next s.retire
  | n + 1, s =>
    match s.nextOp with
    | none => .next s.retire
    | some (i, t) =>
      match exec i t with
      | .next u => drain n u
      | .fault f => .fault f
      | .refused r => .refused r

/-- An event, and the operations it issues. -/
def run (i : Instr) (s : State) : Host.Outcome State Fault Refusal :=
  match exec i s with
  | .next t => drain 16 t
  | .fault f => .fault f
  | .refused r => .refused r

/-- What a step leaves goes on through `f`. -/
def andThen (o : Host.Outcome State Fault Refusal) (f : State → State) : Host.Outcome State Fault Refusal :=
  match o with
  | .next t => .next (f t)
  | .fault x => .fault x
  | .refused r => .refused r

/-- One step of the package. -/
def step (s : State) : Host.Outcome State Fault Refusal :=
  if s.issue.isSome then andThen (drain 16 s) State.spent
  else
    match s.dueEvents with
    | i :: _ => andThen (run i s) State.spent
    | [] =>
      match s.pick with
      | some i => andThen (run i (s.dropInput i)) State.tick
      | none => .next { s.tick with inputs := s.inputs.drop 1 }

/-- The package with an instruction where the next step fetches (log entry 4). -/
def State.withFetchWord (s : State) (nbits w : Nat) : State := s.stage (BitVec.ofNat 512 (w % 2 ^ nbits))

end Sys2Proof.Machine
end

