-- ==== Sys2Proof/Laws/PerInstr.lean ====
section
/-! SUPPORT. Facts about every instruction as syntax, one lemma per constructor: the opcode and operand bits that the
encoder writes for a legal operation decode to it (04 R90, R95, 05 R112 to R122). -/
namespace Sys2Proof.Machine

theorem F3.ofOps_toOps (f : F3) : F3.ofOps (F3.toOps f) = f := by
  obtain ⟨d, a, b, ty, sub⟩ := f
  have h : F3.toOps ⟨d, a, b, ty, sub⟩ = ((((((d ++ a) ++ b) ++ ty) ++ sub) ++ 0#20) : BitVec (6 + 6 + 6 + 4 + 4 + 20)) := rfl
  simp only [F3.ofOps, F3.mk.injEq]
  rw [h]
  refine ⟨?_, ?_, ?_, ?_, ?_⟩ <;> ext i hi <;> simp only [BitVec.getElem_extractLsb', BitVec.getLsbD_append] <;> grind

theorem F4.ofOps_toOps (f : F4) : F4.ofOps (F4.toOps f) = f := by
  obtain ⟨d, a, b, c, ty, k, sub, rnd⟩ := f
  have h : F4.toOps ⟨d, a, b, c, ty, k, sub, rnd⟩ = (((((((((d ++ a) ++ b) ++ c) ++ ty) ++ k) ++ sub) ++ rnd) ++ 0#9) : BitVec (6 + 6 + 6 + 6 + 4 + 3 + 4 + 2 + 9)) := rfl
  simp only [F4.ofOps, F4.mk.injEq]
  rw [h]
  refine ⟨?_, ?_, ?_, ?_, ?_, ?_, ?_, ?_⟩ <;> ext i hi <;> simp only [BitVec.getElem_extractLsb', BitVec.getLsbD_append] <;> grind

theorem FI.ofOps_toOps (f : FI) : FI.ofOps (FI.toOps f) = f := by
  obtain ⟨d, a, imm⟩ := f
  have h : FI.toOps ⟨d, a, imm⟩ = (((d ++ a) ++ imm) : BitVec (6 + 6 + 34)) := rfl
  simp only [FI.ofOps, FI.mk.injEq]
  rw [h]
  refine ⟨?_, ?_, ?_⟩ <;> ext i hi <;> simp only [BitVec.getElem_extractLsb', BitVec.getLsbD_append] <;> grind

theorem FL.ofOps_toOps (f : FL) : FL.ofOps (FL.toOps f) = f := by
  obtain ⟨d, imm⟩ := f
  have h : FL.toOps ⟨d, imm⟩ = ((d ++ imm) : BitVec (6 + 40)) := rfl
  simp only [FL.ofOps, FL.mk.injEq]
  rw [h]
  refine ⟨?_, ?_⟩ <;> ext i hi <;> simp only [BitVec.getElem_extractLsb', BitVec.getLsbD_append] <;> grind

theorem FM.ofOps_toOps (f : FM) : FM.ofOps (FM.toOps f) = f := by
  obtain ⟨data, base, kind, space, ty, scope, order, offs⟩ := f
  have h : FM.toOps ⟨data, base, kind, space, ty, scope, order, offs⟩ = ((((((((data ++ base) ++ kind) ++ space) ++ ty) ++ scope) ++ order) ++ offs) : BitVec (6 + 6 + 1 + 2 + 4 + 4 + 2 + 21)) := rfl
  simp only [FM.ofOps, FM.mk.injEq]
  rw [h]
  refine ⟨?_, ?_, ?_, ?_, ?_, ?_, ?_, ?_⟩ <;> ext i hi <;> simp only [BitVec.getElem_extractLsb', BitVec.getLsbD_append] <;> grind

theorem FC.ofOps_toOps (f : FC) : FC.ofOps (FC.toOps f) = f := by
  obtain ⟨desc, a, b, tgt, eng, tag, path, sub⟩ := f
  have h : FC.toOps ⟨desc, a, b, tgt, eng, tag, path, sub⟩ = ((((((((desc ++ a) ++ b) ++ tgt) ++ eng) ++ tag) ++ path) ++ sub) : BitVec (6 + 6 + 6 + 5 + 3 + 4 + 8 + 8)) := rfl
  simp only [FC.ofOps, FC.mk.injEq]
  rw [h]
  refine ⟨?_, ?_, ?_, ?_, ?_, ?_, ?_, ?_⟩ <;> ext i hi <;> simp only [BitVec.getElem_extractLsb', BitVec.getLsbD_append] <;> grind

theorem FX.ofOps_toOps (f : FX) : FX.ofOps (FX.toOps f) = f := by
  obtain ⟨mp, vec, cnt, imm⟩ := f
  have h : FX.toOps ⟨mp, vec, cnt, imm⟩ = ((((mp ++ vec) ++ cnt) ++ imm) : BitVec (3 + 6 + 6 + 31)) := rfl
  simp only [FX.ofOps, FX.mk.injEq]
  rw [h]
  refine ⟨?_, ?_, ?_, ?_⟩ <;> ext i hi <;> simp only [BitVec.getElem_extractLsb', BitVec.getLsbD_append] <;> grind

/-- 07 R176: the sub-operation of a VKMOV is what the decoder looks at. -/
theorem F4.sub_toOps (f : F4) : (F4.toOps f).extractLsb' 11 4 = f.sub := congrArg F4.sub (F4.ofOps_toOps f)

end Sys2Proof.Machine

namespace Sys2Proof.Laws.FieldsDecode
open Sys2Proof.Machine

/-- A legal instruction that has an encoding is what its opcode space, opcode, head and operand bits decode to. -/
def Statement (i : Instr) : Prop :=
  i.fieldsOk = true → ∀ v, slotView i = some v → decodeOp v.cls v.opc.toNat v.h v.ops = some i

theorem statement_of_view {i : Instr} {v : SlotView} (hv : slotView i = some v)
    (hd : decodeOp v.cls v.opc.toNat v.h v.ops = some i) : Statement i := by
  intro _ w hw
  rw [hv] at hw
  cases hw
  exact hd

theorem statement_of_event {i : Instr} (hv : slotView i = none) : Statement i := by
  intro _ w hw
  rw [hv] at hw
  cases hw


theorem nop : Statement (.nop) := statement_of_event rfl
theorem add (h : Head) (f : F3) : Statement (.add h f) :=
  statement_of_view rfl (congrArg (fun x => some (Instr.add h x)) (F3.ofOps_toOps f))
theorem sub (h : Head) (f : F3) : Statement (.sub h f) :=
  statement_of_view rfl (congrArg (fun x => some (Instr.sub h x)) (F3.ofOps_toOps f))
theorem mul (h : Head) (f : F3) : Statement (.mul h f) :=
  statement_of_view rfl (congrArg (fun x => some (Instr.mul h x)) (F3.ofOps_toOps f))
theorem mulh (h : Head) (f : F3) : Statement (.mulh h f) :=
  statement_of_view rfl (congrArg (fun x => some (Instr.mulh h x)) (F3.ofOps_toOps f))
theorem mulhn (h : Head) (f : F3) : Statement (.mulhn h f) :=
  statement_of_view rfl (congrArg (fun x => some (Instr.mulhn h x)) (F3.ofOps_toOps f))
theorem div (h : Head) (f : F3) : Statement (.div h f) :=
  statement_of_view rfl (congrArg (fun x => some (Instr.div h x)) (F3.ofOps_toOps f))
theorem divn (h : Head) (f : F3) : Statement (.divn h f) :=
  statement_of_view rfl (congrArg (fun x => some (Instr.divn h x)) (F3.ofOps_toOps f))
theorem rem (h : Head) (f : F3) : Statement (.rem h f) :=
  statement_of_view rfl (congrArg (fun x => some (Instr.rem h x)) (F3.ofOps_toOps f))
theorem remn (h : Head) (f : F3) : Statement (.remn h f) :=
  statement_of_view rfl (congrArg (fun x => some (Instr.remn h x)) (F3.ofOps_toOps f))
theorem and (h : Head) (f : F3) : Statement (.and h f) :=
  statement_of_view rfl (congrArg (fun x => some (Instr.and h x)) (F3.ofOps_toOps f))
theorem or (h : Head) (f : F3) : Statement (.or h f) :=
  statement_of_view rfl (congrArg (fun x => some (Instr.or h x)) (F3.ofOps_toOps f))
theorem xor (h : Head) (f : F3) : Statement (.xor h f) :=
  statement_of_view rfl (congrArg (fun x => some (Instr.xor h x)) (F3.ofOps_toOps f))
theorem andn (h : Head) (f : F3) : Statement (.andn h f) :=
  statement_of_view rfl (congrArg (fun x => some (Instr.andn h x)) (F3.ofOps_toOps f))
theorem shl (h : Head) (f : F3) : Statement (.shl h f) :=
  statement_of_view rfl (congrArg (fun x => some (Instr.shl h x)) (F3.ofOps_toOps f))
theorem shr (h : Head) (f : F3) : Statement (.shr h f) :=
  statement_of_view rfl (congrArg (fun x => some (Instr.shr h x)) (F3.ofOps_toOps f))
theorem sra (h : Head) (f : F3) : Statement (.sra h f) :=
  statement_of_view rfl (congrArg (fun x => some (Instr.sra h x)) (F3.ofOps_toOps f))
theorem rotl (h : Head) (f : F3) : Statement (.rotl h f) :=
  statement_of_view rfl (congrArg (fun x => some (Instr.rotl h x)) (F3.ofOps_toOps f))
theorem min (h : Head) (f : F3) : Statement (.min h f) :=
  statement_of_view rfl (congrArg (fun x => some (Instr.min h x)) (F3.ofOps_toOps f))
theorem max (h : Head) (f : F3) : Statement (.max h f) :=
  statement_of_view rfl (congrArg (fun x => some (Instr.max h x)) (F3.ofOps_toOps f))
theorem minn (h : Head) (f : F3) : Statement (.minn h f) :=
  statement_of_view rfl (congrArg (fun x => some (Instr.minn h x)) (F3.ofOps_toOps f))
theorem maxn (h : Head) (f : F3) : Statement (.maxn h f) :=
  statement_of_view rfl (congrArg (fun x => some (Instr.maxn h x)) (F3.ofOps_toOps f))
theorem clz (h : Head) (f : F3) : Statement (.clz h f) :=
  statement_of_view rfl (congrArg (fun x => some (Instr.clz h x)) (F3.ofOps_toOps f))
theorem popc (h : Head) (f : F3) : Statement (.popc h f) :=
  statement_of_view rfl (congrArg (fun x => some (Instr.popc h x)) (F3.ofOps_toOps f))
theorem sel (h : Head) (f : F3) : Statement (.sel h f) :=
  statement_of_view rfl (congrArg (fun x => some (Instr.sel h x)) (F3.ofOps_toOps f))
theorem ext (h : Head) (f : F3) : Statement (.ext h f) :=
  statement_of_view rfl (congrArg (fun x => some (Instr.ext h x)) (F3.ofOps_toOps f))
theorem ins (h : Head) (f : F3) : Statement (.ins h f) :=
  statement_of_view rfl (congrArg (fun x => some (Instr.ins h x)) (F3.ofOps_toOps f))
theorem lea (h : Head) (f : F3) : Statement (.lea h f) :=
  statement_of_view rfl (congrArg (fun x => some (Instr.lea h x)) (F3.ofOps_toOps f))
theorem addi (h : Head) (f : FI) : Statement (.addi h f) :=
  statement_of_view rfl (congrArg (fun x => some (Instr.addi h x)) (FI.ofOps_toOps f))
theorem subi (h : Head) (f : FI) : Statement (.subi h f) :=
  statement_of_view rfl (congrArg (fun x => some (Instr.subi h x)) (FI.ofOps_toOps f))
theorem muli (h : Head) (f : FI) : Statement (.muli h f) :=
  statement_of_view rfl (congrArg (fun x => some (Instr.muli h x)) (FI.ofOps_toOps f))
theorem mulhi (h : Head) (f : FI) : Statement (.mulhi h f) :=
  statement_of_view rfl (congrArg (fun x => some (Instr.mulhi h x)) (FI.ofOps_toOps f))
theorem mulhni (h : Head) (f : FI) : Statement (.mulhni h f) :=
  statement_of_view rfl (congrArg (fun x => some (Instr.mulhni h x)) (FI.ofOps_toOps f))
theorem divi (h : Head) (f : FI) : Statement (.divi h f) :=
  statement_of_view rfl (congrArg (fun x => some (Instr.divi h x)) (FI.ofOps_toOps f))
theorem divni (h : Head) (f : FI) : Statement (.divni h f) :=
  statement_of_view rfl (congrArg (fun x => some (Instr.divni h x)) (FI.ofOps_toOps f))
theorem remi (h : Head) (f : FI) : Statement (.remi h f) :=
  statement_of_view rfl (congrArg (fun x => some (Instr.remi h x)) (FI.ofOps_toOps f))
theorem remni (h : Head) (f : FI) : Statement (.remni h f) :=
  statement_of_view rfl (congrArg (fun x => some (Instr.remni h x)) (FI.ofOps_toOps f))
theorem andi (h : Head) (f : FI) : Statement (.andi h f) :=
  statement_of_view rfl (congrArg (fun x => some (Instr.andi h x)) (FI.ofOps_toOps f))
theorem ori (h : Head) (f : FI) : Statement (.ori h f) :=
  statement_of_view rfl (congrArg (fun x => some (Instr.ori h x)) (FI.ofOps_toOps f))
theorem xori (h : Head) (f : FI) : Statement (.xori h f) :=
  statement_of_view rfl (congrArg (fun x => some (Instr.xori h x)) (FI.ofOps_toOps f))
theorem andni (h : Head) (f : FI) : Statement (.andni h f) :=
  statement_of_view rfl (congrArg (fun x => some (Instr.andni h x)) (FI.ofOps_toOps f))
theorem shli (h : Head) (f : FI) : Statement (.shli h f) :=
  statement_of_view rfl (congrArg (fun x => some (Instr.shli h x)) (FI.ofOps_toOps f))
theorem shri (h : Head) (f : FI) : Statement (.shri h f) :=
  statement_of_view rfl (congrArg (fun x => some (Instr.shri h x)) (FI.ofOps_toOps f))
theorem srai (h : Head) (f : FI) : Statement (.srai h f) :=
  statement_of_view rfl (congrArg (fun x => some (Instr.srai h x)) (FI.ofOps_toOps f))
theorem rotli (h : Head) (f : FI) : Statement (.rotli h f) :=
  statement_of_view rfl (congrArg (fun x => some (Instr.rotli h x)) (FI.ofOps_toOps f))
theorem mini (h : Head) (f : FI) : Statement (.mini h f) :=
  statement_of_view rfl (congrArg (fun x => some (Instr.mini h x)) (FI.ofOps_toOps f))
theorem maxi (h : Head) (f : FI) : Statement (.maxi h f) :=
  statement_of_view rfl (congrArg (fun x => some (Instr.maxi h x)) (FI.ofOps_toOps f))
theorem minni (h : Head) (f : FI) : Statement (.minni h f) :=
  statement_of_view rfl (congrArg (fun x => some (Instr.minni h x)) (FI.ofOps_toOps f))
theorem maxni (h : Head) (f : FI) : Statement (.maxni h f) :=
  statement_of_view rfl (congrArg (fun x => some (Instr.maxni h x)) (FI.ofOps_toOps f))
theorem seli (h : Head) (f : FI) : Statement (.seli h f) :=
  statement_of_view rfl (congrArg (fun x => some (Instr.seli h x)) (FI.ofOps_toOps f))
theorem exti (h : Head) (f : FI) : Statement (.exti h f) :=
  statement_of_view rfl (congrArg (fun x => some (Instr.exti h x)) (FI.ofOps_toOps f))
theorem insi (h : Head) (f : FI) : Statement (.insi h f) :=
  statement_of_view rfl (congrArg (fun x => some (Instr.insi h x)) (FI.ofOps_toOps f))
theorem leai (h : Head) (f : FI) : Statement (.leai h f) :=
  statement_of_view rfl (congrArg (fun x => some (Instr.leai h x)) (FI.ofOps_toOps f))
theorem movi (h : Head) (f : FL) : Statement (.movi h f) :=
  statement_of_view rfl (congrArg (fun x => some (Instr.movi h x)) (FL.ofOps_toOps f))
theorem movhi (h : Head) (f : FL) : Statement (.movhi h f) :=
  statement_of_view rfl (congrArg (fun x => some (Instr.movhi h x)) (FL.ofOps_toOps f))
theorem mov (h : Head) (f : F3) : Statement (.mov h f) :=
  statement_of_view rfl (congrArg (fun x => some (Instr.mov h x)) (F3.ofOps_toOps f))
theorem cmp (h : Head) (f : F4) : Statement (.cmp h f) :=
  statement_of_view rfl (congrArg (fun x => some (Instr.cmp h x)) (F4.ofOps_toOps f))
theorem cmpi (h : Head) (f : FI) : Statement (.cmpi h f) :=
  statement_of_view rfl (congrArg (fun x => some (Instr.cmpi h x)) (FI.ofOps_toOps f))
theorem fcmp (h : Head) (f : F4) : Statement (.fcmp h f) :=
  statement_of_view rfl (congrArg (fun x => some (Instr.fcmp h x)) (F4.ofOps_toOps f))
theorem plog (h : Head) (f : F3) : Statement (.plog h f) :=
  statement_of_view rfl (congrArg (fun x => some (Instr.plog h x)) (F3.ofOps_toOps f))
theorem fadd (h : Head) (f : F3) : Statement (.fadd h f) :=
  statement_of_view rfl (congrArg (fun x => some (Instr.fadd h x)) (F3.ofOps_toOps f))
theorem fsub (h : Head) (f : F3) : Statement (.fsub h f) :=
  statement_of_view rfl (congrArg (fun x => some (Instr.fsub h x)) (F3.ofOps_toOps f))
theorem fmul (h : Head) (f : F3) : Statement (.fmul h f) :=
  statement_of_view rfl (congrArg (fun x => some (Instr.fmul h x)) (F3.ofOps_toOps f))
theorem fma (h : Head) (f : F4) : Statement (.fma h f) :=
  statement_of_view rfl (congrArg (fun x => some (Instr.fma h x)) (F4.ofOps_toOps f))
theorem fmin (h : Head) (f : F3) : Statement (.fmin h f) :=
  statement_of_view rfl (congrArg (fun x => some (Instr.fmin h x)) (F3.ofOps_toOps f))
theorem fmax (h : Head) (f : F3) : Statement (.fmax h f) :=
  statement_of_view rfl (congrArg (fun x => some (Instr.fmax h x)) (F3.ofOps_toOps f))
theorem fdiv (h : Head) (f : F3) : Statement (.fdiv h f) :=
  statement_of_view rfl (congrArg (fun x => some (Instr.fdiv h x)) (F3.ofOps_toOps f))
theorem fcvt (h : Head) (f : F3) : Statement (.fcvt h f) :=
  statement_of_view rfl (congrArg (fun x => some (Instr.fcvt h x)) (F3.ofOps_toOps f))
theorem pbr (h : Head) (f : FI) : Statement (.pbr h f) :=
  statement_of_view rfl (congrArg (fun x => some (Instr.pbr h x)) (FI.ofOps_toOps f))
theorem pbri (h : Head) (f : F3) : Statement (.pbri h f) :=
  statement_of_view rfl (congrArg (fun x => some (Instr.pbri h x)) (F3.ofOps_toOps f))
theorem br (h : Head) (f : F3) : Statement (.br h f) :=
  statement_of_view rfl (congrArg (fun x => some (Instr.br h x)) (F3.ofOps_toOps f))
theorem call (h : Head) (f : F3) : Statement (.call h f) :=
  statement_of_view rfl (congrArg (fun x => some (Instr.call h x)) (F3.ofOps_toOps f))
theorem ret (h : Head) (f : F3) : Statement (.ret h f) :=
  statement_of_view rfl (congrArg (fun x => some (Instr.ret h x)) (F3.ofOps_toOps f))
theorem loop (h : Head) (f : FL) : Statement (.loop h f) :=
  statement_of_view rfl (congrArg (fun x => some (Instr.loop h x)) (FL.ofOps_toOps f))
theorem loopbrk (h : Head) (f : F3) : Statement (.loopbrk h f) :=
  statement_of_view rfl (congrArg (fun x => some (Instr.loopbrk h x)) (F3.ofOps_toOps f))
theorem setlc (h : Head) (f : FI) : Statement (.setlc h f) :=
  statement_of_view rfl (congrArg (fun x => some (Instr.setlc h x)) (FI.ofOps_toOps f))
theorem setg (h : Head) (f : F3) : Statement (.setg h f) :=
  statement_of_view rfl (congrArg (fun x => some (Instr.setg h x)) (F3.ofOps_toOps f))
theorem getg (h : Head) (f : F3) : Statement (.getg h f) :=
  statement_of_view rfl (congrArg (fun x => some (Instr.getg h x)) (F3.ofOps_toOps f))
theorem getsr (h : Head) (f : FI) : Statement (.getsr h f) :=
  statement_of_view rfl (congrArg (fun x => some (Instr.getsr h x)) (FI.ofOps_toOps f))
theorem setsr (h : Head) (f : FI) : Statement (.setsr h f) :=
  statement_of_view rfl (congrArg (fun x => some (Instr.setsr h x)) (FI.ofOps_toOps f))
theorem setfmt (h : Head) (f : FL) : Statement (.setfmt h f) :=
  statement_of_view rfl (congrArg (fun x => some (Instr.setfmt h x)) (FL.ofOps_toOps f))
theorem setx (h : Head) (f : F3) : Statement (.setx h f) :=
  statement_of_view rfl (congrArg (fun x => some (Instr.setx h x)) (F3.ofOps_toOps f))
theorem safept (h : Head) (f : F3) : Statement (.safept h f) :=
  statement_of_view rfl (congrArg (fun x => some (Instr.safept h x)) (F3.ofOps_toOps f))
theorem trap (h : Head) (f : FI) : Statement (.trap h f) :=
  statement_of_view rfl (congrArg (fun x => some (Instr.trap h x)) (FI.ofOps_toOps f))
theorem rft (h : Head) (f : F3) : Statement (.rft h f) :=
  statement_of_view rfl (congrArg (fun x => some (Instr.rft h x)) (F3.ofOps_toOps f))
theorem halt (h : Head) (f : F3) : Statement (.halt h f) :=
  statement_of_view rfl (congrArg (fun x => some (Instr.halt h x)) (F3.ofOps_toOps f))
theorem yield (h : Head) (f : F3) : Statement (.yield h f) :=
  statement_of_view rfl (congrArg (fun x => some (Instr.yield h x)) (F3.ofOps_toOps f))
theorem time (h : Head) (f : F3) : Statement (.time h f) :=
  statement_of_view rfl (congrArg (fun x => some (Instr.time h x)) (F3.ofOps_toOps f))
theorem vadd (h : Head) (f : F4) : Statement (.vadd h f) :=
  statement_of_view rfl (congrArg (fun x => some (Instr.vadd h x)) (F4.ofOps_toOps f))
theorem vsub (h : Head) (f : F4) : Statement (.vsub h f) :=
  statement_of_view rfl (congrArg (fun x => some (Instr.vsub h x)) (F4.ofOps_toOps f))
theorem vmul (h : Head) (f : F4) : Statement (.vmul h f) :=
  statement_of_view rfl (congrArg (fun x => some (Instr.vmul h x)) (F4.ofOps_toOps f))
theorem vfma (h : Head) (f : F4) : Statement (.vfma h f) :=
  statement_of_view rfl (congrArg (fun x => some (Instr.vfma h x)) (F4.ofOps_toOps f))
theorem vmin (h : Head) (f : F4) : Statement (.vmin h f) :=
  statement_of_view rfl (congrArg (fun x => some (Instr.vmin h x)) (F4.ofOps_toOps f))
theorem vmax (h : Head) (f : F4) : Statement (.vmax h f) :=
  statement_of_view rfl (congrArg (fun x => some (Instr.vmax h x)) (F4.ofOps_toOps f))
theorem vand (h : Head) (f : F4) : Statement (.vand h f) :=
  statement_of_view rfl (congrArg (fun x => some (Instr.vand h x)) (F4.ofOps_toOps f))
theorem vor (h : Head) (f : F4) : Statement (.vor h f) :=
  statement_of_view rfl (congrArg (fun x => some (Instr.vor h x)) (F4.ofOps_toOps f))
theorem vxor (h : Head) (f : F4) : Statement (.vxor h f) :=
  statement_of_view rfl (congrArg (fun x => some (Instr.vxor h x)) (F4.ofOps_toOps f))
theorem vshl (h : Head) (f : F4) : Statement (.vshl h f) :=
  statement_of_view rfl (congrArg (fun x => some (Instr.vshl h x)) (F4.ofOps_toOps f))
theorem vshr (h : Head) (f : F4) : Statement (.vshr h f) :=
  statement_of_view rfl (congrArg (fun x => some (Instr.vshr h x)) (F4.ofOps_toOps f))
theorem vsra (h : Head) (f : F4) : Statement (.vsra h f) :=
  statement_of_view rfl (congrArg (fun x => some (Instr.vsra h x)) (F4.ofOps_toOps f))
theorem vcmp (h : Head) (f : F4) : Statement (.vcmp h f) :=
  statement_of_view rfl (congrArg (fun x => some (Instr.vcmp h x)) (F4.ofOps_toOps f))
theorem vsel (h : Head) (f : F4) : Statement (.vsel h f) :=
  statement_of_view rfl (congrArg (fun x => some (Instr.vsel h x)) (F4.ofOps_toOps f))
theorem vmov (h : Head) (f : F4) : Statement (.vmov h f) :=
  statement_of_view rfl (congrArg (fun x => some (Instr.vmov h x)) (F4.ofOps_toOps f))
theorem vbcast (h : Head) (f : F4) : Statement (.vbcast h f) :=
  statement_of_view rfl (congrArg (fun x => some (Instr.vbcast h x)) (F4.ofOps_toOps f))
theorem viota (h : Head) (f : F4) : Statement (.viota h f) :=
  statement_of_view rfl (congrArg (fun x => some (Instr.viota h x)) (F4.ofOps_toOps f))
theorem vcvt (h : Head) (f : F4) : Statement (.vcvt h f) :=
  statement_of_view rfl (congrArg (fun x => some (Instr.vcvt h x)) (F4.ofOps_toOps f))
theorem vperm (h : Head) (f : F4) : Statement (.vperm h f) :=
  statement_of_view rfl (congrArg (fun x => some (Instr.vperm h x)) (F4.ofOps_toOps f))
theorem vslide (h : Head) (f : F4) : Statement (.vslide h f) :=
  statement_of_view rfl (congrArg (fun x => some (Instr.vslide h x)) (F4.ofOps_toOps f))
theorem vdot4 (h : Head) (f : F4) : Statement (.vdot4 h f) :=
  statement_of_view rfl (congrArg (fun x => some (Instr.vdot4 h x)) (F4.ofOps_toOps f))
theorem vexp2 (h : Head) (f : F4) : Statement (.vexp2 h f) :=
  statement_of_view rfl (congrArg (fun x => some (Instr.vexp2 h x)) (F4.ofOps_toOps f))
theorem vlog2 (h : Head) (f : F4) : Statement (.vlog2 h f) :=
  statement_of_view rfl (congrArg (fun x => some (Instr.vlog2 h x)) (F4.ofOps_toOps f))
theorem vrcp (h : Head) (f : F4) : Statement (.vrcp h f) :=
  statement_of_view rfl (congrArg (fun x => some (Instr.vrcp h x)) (F4.ofOps_toOps f))
theorem vrsq (h : Head) (f : F4) : Statement (.vrsq h f) :=
  statement_of_view rfl (congrArg (fun x => some (Instr.vrsq h x)) (F4.ofOps_toOps f))
theorem vdiv (h : Head) (f : F4) : Statement (.vdiv h f) :=
  statement_of_view rfl (congrArg (fun x => some (Instr.vdiv h x)) (F4.ofOps_toOps f))
theorem vsqrt (h : Head) (f : F4) : Statement (.vsqrt h f) :=
  statement_of_view rfl (congrArg (fun x => some (Instr.vsqrt h x)) (F4.ofOps_toOps f))
theorem vred (h : Head) (f : F4) : Statement (.vred h f) :=
  statement_of_view rfl (congrArg (fun x => some (Instr.vred h x)) (F4.ofOps_toOps f))
theorem vscan (h : Head) (f : F4) : Statement (.vscan h f) :=
  statement_of_view rfl (congrArg (fun x => some (Instr.vscan h x)) (F4.ofOps_toOps f))
theorem vamax (h : Head) (f : F4) : Statement (.vamax h f) :=
  statement_of_view rfl (congrArg (fun x => some (Instr.vamax h x)) (F4.ofOps_toOps f))
theorem vquant (h : Head) (f : F4) : Statement (.vquant h f) :=
  statement_of_view rfl (congrArg (fun x => some (Instr.vquant h x)) (F4.ofOps_toOps f))
theorem vcmpr (h : Head) (f : F4) : Statement (.vcmpr h f) :=
  statement_of_view rfl (congrArg (fun x => some (Instr.vcmpr h x)) (F4.ofOps_toOps f))
theorem vtopk (h : Head) (f : F4) : Statement (.vtopk h f) :=
  statement_of_view rfl (congrArg (fun x => some (Instr.vtopk h x)) (F4.ofOps_toOps f))
theorem vmergek (h : Head) (f : F4) : Statement (.vmergek h f) :=
  statement_of_view rfl (congrArg (fun x => some (Instr.vmergek h x)) (F4.ofOps_toOps f))
theorem vdesc (h : Head) (f : F4) : Statement (.vdesc h f) :=
  statement_of_view rfl (congrArg (fun x => some (Instr.vdesc h x)) (F4.ofOps_toOps f))
theorem vrand (h : Head) (f : F4) : Statement (.vrand h f) :=
  statement_of_view rfl (congrArg (fun x => some (Instr.vrand h x)) (F4.ofOps_toOps f))
theorem vkop (h : Head) (f : F4) : Statement (.vkop h f) :=
  statement_of_view rfl (congrArg (fun x => some (Instr.vkop h x)) (F4.ofOps_toOps f))
theorem vkmovAny (h : Head) (f : F4) : Statement (.vkmovAny h f) := by
  intro hf v hv
  cases hv
  have hs : (F4.toOps f).extractLsb' 11 4 = 0 := by
    rw [F4.sub_toOps]
    revert hf
    simp only [Instr.fieldsOk, fieldDefects, List.isEmpty_iff, List.append_eq_nil_iff, and_imp]
    intros
    simp_all
  show (match ((F4.toOps f).extractLsb' 11 4).toNat with
    | 0 => some (Instr.vkmovAny h (F4.ofOps (F4.toOps f)))
    | 1 => some (Instr.vkmovAll h (F4.ofOps (F4.toOps f)))
    | 2 => some (Instr.vkmovFroms h (F4.ofOps (F4.toOps f)))
    | 3 => some (Instr.vkmovTos h (F4.ofOps (F4.toOps f)))
    | _ => some (Instr.vkmovTov h (F4.ofOps (F4.toOps f)))) = _
  rw [hs, F4.ofOps_toOps]
  rfl
theorem vkmovAll (h : Head) (f : F4) : Statement (.vkmovAll h f) := by
  intro hf v hv
  cases hv
  have hs : (F4.toOps f).extractLsb' 11 4 = 1 := by
    rw [F4.sub_toOps]
    revert hf
    simp only [Instr.fieldsOk, fieldDefects, List.isEmpty_iff, List.append_eq_nil_iff, and_imp]
    intros
    simp_all
  show (match ((F4.toOps f).extractLsb' 11 4).toNat with
    | 0 => some (Instr.vkmovAny h (F4.ofOps (F4.toOps f)))
    | 1 => some (Instr.vkmovAll h (F4.ofOps (F4.toOps f)))
    | 2 => some (Instr.vkmovFroms h (F4.ofOps (F4.toOps f)))
    | 3 => some (Instr.vkmovTos h (F4.ofOps (F4.toOps f)))
    | _ => some (Instr.vkmovTov h (F4.ofOps (F4.toOps f)))) = _
  rw [hs, F4.ofOps_toOps]
  rfl
theorem vkmovFroms (h : Head) (f : F4) : Statement (.vkmovFroms h f) := by
  intro hf v hv
  cases hv
  have hs : (F4.toOps f).extractLsb' 11 4 = 2 := by
    rw [F4.sub_toOps]
    revert hf
    simp only [Instr.fieldsOk, fieldDefects, List.isEmpty_iff, List.append_eq_nil_iff, and_imp]
    intros
    simp_all
  show (match ((F4.toOps f).extractLsb' 11 4).toNat with
    | 0 => some (Instr.vkmovAny h (F4.ofOps (F4.toOps f)))
    | 1 => some (Instr.vkmovAll h (F4.ofOps (F4.toOps f)))
    | 2 => some (Instr.vkmovFroms h (F4.ofOps (F4.toOps f)))
    | 3 => some (Instr.vkmovTos h (F4.ofOps (F4.toOps f)))
    | _ => some (Instr.vkmovTov h (F4.ofOps (F4.toOps f)))) = _
  rw [hs, F4.ofOps_toOps]
  rfl
theorem vkmovTos (h : Head) (f : F4) : Statement (.vkmovTos h f) := by
  intro hf v hv
  cases hv
  have hs : (F4.toOps f).extractLsb' 11 4 = 3 := by
    rw [F4.sub_toOps]
    revert hf
    simp only [Instr.fieldsOk, fieldDefects, List.isEmpty_iff, List.append_eq_nil_iff, and_imp]
    intros
    simp_all
  show (match ((F4.toOps f).extractLsb' 11 4).toNat with
    | 0 => some (Instr.vkmovAny h (F4.ofOps (F4.toOps f)))
    | 1 => some (Instr.vkmovAll h (F4.ofOps (F4.toOps f)))
    | 2 => some (Instr.vkmovFroms h (F4.ofOps (F4.toOps f)))
    | 3 => some (Instr.vkmovTos h (F4.ofOps (F4.toOps f)))
    | _ => some (Instr.vkmovTov h (F4.ofOps (F4.toOps f)))) = _
  rw [hs, F4.ofOps_toOps]
  rfl
theorem vkmovTov (h : Head) (f : F4) : Statement (.vkmovTov h f) := by
  intro hf v hv
  cases hv
  have hs : (F4.toOps f).extractLsb' 11 4 = 4 := by
    rw [F4.sub_toOps]
    revert hf
    simp only [Instr.fieldsOk, fieldDefects, List.isEmpty_iff, List.append_eq_nil_iff, and_imp]
    intros
    simp_all
  show (match ((F4.toOps f).extractLsb' 11 4).toNat with
    | 0 => some (Instr.vkmovAny h (F4.ofOps (F4.toOps f)))
    | 1 => some (Instr.vkmovAll h (F4.ofOps (F4.toOps f)))
    | 2 => some (Instr.vkmovFroms h (F4.ofOps (F4.toOps f)))
    | 3 => some (Instr.vkmovTos h (F4.ofOps (F4.toOps f)))
    | _ => some (Instr.vkmovTov h (F4.ofOps (F4.toOps f)))) = _
  rw [hs, F4.ofOps_toOps]
  rfl
theorem vgetl (h : Head) (f : F4) : Statement (.vgetl h f) :=
  statement_of_view rfl (congrArg (fun x => some (Instr.vgetl h x)) (F4.ofOps_toOps f))
theorem vsetl (h : Head) (f : F4) : Statement (.vsetl h f) :=
  statement_of_view rfl (congrArg (fun x => some (Instr.vsetl h x)) (F4.ofOps_toOps f))
theorem ld (h : Head) (f : FM) : Statement (.ld h f) :=
  statement_of_view rfl (congrArg (fun x => some (Instr.ld h x)) (FM.ofOps_toOps f))
theorem ldv (h : Head) (f : FM) : Statement (.ldv h f) :=
  statement_of_view rfl (congrArg (fun x => some (Instr.ldv h x)) (FM.ofOps_toOps f))
theorem ldvs (h : Head) (f : FM) : Statement (.ldvs h f) :=
  statement_of_view rfl (congrArg (fun x => some (Instr.ldvs h x)) (FM.ofOps_toOps f))
theorem ldx (h : Head) (f : FM) : Statement (.ldx h f) :=
  statement_of_view rfl (congrArg (fun x => some (Instr.ldx h x)) (FM.ofOps_toOps f))
theorem ldg (h : Head) (f : FM) : Statement (.ldg h f) :=
  statement_of_view rfl (congrArg (fun x => some (Instr.ldg h x)) (FM.ofOps_toOps f))
theorem ldgv (h : Head) (f : FM) : Statement (.ldgv h f) :=
  statement_of_view rfl (congrArg (fun x => some (Instr.ldgv h x)) (FM.ofOps_toOps f))
theorem gath (h : Head) (f : F4) : Statement (.gath h f) :=
  statement_of_view rfl (congrArg (fun x => some (Instr.gath h x)) (F4.ofOps_toOps f))
theorem ldw (h : Head) (f : FM) : Statement (.ldw h f) :=
  statement_of_view rfl (congrArg (fun x => some (Instr.ldw h x)) (FM.ofOps_toOps f))
theorem ldc (h : Head) (f : FM) : Statement (.ldc h f) :=
  statement_of_view rfl (congrArg (fun x => some (Instr.ldc h x)) (FM.ofOps_toOps f))
theorem ldt (h : Head) (f : FM) : Statement (.ldt h f) :=
  statement_of_view rfl (congrArg (fun x => some (Instr.ldt h x)) (FM.ofOps_toOps f))
theorem probe (h : Head) (f : F4) : Statement (.probe h f) :=
  statement_of_view rfl (congrArg (fun x => some (Instr.probe h x)) (F4.ofOps_toOps f))
theorem st (h : Head) (f : FM) : Statement (.st h f) :=
  statement_of_view rfl (congrArg (fun x => some (Instr.st h x)) (FM.ofOps_toOps f))
theorem stv (h : Head) (f : FM) : Statement (.stv h f) :=
  statement_of_view rfl (congrArg (fun x => some (Instr.stv h x)) (FM.ofOps_toOps f))
theorem stvs (h : Head) (f : FM) : Statement (.stvs h f) :=
  statement_of_view rfl (congrArg (fun x => some (Instr.stvs h x)) (FM.ofOps_toOps f))
theorem stg (h : Head) (f : FM) : Statement (.stg h f) :=
  statement_of_view rfl (congrArg (fun x => some (Instr.stg h x)) (FM.ofOps_toOps f))
theorem stgv (h : Head) (f : FM) : Statement (.stgv h f) :=
  statement_of_view rfl (congrArg (fun x => some (Instr.stgv h x)) (FM.ofOps_toOps f))
theorem scat (h : Head) (f : F4) : Statement (.scat h f) :=
  statement_of_view rfl (congrArg (fun x => some (Instr.scat h x)) (F4.ofOps_toOps f))
theorem stf (h : Head) (f : FM) : Statement (.stf h f) :=
  statement_of_view rfl (congrArg (fun x => some (Instr.stf h x)) (FM.ofOps_toOps f))
theorem sts (h : Head) (f : FM) : Statement (.sts h f) :=
  statement_of_view rfl (congrArg (fun x => some (Instr.sts h x)) (FM.ofOps_toOps f))
theorem tage (h : Head) (f : FM) : Statement (.tage h f) :=
  statement_of_view rfl (congrArg (fun x => some (Instr.tage h x)) (FM.ofOps_toOps f))
theorem mpset (h : Head) (f : FX) : Statement (.mpset h f) :=
  statement_of_view rfl (congrArg (fun x => some (Instr.mpset h x)) (FX.ofOps_toOps f))
theorem mlds (h : Head) (f : FX) : Statement (.mlds h f) :=
  statement_of_view rfl (congrArg (fun x => some (Instr.mlds h x)) (FX.ofOps_toOps f))
theorem mms (h : Head) (f : FX) : Statement (.mms h f) :=
  statement_of_view rfl (congrArg (fun x => some (Instr.mms h x)) (FX.ofOps_toOps f))
theorem mmsp (h : Head) (f : FX) : Statement (.mmsp h f) :=
  statement_of_view rfl (congrArg (fun x => some (Instr.mmsp h x)) (FX.ofOps_toOps f))
theorem mmv (h : Head) (f : FX) : Statement (.mmv h f) :=
  statement_of_view rfl (congrArg (fun x => some (Instr.mmv h x)) (FX.ofOps_toOps f))
theorem accrd (h : Head) (f : FX) : Statement (.accrd h f) :=
  statement_of_view rfl (congrArg (fun x => some (Instr.accrd h x)) (FX.ofOps_toOps f))
theorem accclr (h : Head) (f : FX) : Statement (.accclr h f) :=
  statement_of_view rfl (congrArg (fun x => some (Instr.accclr h x)) (FX.ofOps_toOps f))
theorem accscl (h : Head) (f : FX) : Statement (.accscl h f) :=
  statement_of_view rfl (congrArg (fun x => some (Instr.accscl h x)) (FX.ofOps_toOps f))
theorem txbind (h : Head) (f : FX) : Statement (.txbind h f) :=
  statement_of_view rfl (congrArg (fun x => some (Instr.txbind h x)) (FX.ofOps_toOps f))
theorem txstep (h : Head) (f : FX) : Statement (.txstep h f) :=
  statement_of_view rfl (congrArg (fun x => some (Instr.txstep h x)) (FX.ofOps_toOps f))
theorem txfin (h : Head) (f : FX) : Statement (.txfin h f) :=
  statement_of_view rfl (congrArg (fun x => some (Instr.txfin h x)) (FX.ofOps_toOps f))
theorem txsave (h : Head) (f : FX) : Statement (.txsave h f) :=
  statement_of_view rfl (congrArg (fun x => some (Instr.txsave h x)) (FX.ofOps_toOps f))
theorem txrest (h : Head) (f : FX) : Statement (.txrest h f) :=
  statement_of_view rfl (congrArg (fun x => some (Instr.txrest h x)) (FX.ofOps_toOps f))
theorem txabort (h : Head) (f : FX) : Statement (.txabort h f) :=
  statement_of_view rfl (congrArg (fun x => some (Instr.txabort h x)) (FX.ofOps_toOps f))
theorem cp (h : Head) (f : FC) : Statement (.cp h f) :=
  statement_of_view rfl (congrArg (fun x => some (Instr.cp h x)) (FC.ofOps_toOps f))
theorem cpq (h : Head) (f : FC) : Statement (.cpq h f) :=
  statement_of_view rfl (congrArg (fun x => some (Instr.cpq h x)) (FC.ofOps_toOps f))
theorem wstr (h : Head) (f : FC) : Statement (.wstr h f) :=
  statement_of_view rfl (congrArg (fun x => some (Instr.wstr h x)) (FC.ofOps_toOps f))
theorem lsend (h : Head) (f : FC) : Statement (.lsend h f) :=
  statement_of_view rfl (congrArg (fun x => some (Instr.lsend h x)) (FC.ofOps_toOps f))
theorem pgreq (h : Head) (f : FC) : Statement (.pgreq h f) :=
  statement_of_view rfl (congrArg (fun x => some (Instr.pgreq h x)) (FC.ofOps_toOps f))
theorem enq (h : Head) (f : FC) : Statement (.enq h f) :=
  statement_of_view rfl (congrArg (fun x => some (Instr.enq h x)) (FC.ofOps_toOps f))
theorem frank (h : Head) (f : FC) : Statement (.frank h f) :=
  statement_of_view rfl (congrArg (fun x => some (Instr.frank h x)) (FC.ofOps_toOps f))
theorem kvwalk (h : Head) (f : FC) : Statement (.kvwalk h f) :=
  statement_of_view rfl (congrArg (fun x => some (Instr.kvwalk h x)) (FC.ofOps_toOps f))
theorem kvappend (h : Head) (f : FC) : Statement (.kvappend h f) :=
  statement_of_view rfl (congrArg (fun x => some (Instr.kvappend h x)) (FC.ofOps_toOps f))
theorem kvseal (h : Head) (f : FC) : Statement (.kvseal h f) :=
  statement_of_view rfl (congrArg (fun x => some (Instr.kvseal h x)) (FC.ofOps_toOps f))
theorem kvtrunc (h : Head) (f : FC) : Statement (.kvtrunc h f) :=
  statement_of_view rfl (congrArg (fun x => some (Instr.kvtrunc h x)) (FC.ofOps_toOps f))
theorem bmap (h : Head) (f : FC) : Statement (.bmap h f) :=
  statement_of_view rfl (congrArg (fun x => some (Instr.bmap h x)) (FC.ofOps_toOps f))
theorem strmrd (h : Head) (f : FC) : Statement (.strmrd h f) :=
  statement_of_view rfl (congrArg (fun x => some (Instr.strmrd h x)) (FC.ofOps_toOps f))
theorem strmcommit (h : Head) (f : FC) : Statement (.strmcommit h f) :=
  statement_of_view rfl (congrArg (fun x => some (Instr.strmcommit h x)) (FC.ofOps_toOps f))
theorem strmin (h : Head) (f : FC) : Statement (.strmin h f) :=
  statement_of_view rfl (congrArg (fun x => some (Instr.strmin h x)) (FC.ofOps_toOps f))
theorem fwait (h : Head) (f : FC) : Statement (.fwait h f) :=
  statement_of_view rfl (congrArg (fun x => some (Instr.fwait h x)) (FC.ofOps_toOps f))
theorem fpost (h : Head) (f : FC) : Statement (.fpost h f) :=
  statement_of_view rfl (congrArg (fun x => some (Instr.fpost h x)) (FC.ofOps_toOps f))
theorem aarm (h : Head) (f : FC) : Statement (.aarm h f) :=
  statement_of_view rfl (congrArg (fun x => some (Instr.aarm h x)) (FC.ofOps_toOps f))
theorem await (h : Head) (f : FC) : Statement (.await h f) :=
  statement_of_view rfl (congrArg (fun x => some (Instr.await h x)) (FC.ofOps_toOps f))
theorem barr (h : Head) (f : FM) : Statement (.barr h f) :=
  statement_of_view rfl (congrArg (fun x => some (Instr.barr h x)) (FM.ofOps_toOps f))
theorem bwait (h : Head) (f : FM) : Statement (.bwait h f) :=
  statement_of_view rfl (congrArg (fun x => some (Instr.bwait h x)) (FM.ofOps_toOps f))
theorem hbar (h : Head) (f : F3) : Statement (.hbar h f) :=
  statement_of_view rfl (congrArg (fun x => some (Instr.hbar h x)) (F3.ofOps_toOps f))
theorem fence (h : Head) (f : FM) : Statement (.fence h f) :=
  statement_of_view rfl (congrArg (fun x => some (Instr.fence h x)) (FM.ofOps_toOps f))
theorem fencex (h : Head) (f : FC) : Statement (.fencex h f) :=
  statement_of_view rfl (congrArg (fun x => some (Instr.fencex h x)) (FC.ofOps_toOps f))
theorem park (h : Head) (f : FM) : Statement (.park h f) :=
  statement_of_view rfl (congrArg (fun x => some (Instr.park h x)) (FM.ofOps_toOps f))
theorem wake (h : Head) (f : FM) : Statement (.wake h f) :=
  statement_of_view rfl (congrArg (fun x => some (Instr.wake h x)) (FM.ofOps_toOps f))
theorem qeos (h : Head) (f : F3) : Statement (.qeos h f) :=
  statement_of_view rfl (congrArg (fun x => some (Instr.qeos h x)) (F3.ofOps_toOps f))
theorem qdrain (h : Head) (f : F3) : Statement (.qdrain h f) :=
  statement_of_view rfl (congrArg (fun x => some (Instr.qdrain h x)) (F3.ofOps_toOps f))
theorem amo (h : Head) (f : FM) : Statement (.amo h f) :=
  statement_of_view rfl (congrArg (fun x => some (Instr.amo h x)) (FM.ofOps_toOps f))
theorem cas (h : Head) (f : FM) : Statement (.cas h f) :=
  statement_of_view rfl (congrArg (fun x => some (Instr.cas h x)) (FM.ofOps_toOps f))
theorem bundleIssue (c : CoreRef) : Statement (.bundleIssue c) := statement_of_event rfl
theorem yieldQuantum (c : CoreRef) : Statement (.yieldQuantum c) := statement_of_event rfl
theorem contextStart (x : CtxRef) : Statement (.contextStart x) := statement_of_event rfl
theorem contextLeave (x : CtxRef) : Statement (.contextLeave x) := statement_of_event rfl
theorem slotTableRound (die : BitVec 2) : Statement (.slotTableRound die) := statement_of_event rfl
theorem slotTurn (die : BitVec 2) : Statement (.slotTurn die) := statement_of_event rfl
theorem scoreboardArrival (id : Nat) : Statement (.scoreboardArrival id) := statement_of_event rfl
theorem attributedTrap (x : CtxRef) : Statement (.attributedTrap x) := statement_of_event rfl
theorem feRetry (id : Nat) : Statement (.feRetry id) := statement_of_event rfl
theorem reservationExpiry (die : BitVec 2) (asid : BitVec 12) (word : Word) : Statement (.reservationExpiry die asid word) := statement_of_event rfl
theorem arrivalWordUpdate (c : CoreRef) : Statement (.arrivalWordUpdate c) := statement_of_event rfl
theorem arrayOpExecute (c : CoreRef) : Statement (.arrayOpExecute c) := statement_of_event rfl
theorem chainBlockCommit (c : CoreRef) : Statement (.chainBlockCommit c) := statement_of_event rfl
theorem engineCommandStart (r : CmdRef) : Statement (.engineCommandStart r) := statement_of_event rfl
theorem engineCommandComplete (r : CmdRef) : Statement (.engineCommandComplete r) := statement_of_event rfl
theorem deviceMemoryRequest (id : Nat) : Statement (.deviceMemoryRequest id) := statement_of_event rfl
theorem tlbLeaseExpiry (die : BitVec 2) (asid : BitVec 12) (page : Nat) : Statement (.tlbLeaseExpiry die asid page) := statement_of_event rfl
theorem migrationComplete (die : BitVec 2) (asid : BitVec 12) (page : Nat) : Statement (.migrationComplete die asid page) := statement_of_event rfl
theorem faultwaitExpiry (id : Nat) : Statement (.faultwaitExpiry id) := statement_of_event rfl
theorem contextSave (x : CtxRef) : Statement (.contextSave x) := statement_of_event rfl
theorem preemptTimeout (stream : Nat) : Statement (.preemptTimeout stream) := statement_of_event rfl
theorem contextRestore (x : CtxRef) : Statement (.contextRestore x) := statement_of_event rfl
theorem postmasterFrame (die : BitVec 2) : Statement (.postmasterFrame die) := statement_of_event rfl
theorem idleSlot (die : BitVec 2) : Statement (.idleSlot die) := statement_of_event rfl
theorem doorbellSlot (die : BitVec 2) : Statement (.doorbellSlot die) := statement_of_event rfl
theorem mtuFaultSlot (die : BitVec 2) : Statement (.mtuFaultSlot die) := statement_of_event rfl
theorem retirementSlot (die : BitVec 2) : Statement (.retirementSlot die) := statement_of_event rfl
theorem frankingSlot (die : BitVec 2) : Statement (.frankingSlot die) := statement_of_event rfl
theorem telemetrySlot (die : BitVec 2) : Statement (.telemetrySlot die) := statement_of_event rfl
theorem mailboxSlot (die : BitVec 2) : Statement (.mailboxSlot die) := statement_of_event rfl
theorem dispatchStep (die : BitVec 2) : Statement (.dispatchStep die) := statement_of_event rfl
theorem streamCharge (stream : Nat) : Statement (.streamCharge stream) := statement_of_event rfl
theorem queueDrainComplete (die : BitVec 2) (q : BitVec 8) : Statement (.queueDrainComplete die q) := statement_of_event rfl
theorem queueCommandComplete (die : BitVec 2) (id : Nat) : Statement (.queueCommandComplete die id) := statement_of_event rfl
theorem frankEnqueue (die : BitVec 2) : Statement (.frankEnqueue die) := statement_of_event rfl
theorem freezeEnd (c : CoreRef) : Statement (.freezeEnd c) := statement_of_event rfl
theorem packetHop (id : Nat) : Statement (.packetHop id) := statement_of_event rfl
theorem routeHoldExpiry (id : Nat) : Statement (.routeHoldExpiry id) := statement_of_event rfl
theorem splitQuiesceEnd (die : BitVec 2) (stack : BitVec 1) : Statement (.splitQuiesceEnd die stack) := statement_of_event rfl
theorem bootStart : Statement (.bootStart) := statement_of_event rfl
theorem engineBurst (r : CmdRef) : Statement (.engineBurst r) := statement_of_event rfl
theorem linkPacketArrive (die : BitVec 2) (port : BitVec 3) (vc : BitVec 2) (pkt : LinkPacket) : Statement (.linkPacketArrive die port vc pkt) := statement_of_event rfl
theorem doorbellWrite (fn : BitVec 5) (die : BitVec 2) (q : BitVec 8) (value : BitVec 32) : Statement (.doorbellWrite fn die q value) := statement_of_event rfl
theorem queueEnable (fn : BitVec 5) (die : BitVec 2) (q : BitVec 8) : Statement (.queueEnable fn die q) := statement_of_event rfl
theorem queueDestroy (fn : BitVec 5) (die : BitVec 2) (q : BitVec 8) : Statement (.queueDestroy fn die q) := statement_of_event rfl
theorem queueKill (fn : BitVec 5) (die : BitVec 2) (q : BitVec 8) : Statement (.queueKill fn die q) := statement_of_event rfl
theorem tenancyTableWrite (fn : BitVec 5) (die : BitVec 2) (off : BitVec 12) (value : BitVec 8) : Statement (.tenancyTableWrite fn die off value) := statement_of_event rfl
theorem queueAssignmentWrite (fn : BitVec 5) (die : BitVec 2) (q : BitVec 8) (value : Word) : Statement (.queueAssignmentWrite fn die q value) := statement_of_event rfl
theorem asidOwnerWrite (fn : BitVec 5) (die : BitVec 2) (asid : BitVec 12) (value : BitVec 8) : Statement (.asidOwnerWrite fn die asid value) := statement_of_event rfl
theorem funcerrClear (fn : BitVec 5) (value : BitVec 3) : Statement (.funcerrClear fn value) := statement_of_event rfl
theorem registerWrite (fn : BitVec 5) (off : BitVec 19) (value : Word) : Statement (.registerWrite fn off value) := statement_of_event rfl
theorem bar2Access (fn : BitVec 5) (write : Bool) (off : WindowAt) (data : List Byte) :
    Statement (.bar2Access fn write off data) := statement_of_event rfl
theorem launch (die : BitVec 2) (q : BitVec 8) (cmd : Bundle) : Statement (.launch die q cmd) := statement_of_event rfl
theorem copy (die : BitVec 2) (q : BitVec 8) (cmd : Bundle) : Statement (.copy die q cmd) := statement_of_event rfl
theorem signal (die : BitVec 2) (q : BitVec 8) (cmd : Bundle) : Statement (.signal die q cmd) := statement_of_event rfl
theorem hold (die : BitVec 2) (q : BitVec 8) (cmd : Bundle) : Statement (.hold die q cmd) := statement_of_event rfl
theorem arm (die : BitVec 2) (q : BitVec 8) (cmd : Bundle) : Statement (.arm die q cmd) := statement_of_event rfl
theorem tagfill (die : BitVec 2) (q : BitVec 8) (cmd : Bundle) : Statement (.tagfill die q cmd) := statement_of_event rfl
theorem map (die : BitVec 2) (q : BitVec 8) (cmd : Bundle) : Statement (.map die q cmd) := statement_of_event rfl
theorem unmap (die : BitVec 2) (q : BitVec 8) (cmd : Bundle) : Statement (.unmap die q cmd) := statement_of_event rfl
theorem postmarkIncrement (die : BitVec 2) (ctr : BitVec 8) (store : Bool) (value : Word) : Statement (.postmarkIncrement die ctr store value) := statement_of_event rfl
theorem functionReset (fn : BitVec 5) : Statement (.functionReset fn) := statement_of_event rfl
theorem correctableErrorFreeze (c : CoreRef) : Statement (.correctableErrorFreeze c) := statement_of_event rfl
theorem uncorrectableOnchipError (site : ErrorSite) : Statement (.uncorrectableOnchipError site) := statement_of_event rfl
theorem thermalShutdown (die : BitVec 2) : Statement (.thermalShutdown die) := statement_of_event rfl
theorem linkDown (die : BitVec 2) (silent : LinkSilence) : Statement (.linkDown die silent) := statement_of_event rfl
theorem lease (fn : BitVec 5) (die : BitVec 2) (args : List Word) : Statement (.lease fn die args) := statement_of_event rfl
theorem hwin (fn : BitVec 5) (die : BitVec 2) (args : List Word) : Statement (.hwin fn die args) := statement_of_event rfl
theorem tagpool (fn : BitVec 5) (die : BitVec 2) (args : List Word) : Statement (.tagpool fn die args) := statement_of_event rfl
theorem split (fn : BitVec 5) (die : BitVec 2) (args : List Word) : Statement (.split fn die args) := statement_of_event rfl
theorem faultring (fn : BitVec 5) (die : BitVec 2) (args : List Word) : Statement (.faultring fn die args) := statement_of_event rfl
theorem faultwait (fn : BitVec 5) (die : BitVec 2) (args : List Word) : Statement (.faultwait fn die args) := statement_of_event rfl
theorem migrate (fn : BitVec 5) (die : BitVec 2) (args : List Word) : Statement (.migrate fn die args) := statement_of_event rfl
theorem extend (fn : BitVec 5) (die : BitVec 2) (args : List Word) : Statement (.extend fn die args) := statement_of_event rfl
theorem journal (fn : BitVec 5) (die : BitVec 2) (args : List Word) : Statement (.journal fn die args) := statement_of_event rfl
theorem telem (fn : BitVec 5) (die : BitVec 2) (args : List Word) : Statement (.telem fn die args) := statement_of_event rfl
theorem routeset (fn : BitVec 5) (die : BitVec 2) (args : List Word) : Statement (.routeset fn die args) := statement_of_event rfl
theorem linkto (fn : BitVec 5) (die : BitVec 2) (args : List Word) : Statement (.linkto fn die args) := statement_of_event rfl
theorem spdmGetVersion : Statement .spdmGetVersion := statement_of_event rfl
theorem spdmNegotiateAlgorithms (mldsa : Bool) (sha3 : Bool) : Statement (.spdmNegotiateAlgorithms mldsa sha3) := statement_of_event rfl
theorem spdmGetMeasurements (sign : Bool) (nonce : BitVec 256) : Statement (.spdmGetMeasurements sign nonce) := statement_of_event rfl
theorem mgmtHold : Statement (.mgmtHold) := statement_of_event rfl
theorem reset : Statement (.reset) := statement_of_event rfl
theorem funcreset (f : BitVec 8) : Statement (.funcreset f) := statement_of_event rfl
theorem bootsel (slot : BitVec 1) : Statement (.bootsel slot) := statement_of_event rfl
theorem clear (k : BitVec 8) (u : BitVec 8) : Statement (.clear k u) := statement_of_event rfl
theorem powercap (w : BitVec 16) : Statement (.powercap w) := statement_of_event rfl
theorem pldmFirmwareUpdate (content : List Byte) (digest : BitVec 256) (svn : Nat) (trust : ImageTrust) :
    Statement (.pldmFirmwareUpdate content digest svn trust) := statement_of_event rfl
theorem mailboxDoorbellWrite (fn : BitVec 5) (value : Word) : Statement (.mailboxDoorbellWrite fn value) := statement_of_event rfl
theorem refusedRead (fn : BitVec 5) (off : BitVec 19) : Statement (.refusedRead fn off) := statement_of_event rfl

end Sys2Proof.Laws.FieldsDecode
end

