-- ==== Sys2Proof/Safety.lean ====
section
/-! DEFINITION. What a safe package is: the facts about its state that every step keeps. -/
namespace Sys2Proof.Machine

/-- The memory is in its canonical form. -/
def State.memOk (s : State) : Bool := Memory.wf s.mem

/-- 18 R407: a byte of the regions in which the firmware keeps the pigeonhole buckets, which no tenant reaches. -/
def bucketByte (k : Nat) : Bool :=
  ([0, 1, 2, 3] : List (BitVec 2)).any fun d => decide (hbmKey d bucketBase ≤ k) && decide (k < hbmKey d bucketBase + bucketRegion)

/-- All that a program can see of memory is as before: only the firmware's bucket regions may have changed. -/
def State.KeepsData (s t : State) : Prop :=
  s.memOk = true → t.memOk = true ∧ ∀ k, bucketByte k = false → readByte t.mem k = readByte s.mem k

end Sys2Proof.Machine
end

