-- ==== Sys2Proof/Certificates/Slice0/Obligations.lean ====
section
/-! DEFINITION. The statements for the provers. The functions of Sys2Proof.Claims say, in the words of the spec, what a
group of instructions computes; each statement names its instructions through one of them. -/

namespace Sys2Proof.Claims
open Sys2Proof.Machine

/-! ### Scalar integer operations (06 R126 to R131) -/

/-- 06 R126: ExtendT of the low bits of a register. -/
def extend (t : Ty) (x : Word) : Word :=
  if tySigned t then (x.setWidth (tyWidth t)).signExtend 64 else (x.setWidth (tyWidth t)).setWidth 64

/-- 06 R126: a source as the number it stands for. -/
def number (t : Ty) (x : Word) : Int :=
  if tySigned t then (x.setWidth (tyWidth t)).toInt else ((x.setWidth (tyWidth t)).toNat : Int)

/-- 03 R65: the least and the greatest value of an integer type. -/
def least (t : Ty) : Int := if tySigned t then -(2 ^ (tyWidth t - 1) : Nat) else 0
def greatest (t : Ty) : Int := (2 ^ (if tySigned t then tyWidth t - 1 else tyWidth t) : Nat) - 1

/-- 04 R94: the steps of ModifyInt before the last. -/
def scaled (m : ModOp) (r : Int) : Int :=
  if m.scale.msb then r / (2 ^ (-m.scale.toInt).toNat : Nat) else r * (2 ^ m.scale.toNat : Nat)
def signed (m : ModOp) (r : Int) : Int :=
  let x := if m.abs then |r| else r
  if m.neg then -x else x
def clamped (m : ModOp) (r : Int) : Int :=
  let x := if m.clamp = 1 ∨ m.clamp = 2 then max r m.lo.toInt else r
  if m.clamp = 1 ∨ m.clamp = 3 then min x m.hi.toInt else x

/-- 06 R126, 04 R94: what the destination receives for an exact result. -/
def delivered (t : Ty) (md : Option ModOp) (r : Int) : Word :=
  match md with
  | none => extend t (BitVec.ofInt 64 r)
  | some m =>
    let x := clamped m (signed m (scaled m r))
    extend t (BitVec.ofInt 64 (if m.sat then min (greatest t) (max (least t) x) else x))

/-- 03 R77: quotient and remainder. -/
def quotient (t : Ty) (x y : Int) : Int :=
  if y = 0 then (if tySigned t then -1 else greatest t) else if x = least t ∧ y = -1 then x else Int.tdiv x y
def remainder (x y : Int) : Int := if y = 0 then x else Int.tmod x y

/-- 06 R130: Ext and Ins. -/
def field (a : Word) (pos len : Nat) (sg : Bool) : Int :=
  let v := (a >>> pos).toNat % 2 ^ len
  if sg ∧ 2 ^ (len - 1) ≤ v then (v : Int) - (2 ^ len : Nat) else v
def inserted (d a : Word) (pos len : Nat) : Word :=
  let m : Word := BitVec.ofNat 64 (2 ^ len - 1) <<< pos
  (d &&& ~~~m) ||| ((a <<< pos) &&& m)

/-- The zeros above the highest one of the low `w` bits. -/
def leadingZeros (w : Nat) (x : Word) : Nat := ((List.range w).reverse.takeWhile fun i => !x.getLsbD i).length
def ones (w : Nat) (x : Word) : Nat := ((List.range w).filter x.getLsbD).length

/-- What an S-slot integer operation does: its head, destination, type, bound and exact result (06 R128, R129, R131). -/
structure IntForm where
  h : Head
  d : BitVec 6
  ty : Ty
  bound : Nat
  exact : Int

/-- 06 R129: the register forms. -/
def intForm (s : State) (i : Instr) : Option IntForm :=
  let x := fun (h : Head) (f : F3) => number f.ty (s.readS h f.a 1)
  let y := fun (h : Head) (f : F3) => number f.ty (s.readS h f.b 2)
  let a := fun (h : Head) (f : F3) => s.readS h f.a 1
  let b := fun (h : Head) (f : F3) => s.readS h f.b 2
  let n := fun (h : Head) (f : F3) => (s.readS h f.b 2).toNat % 64
  let low := fun (h : Head) (f : F3) => (s.readS h f.a 1).setWidth (tyWidth f.ty)
  match i with
  | .add h f => some ⟨h, f.d, f.ty, 1, x h f + y h f⟩
  | .sub h f => some ⟨h, f.d, f.ty, 1, x h f - y h f⟩
  | .mul h f => some ⟨h, f.d, f.ty, 3, x h f * y h f⟩
  | .mulh h f => some ⟨h, f.d, f.ty, 3, x h f * y h f / (2 ^ 64 : Nat)⟩
  | .mulhn h f => some ⟨h, f.d, f.ty, 3, x h f * y h f / (2 ^ 64 : Nat)⟩
  | .div h f => some ⟨h, f.d, f.ty, 18, quotient f.ty (x h f) (y h f)⟩
  | .divn h f => some ⟨h, f.d, f.ty, 18, quotient f.ty (x h f) (y h f)⟩
  | .rem h f => some ⟨h, f.d, f.ty, 18, remainder (x h f) (y h f)⟩
  | .remn h f => some ⟨h, f.d, f.ty, 18, remainder (x h f) (y h f)⟩
  | .and h f => some ⟨h, f.d, f.ty, 1, number f.ty (a h f &&& b h f)⟩
  | .or h f => some ⟨h, f.d, f.ty, 1, number f.ty (a h f ||| b h f)⟩
  | .xor h f => some ⟨h, f.d, f.ty, 1, number f.ty (a h f ^^^ b h f)⟩
  | .andn h f => some ⟨h, f.d, f.ty, 1, number f.ty (a h f &&& ~~~b h f)⟩
  | .shl h f => some ⟨h, f.d, f.ty, 1, x h f * (2 ^ n h f : Nat)⟩
  | .shr h f => some ⟨h, f.d, f.ty, 1, ((low h f >>> n h f).toNat : Int)⟩
  | .sra h f => some ⟨h, f.d, f.ty, 1, (low h f).toInt / (2 ^ n h f : Nat)⟩
  | .rotl h f => some ⟨h, f.d, f.ty, 1, (((low h f).rotateLeft (n h f)).toNat : Int)⟩
  | .min h f => some ⟨h, f.d, f.ty, 1, min (x h f) (y h f)⟩
  | .max h f => some ⟨h, f.d, f.ty, 1, max (x h f) (y h f)⟩
  | .minn h f => some ⟨h, f.d, f.ty, 1, min (x h f) (y h f)⟩
  | .maxn h f => some ⟨h, f.d, f.ty, 1, max (x h f) (y h f)⟩
  | .clz h f => some ⟨h, f.d, f.ty, 1, leadingZeros (tyWidth f.ty) (a h f)⟩
  | .popc h f => some ⟨h, f.d, f.ty, 1, ones (tyWidth f.ty) (a h f)⟩
  | .sel h f => some ⟨h, f.d, f.ty, 1, if s.readP h f.sub 3 then x h f else y h f⟩
  | .ext h f =>
    some ⟨h, f.d, f.ty, 1, field (a h f) (n h f) (((b h f).extractLsb' 8 6).toNat + 1) (tySigned f.ty)⟩
  | .ins h f =>
    some ⟨h, f.d, 3, 1, (inserted (s.readS h f.d 0) (a h f) (n h f) (((b h f).extractLsb' 8 6).toNat + 1)).toInt⟩
  | .lea h f => some ⟨h, f.d, 3, 1, (a h f + b h f <<< f.sub.toNat).toInt⟩
  | _ => none

/-- 06 R131: the immediate forms, with the value that takes the place of the second source. -/
def immForm (s : State) (i : Instr) : Option IntForm :=
  let x := fun (h : Head) (f : FI) => (s.readS h f.a 1).toInt
  let u := fun (h : Head) (f : FI) => ((s.readS h f.a 1).toNat : Int)
  let a := fun (h : Head) (f : FI) => s.readS h f.a 1
  let n := fun (f : FI) => (f.imm.extractLsb' 0 6).toNat
  match i with
  | .addi h f => some ⟨h, f.d, 3, 1, x h f + f.imm.toInt⟩
  | .subi h f => some ⟨h, f.d, 3, 1, x h f - f.imm.toInt⟩
  | .muli h f => some ⟨h, f.d, 3, 3, x h f * f.imm.toInt⟩
  | .mulhi h f => some ⟨h, f.d, 3, 3, x h f * f.imm.toInt / (2 ^ 64 : Nat)⟩
  | .mulhni h f => some ⟨h, f.d, 7, 3, u h f * (f.imm.toNat : Int) / (2 ^ 64 : Nat)⟩
  | .divi h f => some ⟨h, f.d, 3, 18, quotient 3 (x h f) f.imm.toInt⟩
  | .divni h f => some ⟨h, f.d, 7, 18, quotient 7 (u h f) f.imm.toNat⟩
  | .remi h f => some ⟨h, f.d, 3, 18, remainder (x h f) f.imm.toInt⟩
  | .remni h f => some ⟨h, f.d, 7, 18, remainder (u h f) f.imm.toNat⟩
  | .andi h f => some ⟨h, f.d, 3, 1, (a h f &&& f.imm.signExtend 64).toInt⟩
  | .ori h f => some ⟨h, f.d, 3, 1, (a h f ||| f.imm.signExtend 64).toInt⟩
  | .xori h f => some ⟨h, f.d, 3, 1, (a h f ^^^ f.imm.signExtend 64).toInt⟩
  | .andni h f => some ⟨h, f.d, 3, 1, (a h f &&& ~~~f.imm.signExtend 64).toInt⟩
  | .shli h f => some ⟨h, f.d, 3, 1, x h f * (2 ^ n f : Nat)⟩
  | .shri h f => some ⟨h, f.d, 3, 1, ((a h f >>> n f).toNat : Int)⟩
  | .srai h f => some ⟨h, f.d, 3, 1, x h f / (2 ^ n f : Nat)⟩
  | .rotli h f => some ⟨h, f.d, 3, 1, (((a h f).rotateLeft (n f)).toNat : Int)⟩
  | .mini h f => some ⟨h, f.d, 3, 1, min (x h f) f.imm.toInt⟩
  | .maxi h f => some ⟨h, f.d, 3, 1, max (x h f) f.imm.toInt⟩
  | .minni h f => some ⟨h, f.d, 7, 1, min (u h f) f.imm.toNat⟩
  | .maxni h f => some ⟨h, f.d, 7, 1, max (u h f) f.imm.toNat⟩
  | .seli h f =>
    some ⟨h, f.d, 3, 1, if s.readP h (f.imm.extractLsb' 30 4) 3 then x h f else (f.imm.extractLsb' 0 30).toInt⟩
  | .exti h f =>
    let sg := f.imm.getLsbD 12
    some ⟨h, f.d, if sg then 3 else 7, 1, field (a h f) (n f) ((f.imm.extractLsb' 6 6).toNat + 1) sg⟩
  | .insi h f =>
    some ⟨h, f.d, 3, 1, (inserted (s.readS h f.d 0) (a h f) (n f) ((f.imm.extractLsb' 6 6).toNat + 1)).toInt⟩
  | .leai h f =>
    some ⟨h, f.d, 3, 1, (a h f + ((f.imm.extractLsb' 0 30).signExtend 64) <<< (f.imm.extractLsb' 30 4).toNat).toInt⟩
  | _ => none

end Sys2Proof.Claims

open Sys2Proof Sys2Proof.Machine Sys2Proof.Claims

/-- 06 R126, R128, R129, R131 and 04 R94: in every legal type and under every modifier, an integer operation of the S slot, in
its register or its immediate form, that executes sends ExtendT of its wrapped or modified exact result to its destination,
at its bound; nothing else of the state changes. -/
def Obligations.IntegerFormsDeliverTheirExactResult : Prop :=
  (∀ (s : State) (i : Instr) (o : IntForm), intForm s i = some o → i.fieldsOk = true → opRuns s o.h = true →
    exec i s = .next (s.writeS o.d (delivered o.ty o.h.md o.exact) o.bound 0)) ∧
  (∀ (s : State) (i : Instr) (o : IntForm), immForm s i = some o → i.fieldsOk = true → opRuns s o.h = true →
    exec i s = .next (s.writeS o.d (delivered o.ty o.h.md o.exact) o.bound 0))

namespace Sys2Proof.Claims
open Sys2Proof.Machine
/-! ### Moves, compares, predicates and floating point (06 R132 to R138) -/

/-- 06 R133: a condition on two integers, and on two floating-point values. -/
def intHolds (c : Nat) (x y : Int) (both : Bool) : Prop :=
  match c with
  | 0 => x = y
  | 1 => x ≠ y
  | 2 => x < y
  | 3 => x ≤ y
  | 4 => x > y
  | 5 => x ≥ y
  | _ => both = true

/-- 06 R138, 03 R66 to R69: a value rounded once in FMT.RND, through the modifier, as a register shows it. -/
def rounded (s : State) (h : Head) (t : Ty) (x : FVal × Flags) : Word × Flags :=
  let r := fltOut t (ctlS s h) x
  (BitVec.ofNat 64 r.1, r.2)

/-- 06 R138: the scalar floating-point operations: head, destination, bound, result and flags. -/
def fltForm (s : State) (i : Instr) : Option (Head × BitVec 6 × Nat × Word × Flags) :=
  let a := fun (h : Head) (f : F3) => decodeF f.ty (s.readS h f.a 1).toNat
  let b := fun (h : Head) (f : F3) => decodeF f.ty (s.readS h f.b 2).toNat
  let m := fun (h : Head) => (ctlS s h).rnd
  match i with
  | .fadd h f => some (h, f.d, 4, rounded s h f.ty (fltAdd (m h) (a h f) (b h f)))
  | .fsub h f => some (h, f.d, 4, rounded s h f.ty (fltAdd (m h) (a h f) (b h f).negate))
  | .fmul h f => some (h, f.d, 4, rounded s h f.ty (fltMul (a h f) (b h f)))
  | .fma h f =>
    some (h, f.d, 4, rounded s h f.ty (fltFma (m h) (decodeF f.ty (s.readS h f.a 1).toNat)
      (decodeF f.ty (s.readS h f.b 2).toNat) (decodeF f.ty (s.readS h f.c 3).toNat)))
  | .fmin h f => some (h, f.d, 4, rounded s h f.ty (fltMin (a h f) (b h f)))
  | .fmax h f => some (h, f.d, 4, rounded s h f.ty (fltMax (a h f) (b h f)))
  | .fdiv h f => some (h, f.d, 12, rounded s h f.ty (fltDiv (a h f) (b h f)))
  | .fcvt h f =>
    let r := convert f.ty f.sub (ctlS s h).rnd (ctlS s h).e4ovf h.md (s.readS h f.a 1).toNat
    some (h, f.d, 4, if tyIsFloat f.ty then BitVec.ofNat 64 r.1 else BitVec.ofInt 64 (intOf f.ty r.1), r.2)
  | _ => none

end Sys2Proof.Claims

open Sys2Proof Sys2Proof.Machine Sys2Proof.Claims

/-- 06 R131 to R137: MOVI, MOVHI and MOV write their constant or source; CMP, CMPI, FCMP and PLOG write their predicates;
NOT c stands last where pC is pD. -/
def Obligations.MovesAndComparesWriteTheirDestinations : Prop :=
  (∀ (s : State) (h : Head), opRuns s h = true →
    (∀ f : FL, exec (.movi h f) s = .next (s.writeS f.d (BitVec.ofInt 64 f.imm.toInt) 1 0)) ∧
    (∀ f : FL, f.imm.toNat < 2 ^ 24 → exec (.movhi h f) s =
      .next (s.writeS f.d (BitVec.ofNat 64 (f.imm.toNat * 2 ^ 40 + (s.readS h f.d 0).toNat % 2 ^ 40)) 1 0)) ∧
    (∀ f : FL, (Instr.movhi h f).fieldsOk = true → f.imm.toNat < 2 ^ 24) ∧
    (∀ f : F3, exec (.mov h f) s = .next (s.writeS f.d (s.readS h f.a 1) 1 0)) ∧
    (∀ f : F3, (Instr.mov h f).fieldsOk = true → f.b = 0 ∧ f.ty = 0 ∧ f.sub = 0)) ∧
  (∀ (s : State) (h : Head), opRuns s h = true →
    (∀ f : F4, (Instr.cmp h f).fieldsOk = true → ∃ c : Bool,
      (c = true ↔ intHolds f.sub.toNat (number f.ty (s.readS h f.a 1)) (number f.ty (s.readS h f.b 2))
        ((s.readS h f.a 1 &&& s.readS h f.b 2).toNat % 2 ^ tyWidth f.ty != 0)) ∧
      exec (.cmp h f) s = .next ((s.writeP (f.d.setWidth 4) c 1 0).writeP (f.c.setWidth 4) (!c) 1 0)) ∧
    (∀ f : FI, (Instr.cmpi h f).fieldsOk = true →
      let t : Ty := if f.imm.getLsbD 26 then 7 else 3
      let y : Word := (f.imm.extractLsb' 0 26).signExtend 64
      ∃ c : Bool,
        (c = true ↔ intHolds (f.imm.extractLsb' 27 3).toNat (number t (s.readS h f.a 1)) (number t y)
          (s.readS h f.a 1 &&& y != 0)) ∧
        exec (.cmpi h f) s = .next ((s.writeP (f.d.setWidth 4) c 1 0).writeP (f.imm.extractLsb' 30 4) (!c) 1 0)) ∧
    (∀ f : F4, (Instr.fcmp h f).fieldsOk = true →
      let a := decodeF f.ty (s.readS h f.a 1).toNat
      let b := decodeF f.ty (s.readS h f.b 2).toNat
      let nan := a.isNaN || b.isNaN
      let c := match f.sub.toNat with
        | 0 => fltEq a b
        | 1 => !fltEq a b
        | 2 => fltLt a b
        | 3 => fltLt a b || fltEq a b
        | 4 => fltLt b a
        | 5 => fltLt b a || fltEq a b
        | _ => nan
      let fl := if decide (2 ≤ f.sub.toNat) && decide (f.sub.toNat ≤ 5) then (if nan then fNV else 0) else a.sigFlag ||| b.sigFlag
      exec (.fcmp h f) s = .next ((s.writeP (f.d.setWidth 4) c 4 fl).writeP (f.c.setWidth 4) (!c) 4 0)) ∧
    (∀ f : F3, exec (.plog h f) s =
      let k := (if s.readP h (f.a.setWidth 4) 1 then 2 else 0) + if s.readP h (f.b.setWidth 4) 2 then 1 else 0
      .next (s.writeP (f.d.setWidth 4) (f.sub.getLsbD k) 1 0)))

/-- 06 R138, R127: a scalar floating-point operation that executes rounds its exact result once, writes it to the low
bits of its destination with zeros above, and raises its flags with it. -/
def Obligations.ScalarFloatingPointFormsRoundOnce : Prop :=
  ∀ (s : State) (i : Instr) (h : Head) (d : BitVec 6) (n : Nat) (w : Word) (fl : Flags),
    fltForm s i = some (h, d, n, w, fl) → i.fieldsOk = true → opRuns s h = true →
      exec i s = .next (s.writeS d w n fl)

/-- 03 R69, R70: a NaN operand of FADD, FSUB, FMUL, FMA, FDIV, FMIN and FMAX gives the canonical NaN of the type,
modifier or not. -/
def Obligations.NaNOperandsGiveTheCanonicalNaN : Prop :=
  ∀ (t : Ty) (c : Ctl) (x y z : Nat), t = 8 ∨ t = 9 ∨ t = 10 →
    ((decodeF t x).isNaN = true ∨ (decodeF t y).isNaN = true →
      (laneAdd t c x y).1 = canonNaN t ∧ (laneSub t c x y).1 = canonNaN t ∧ (laneMul t c x y).1 = canonNaN t ∧
      (fltOut t c (fltDiv (decodeF t x) (decodeF t y))).1 = canonNaN t ∧
      (laneMin t c x y).1 = canonNaN t ∧ (laneMax t c x y).1 = canonNaN t) ∧
    ((decodeF t x).isNaN = true ∨ (decodeF t y).isNaN = true ∨ (decodeF t z).isNaN = true →
      (laneFma t c x y z).1 = canonNaN t)

namespace Sys2Proof.Claims
open Sys2Proof.Machine

/-! ### What a register operation leaves unchanged -/

/-- The register operations of the S and V slots with what each may write: a scalar, predicates, masks, a vector
register, or the pushes of an operand queue. -/
def registerOp (i : Instr) : Option (Head × List Reg × List (BitVec 2)) :=
  match i with
  | .add h f | .sub h f | .mul h f | .mulh h f | .mulhn h f | .div h f | .divn h f | .rem h f | .remn h f | .and h f
  | .or h f | .xor h f | .andn h f | .shl h f | .shr h f | .sra h f | .rotl h f | .min h f | .max h f | .minn h f
  | .maxn h f | .clz h f | .popc h f | .sel h f | .ext h f | .ins h f | .lea h f | .mov h f | .fadd h f | .fsub h f
  | .fmul h f | .fmin h f | .fmax h f | .fdiv h f | .fcvt h f | .getg h f | .time h f => some (h, [.s f.d], [])
  | .addi h f | .subi h f | .muli h f | .mulhi h f | .mulhni h f | .divi h f | .divni h f | .remi h f | .remni h f
  | .andi h f | .ori h f | .xori h f | .andni h f | .shli h f | .shri h f | .srai h f | .rotli h f | .mini h f
  | .maxi h f | .minni h f | .maxni h f | .seli h f | .exti h f | .insi h f | .leai h f => some (h, [.s f.d], [])
  | .movi h f | .movhi h f => some (h, [.s f.d], [])
  | .fma h f | .vkmovTos h f | .vgetl h f => some (h, [.s f.d], [])
  | .cmp h f | .fcmp h f => some (h, [.p (f.d.setWidth 4), .p (f.c.setWidth 4)], [])
  | .cmpi h f => some (h, [.p (f.d.setWidth 4), .p (f.imm.extractLsb' 30 4)], [])
  | .plog h f => some (h, [.p (f.d.setWidth 4)], [])
  | .pbr h f => some (h, [.b (f.d.setWidth 2)], [])
  | .pbri h f => some (h, [.b (f.d.setWidth 2)], [])
  | .setlc h f => some (h, [.lcnt (f.d.setWidth 3)], [])
  | .setg h f => some (h, [.g (f.d.setWidth 3) (f.sub.setWidth 3)], [])
  | .vkop h f | .vkmovAny h f | .vkmovAll h f | .vkmovFroms h f => some (h, [.k (f.d.setWidth 3)], [])
  | .vtopk h f | .vmergek h f => some (h, [.v (f.d.setWidth 5), .v (f.d.setWidth 5 + 1)], [])
  | .vadd h f | .vsub h f | .vmul h f | .vfma h f | .vmin h f | .vmax h f | .vand h f | .vor h f | .vxor h f | .vshl h f
  | .vshr h f | .vsra h f | .vcmp h f | .vsel h f | .vmov h f | .vbcast h f | .viota h f | .vcvt h f | .vperm h f
  | .vslide h f | .vdot4 h f | .vexp2 h f | .vlog2 h f | .vrcp h f | .vrsq h f | .vdiv h f | .vsqrt h f | .vred h f
  | .vscan h f | .vamax h f | .vquant h f | .vcmpr h f | .vdesc h f | .vrand h f | .vkmovTov h f | .vsetl h f =>
    some (h, if f.d.toNat < 32 then [.v (f.d.setWidth 5)] else [], if f.d.toNat < 32 then [] else [f.d.setWidth 2])
  | _ => none

/-- A core without its contexts. -/
def apart (k : Core) : Core := { k with ctx := Vector.replicate 4 Ctx.idle }

/-- Everything but the current context is unchanged, and every byte of memory reads as before. -/
def OthersKept (s t : State) : Prop :=
  (∀ a, readByte t.mem a = readByte s.mem a) ∧ t.poison = s.poison ∧ t.races = s.races ∧ t.reqs = s.reqs ∧
  t.arrivals = s.arrivals ∧ t.streams = s.streams ∧ t.packets = s.packets ∧ t.outbox = s.outbox ∧ t.dies = s.dies ∧
  t.fns = s.fns ∧ t.island = s.island ∧ t.torusIn = s.torusIn ∧ t.mgmt = s.mgmt ∧ t.time = s.time ∧ t.coord = s.coord ∧ t.inputs = s.inputs ∧ t.cur = s.cur ∧
  (∀ c x, ¬(c = s.cur.core ∧ x = s.cur.ctx) → t.ctx c x = s.ctx c x) ∧ (∀ c, apart (t.core c) = apart (s.core c))

/-- The current context has new results in flight, of these registers and pushes, and is unchanged otherwise: every
register holds what it held, every queue its entries, the program counter and the flags their values. -/
def OnlyResults (regs : List Reg) (pushes : List (BitVec 2)) (s t : State) : Prop :=
  ∃ (l : List Pend) (q : Vector OpQueue 4) (w : List Wrote),
    t.cx = { s.cx with pend := s.cx.pend ++ l, q := q, wrote := w } ∧
    (∀ p ∈ l, p.reg = .none ∨ p.reg ∈ regs ∨ ∃ n id, n ∈ pushes ∧ p.reg = .q n id) ∧
    (∀ n : Fin 4, q[n].head = (s.cx.q[n]).head ∧
      ∃ e, q[n].ents = (s.cx.q[n]).ents ++ e ∧ (BitVec.ofFin n ∉ pushes → e = []))

end Sys2Proof.Claims

open Sys2Proof Sys2Proof.Machine Sys2Proof.Claims

/-- 04 R91: an operation of any slot whose guard is false or whose iteration condition fails has no effect of any kind;
without an iteration condition the guard alone decides, which is GPRED, inverted when GNEG is 1; `(!p0)` is never true. -/
def Obligations.GuardedOffOperationHasNoEffect : Prop :=
  (∀ (s : State) (i : Instr) (v : SlotView), slotView i = some v → opRuns s v.h = false → exec i s = .next s) ∧
  (∀ (s : State) (h : Head), s.cx.iterates s.cur.acc h.iter = false → opRuns s h = false) ∧
  (∀ (s : State) (h : Head), h.iter = 0 → (opRuns s h = true ↔ (s.readP h h.gpred 15 = true ↔ h.gneg = 0))) ∧
  (∀ (s : State) (h : Head), h.gneg = 1 → h.gpred = 0 → opRuns s h = false)

/-- The frame of the operations of the S and V slots that only write registers (02 R45, 04 R91, R92, 06 R126, 07 R157):
whether it executes or not, an operation leaves memory, requests, every other context and everything else of the state as
it was; of its own context every register, flag and queue entry and the program counter keep their values, and only
results of its destination registers, with their flags, and entries of the queues that it pushes are added. -/
def Obligations.RegisterOperationsKeepEverythingElse : Prop :=
  ∀ (s t : State) (i : Instr) (h : Head) (regs : List Reg) (pushes : List (BitVec 2)),
    registerOp i = some (h, regs, pushes) → i.fieldsOk = true → exec i s = .next t → OthersKept s t ∧ OnlyResults regs pushes s t

/-- 01 R24, R25, 04 R100 to R102: a scalar result is read from its bound on; of two results of one register the later one
stays, also where the earlier is scoreboarded and returns after the bound of the later. -/
def Obligations.ResultsLandAtTheirBoundTheLaterLast : Prop :=
  (∀ (c : Ctx) (d : BitVec 6) (w : Word) (n : Nat) (fl : Flags) (k seq : Nat),
    c.nest.active = false → (∀ p ∈ c.pend, p.reg ≠ .s d) →
    let r := c.addResult false (.s d) (w.setWidth 2048) allBits n fl seq
    let u : Ctx := { r with issueX := r.issueX + k }
    (d = 0 → u.early false (.s d) = false ∧ u.settled false (.s d) = 0) ∧
    (d ≠ 0 → k = 0 → u.early false (.s d) = false ∧ u.settled false (.s d) = c.getReg (.s d)) ∧
    (d ≠ 0 → 0 < k → k < n → u.early false (.s d) = true) ∧
    (d ≠ 0 → 0 < k → n ≤ k → u.early false (.s d) = false ∧ (u.settled false (.s d)).setWidth 64 = w)) ∧
  (∀ (c : Ctx) (acc : Bool) (d : BitVec 6) (v w : Word) (m n i j : Nat) (f g : Flags), d ≠ 0 →
    (∀ e ∈ c.score, e.reg ≠ .s d) →
    let u := ((c.addResult acc (.s d) (v.setWidth 2048) allBits m f i).addResult acc (.s d) (w.setWidth 2048) allBits n g j).landAll
    (u.getReg (.s d)).setWidth 64 = w ∧ f &&& ~~~u.sticky = 0 ∧ g &&& ~~~u.sticky = 0 ∧ (c.score = [] → u.pend = [])) ∧
  (∀ (c : Ctx) (d : BitVec 6) (v w : Word) (n id seq : Nat) (fl : Flags), d ≠ 0 → c.pend = [] → c.score = [⟨id, .s d⟩] →
    let r := (c.addResult false (.s d) (w.setWidth 2048) allBits n fl seq).landAll
    let u := (r.landScore id (.s d) (v.setWidth 2048) allBits).landAll
    (id < seq → r.getReg (.s d) = c.getReg (.s d) ∧ (u.getReg (.s d)).setWidth 64 = w) ∧
    (seq ≤ id → (r.getReg (.s d)).setWidth 64 = w ∧ (u.getReg (.s d)).setWidth 64 = v))

namespace Sys2Proof.Claims
open Sys2Proof.Machine

/-- The bundle being issued has been noted to do something at its end; nothing else has changed. -/
def NotedOnly (s t : State) : Prop := ({ t with issue := s.issue } : State) = s

/-- The state right after an operation that has answered one. -/
def answers (i : Instr) (s : State) (p : State → Prop) : Prop := ∃ t, exec i s = .next t ∧ p t

/-- 01 R25: a context whose execute or only slice has issued one bundle more: the results that are due have landed. -/
def issued (c : Ctx) : Ctx := ({ c with issueX := c.issueX + 1 } : Ctx).landDue false

/-- 01 R26: `t` is the tuple of indices after `i`: the fastest level that is not at its last value goes on, and those below
it start again. -/
def Follows (n : Nest) (i t : Vector (BitVec 32) 6) : Prop :=
  ∃ l, l ≤ n.depth.toNat ∧ l < 6 ∧ (∀ m, m < l → i.getD m 0 + 1 = n.count.getD m 0) ∧ i.getD l 0 + 1 ≠ n.count.getD l 0 ∧
    ∀ j, j < 6 → t.getD j 0 = if j < l then 0 else if j = l then i.getD j 0 + 1 else i.getD j 0

/-- 01 R26: every level of the nest is at its last value. -/
def LastTuple (n : Nest) (i : Vector (BitVec 32) 6) : Prop := ∀ l, l ≤ n.depth.toNat → i.getD l 0 + 1 = n.count.getD l 0

/-- 11 R281: what taking a trap leaves besides the context that takes it, whatever the cause: the other contexts, all of the
core but the standing flag waits of the context that end and what they give back (R275), and everything outside the cores but
the counter of race traps (20 R434). -/
def TrapFrame (s t : State) (code : BitVec 9) : Prop :=
  (∀ c x, ¬(c = s.cur.core ∧ x = s.cur.ctx) → t.ctx c x = s.ctx c x) ∧
  (∀ c, ({ apart (t.core c) with f := (s.core c).f, fwaits := (s.core c).fwaits } : Core) = apart (s.core c)) ∧
  (∀ c, c ≠ s.cur.core → t.core c = s.core c) ∧
  (∀ d, ({ t.die d with telem := (s.die d).telem } : Die) = s.die d ∧
    ∀ n, n ≠ 26 → (t.die d).telem.getD n 0 = (s.die d).telem.getD n 0) ∧
  (code ≠ 0x006 → code ≠ 0x113 → t.dies = s.dies) ∧
  ({ t with cores := s.cores, issue := s.issue, dies := s.dies } : State) = s

/-- 02 R46: the six scalars that have a shadow. -/
def banked (c : Ctx) : List Word := (List.range 6).map fun i => c.s.getD (56 + i) 0

end Sys2Proof.Claims

open Sys2Proof Sys2Proof.Machine Sys2Proof.Claims

/-- 06 R140: PBR and PBRI write their branch target; BR, CALL and RET note where fetch goes on, and CALL writes the link
register; the notes take effect as the bundle retires. -/
def Obligations.BranchOperationsSetTheirTargets : Prop :=
  ∀ (s : State) (h : Head), opRuns s h = true →
    (∀ f : FI, exec (.pbr h f) s = .next (s.result (.b (f.d.setWidth 2))
      ((s.cur.pc + BitVec.ofInt 64 (64 * f.imm.toInt) &&& ~~~63#64).setWidth 2048) allBits 1 0)) ∧
    (∀ f : F3, exec (.pbri h f) s = .next (s.result (.b (f.d.setWidth 2))
      ((s.readS h f.a 1 &&& ~~~63#64).setWidth 2048) allBits 1 0)) ∧
    (∀ f : F3, nestBad s (.br h f) = false → answers (.br h f) s fun t =>
      t.iss.branch = some (s.readB h (f.a.setWidth 2) 1) ∧ NotedOnly s t) ∧
    (∀ f : F3, nestBad s (.call h f) = false → answers (.call h f) s fun t =>
      t.iss.branch = some (s.readB h (f.a.setWidth 2) 1) ∧ NotedOnly (s.writeS 62 (s.cur.pc + 64) 1 0) t) ∧
    (∀ f : F3, nestBad s (.ret h f) = false → answers (.ret h f) s fun t =>
      t.iss.branch = some (s.readS h 62 1 &&& ~~~63#64) ∧ NotedOnly s t)

/-- 04 R103, 01 R26, R27, R30, R33, 06 R141 to R143: where a slice goes on when its bundle retires. The execute or only slice
goes to the target of a taken branch, which ends a nest that is not decoupled; past the body of a nest that LOOPBRK ends, or
whose LOOP latches a count of 0; into the body of a nest that LOOP starts. In a body it goes to the next bundle, to the next
tuple of indices, and after the last tuple past the body, where LIDX reads 0; outside one, to the next bundle. The access slice
of a decoupled nest walks the body with its own indices until it is done, and the nest ends when both slices are. -/
def Obligations.RetirementGoesWhereTheBundleSays : Prop :=
  (∀ (c : Ctx) (i : Issue), i.stay = false →
    (∀ t, i.loop = none → i.branch = some t →
      (c.retireX i).pc = t ∧ (c.retireX i).nest.active = c.decoupled ∧ (c.decoupled = true → (c.retireX i).nest = c.nest)) ∧
    (i.loop = none → i.branch = none → i.loopBrk = true → c.inNest false = true →
      (c.retireX i).pc = c.nest.body + 64 * (c.nest.len.setWidth 64 + 1) ∧
      (c.nest.dec = false → (c.retireX i).nest.active = false ∧ (c.retireX i).nest.xidx = c.nest.xidx) ∧
      (c.nest.dec = true → (c.retireX i).nest = { c.nest with xdone := true })) ∧
    (∀ imm : BitVec 40, i.loop = some imm →
      let depth := (imm.extractLsb' 6 3).toNat + 1
      let len := (imm.extractLsb' 0 6).toNat + 1
      ((∃ l, l < depth ∧ (issued c).lcnt.getD l 0 = 0) → (c.retireX i).pc = i.env.pc + BitVec.ofNat 64 (64 * (len + 1))) ∧
      ((imm.extractLsb' 6 3).toNat ≤ 5 → (∀ l, l < depth → (issued c).lcnt.getD l 0 ≠ 0) →
        let n := (c.retireX i).nest
        (c.retireX i).pc = i.env.pc + 64 ∧ n.active = true ∧ n.body = i.env.pc + 64 ∧ n.dec = imm.getLsbD 9 ∧
        n.depth.toNat + 1 = depth ∧ n.len.toNat + 1 = len ∧ n.xidx = Vector.replicate 6 0 ∧
        ∀ l, l < depth → n.count.getD l 0 = (issued c).lcnt.getD l 0)) ∧
    (i.loop = none → i.branch = none → c.inNest false = false → (c.retireX i).pc = c.pc + 64 ∧ (c.retireX i).nest = c.nest) ∧
    (i.loop = none → i.branch = none → i.loopBrk = false → c.inNest false = true →
      let n := c.nest
      let u := c.retireX i
      (n.xpos ≠ n.len → u.pc = c.pc ∧ u.nest = { n with xpos := n.xpos + 1 }) ∧
      (n.xpos = n.len → n.depth.toNat ≤ 5 → ¬LastTuple n n.xidx →
        u.pc = c.pc ∧ ∃ t, Follows n n.xidx t ∧ u.nest = { n with xpos := 0, xidx := t }) ∧
      (n.xpos = n.len → LastTuple n n.xidx →
        u.pc = n.body + 64 * (n.len.setWidth 64 + 1) ∧ (c.susp = none → ∀ l, u.lidx false l = 0) ∧
        (n.dec = false → u.nest.active = false) ∧
        (n.dec = true → u.nest = { n with xdone := true, xidx := Vector.replicate 6 0 })))) ∧
  (∀ c : Ctx, c.nest.dec = true → c.inNest true = true →
    let n := c.nest
    let u := c.retireA false
    u.pc = c.pc ∧ u.issueX = c.issueX ∧ u.issueA = c.issueA + 1 ∧
    (n.apos ≠ n.len → u.nest = { n with apos := n.apos + 1 }) ∧
    (n.apos = n.len → n.depth.toNat ≤ 5 → ¬LastTuple n n.aidx →
      ∃ t, Follows n n.aidx t ∧ u.nest = { n with apos := 0, aidx := t }) ∧
    (n.apos = n.len → LastTuple n n.aidx → u.nest = { n with adone := true })) ∧
  (∀ c : Ctx,
    (c.decoupled = true → c.nest.adone = true → c.nest.xdone = true →
      c.joinNest.nest.active = false ∧ c.joinNest.nest.xidx = c.nest.xidx ∧ c.joinNest.pc = c.pc) ∧
    (¬(c.decoupled = true ∧ c.nest.adone = true ∧ c.nest.xdone = true) → c.joinNest = c))

/-- 04 R90, 06 R142 to R146, R148 to R150, R152 to R155: an empty bundle does nothing; the loop and system instructions,
outside the traps they may raise. SAFEPT, RFT, HALT, YIELD, LOOP and LOOPBRK act at the end of their bundle and are noted
for it. -/
def Obligations.SystemInstructionsHaveTheirEffect : Prop :=
  ∀ (s : State) (h : Head), opRuns s h = true →
    (∀ f : FL, opCause (.loop h f) s = none → answers (.loop h f) s fun t => t.iss.loop = some f.imm ∧ NotedOnly s t) ∧
    (∀ f : F3, opCause (.loopbrk h f) s = none → answers (.loopbrk h f) s fun t => t.iss.loopBrk = true ∧ NotedOnly s t) ∧
    (∀ f : FI, exec (.setlc h f) s = .next (s.result (.lcnt (f.d.setWidth 3))
      ((s.readS h f.a 1 + f.imm.signExtend 64).setWidth 2048) allBits 1 0)) ∧
    (∀ f : F3, exec (.setg h f) s = .next (s.result (.g (f.d.setWidth 3) (f.sub.setWidth 3))
      ((s.readS h f.a 1).setWidth 2048) allBits 1 0)) ∧
    (∀ f : F3, exec (.getg h f) s = .next (s.writeS f.d
      (let v := s.readReg (.g (f.a.setWidth 3) (f.sub.setWidth 3)) (saltOf s h.slot 1)
       if f.sub = 0 then v.setWidth 64 else BitVec.ofInt 64 (v.setWidth 32).toInt) 1 0)) ∧
    (∀ f : FI, f.imm.toNat ≠ 0x45 → exec (.getsr h f) s = .next (s.writeS f.d (sysRead s h f.imm.toNat) 1 0)) ∧
    (∀ f : FI, f.imm.toNat = 0x45 →
      let u := s.modCx Ctx.flushFlags
      exec (.getsr h f) s = .next (u.writeS f.d (sysRead u h 0x45) 1 0)) ∧
    (∀ f : FI, opCause (.setsr h f) s = none → f.imm.toNat ≠ 0x45 → f.imm.toNat ≠ 0x40 →
      exec (.setsr h f) s = .next (s.result (sysReg f.imm.toNat) ((s.readS h f.a 1).setWidth 2048) allBits 1 0)) ∧
    (∀ f : FI, opCause (.setsr h f) s = none → f.imm.toNat = 0x45 →
      exec (.setsr h f) s = .next ((s.modCx Ctx.flushFlags).result (.sr 0x45) ((s.readS h f.a 1).setWidth 2048) allBits 1 0)) ∧
    (∀ f : FI, opCause (.setsr h f) s = none → f.imm.toNat = 0x40 →
      exec (.setsr h f) s = .next ((s.modCx Ctx.shadowFmt).result (.sr 0x40) ((s.readS h f.a 1).setWidth 2048) allBits 1 0)) ∧
    (∀ f : FL, opCause (.setfmt h f) s = none →
      exec (.setfmt h f) s = .next ((s.modCx Ctx.shadowFmt).result (.sr 0x40) ((f.imm.setWidth 64).setWidth 2048) allBits 1 0)) ∧
    (∀ f : F3, opCause (.setx h f) s = none → exec (.setx h f) s = .next (s.result (.x (f.d.setWidth 2))
      ((s.readS h f.b 2 ++ s.readS h f.a 1).setWidth 2048) allBits 1 0)) ∧
    (∀ f : F3, opCause (.safept h f) s = none → s.cx.hmode = false →
      answers (.safept h f) s fun t => t.iss.safept = true ∧ NotedOnly s t) ∧
    (∀ f : F3, opCause (.safept h f) s = none → s.cx.hmode = true → exec (.safept h f) s = .next s) ∧
    (∀ f : F3, s.cx.hmode = true → answers (.rft h f) s fun t => t.iss.rft = true ∧ NotedOnly s t) ∧
    (∀ f : F3, opCause (.halt h f) s = none → answers (.halt h f) s fun t => t.iss.halt = true ∧ NotedOnly s t) ∧
    (∀ f : F3, answers (.yield h f) s fun t => t.iss.yield = true ∧ NotedOnly s t) ∧
    (∀ f : F3, exec (.time h f) s = .next (s.writeS f.d (BitVec.ofNat 64 s.time) 1 0)) ∧
    exec .nop s = .next s

/-- 06 R151: a TRAP that executes takes the software trap. 11 R273, 02 R52, 06 R146, R152: SETSR to a read-only register,
SETSR to an RH register outside handler mode and RFT outside handler mode take the privilege trap with DETAIL 4, 5 and 6
and, for SETSR, the register's number. -/
def Obligations.SoftwareAndPrivilegeTrapsAreTaken : Prop :=
  (∀ (s : State) (h : Head) (f : FI), opRuns s h = true → s.cx.hmode = false →
    answers (.trap h f) s fun t =>
      t.cx.tcause = 7 ∧ t.cx.tpc = s.cur.pc ∧ t.cx.tslot = 0 ∧ t.cx.tinfo = f.imm.setWidth 64 ∧ t.cx.hmode = true ∧
      t.cx.pc = s.cx.landAll.tvec ∧ ∀ a, readByte t.mem a = readByte s.mem a) ∧
  (∀ (s : State) (h : Head), opRuns s h = true → s.cx.hmode = false →
    (∀ f : FI, sysListed f.imm.toNat = true → f.imm.toNat ≠ 0x40 → (sysRO f.imm.toNat = true ∨ sysRH f.imm.toNat = true) →
      answers (.setsr h f) s fun t => t.cx.tcause = 3 ∧ t.cx.tpc = s.cur.pc ∧ t.cx.tslot = h.slot.setWidth 64 ∧
        t.cx.tinfo = BitVec.ofNat 64 (f.imm.toNat * 256 + if sysRO f.imm.toNat then 4 else 5) ∧ t.cx.hmode = true ∧
        t.cx.pc = s.cx.landAll.tvec) ∧
    (∀ f : F3, answers (.rft h f) s fun t => t.cx.tcause = 3 ∧ t.cx.tpc = s.cur.pc ∧ t.cx.tslot = h.slot.setWidth 64 ∧
      t.cx.tinfo = 6 ∧ t.cx.hmode = true ∧ t.cx.pc = s.cx.landAll.tvec))

/-- 11 R281 with R272, 02 R46, R54, R56: what taking a trap outside handler mode leaves: results have landed, but for one
that an earlier scoreboarded result of its register holds back (04 R102), a shadow of FMT has ended, the trap registers
hold the cause, a nest is suspended, the banks have changed places and fetch goes on at TVEC; whatever the cause, memory,
every other context and everything else stays as it was. 11 R283, R294, R295, 17 R376: a trap in handler mode kills the
context's stream with reason 1: its contexts leave, none takes the trap, and the record of the kill holds the trap registers of
the context as the trap before left them. Its park records go from the firmware's buckets; no other byte of memory changes. -/
def Obligations.TrapsAreTakenOrKillTheStream : Prop :=
  (∀ (s : State) (k : Cause) (tpc : Word), s.cx.hmode = false →
    let t := s.takeTrap k tpc
    (∀ p ∈ t.cx.pend, s.cx.heldBack p = true) ∧ t.cx.tcause = k.code.setWidth 64 ∧ t.cx.tpc = tpc ∧ t.cx.tslot = k.slot.setWidth 64 ∧
    t.cx.taddr = k.addr ∧ t.cx.tinfo = k.info ∧ t.cx.hmode = true ∧ t.cx.pc = s.cx.landAll.tvec ∧
    t.cx.susp = (if s.cx.nest.active then some s.cx.nest else none) ∧ t.cx.nest.active = false ∧
    t.cx.dnest = s.cx.decoupled ∧ t.cx.aslice = (s.cur.acc && s.cx.decoupled) ∧
    banked t.cx = s.cx.landAll.shadow.toList ∧ t.cx.shadow.toList = banked s.cx.landAll ∧
    (∀ r, r ≠ .none → (∀ n, n < 6 → r ≠ .s (BitVec.ofNat 6 (56 + n))) → (∀ n, r ≠ .sr n) →
      t.cx.getReg r = s.cx.landAll.getReg r) ∧
    t.cx.q = s.cx.landAll.q ∧ t.cx.score = s.cx.score ∧ t.cx.issueX = s.cx.issueX ∧ (∀ acc, t.cx.fmtNow acc = t.cx.fmt) ∧
    t.cx.waitX = .none ∧ t.cx.waitA = .none ∧ t.cx.suspX = s.cx.waitX ∧ t.cx.suspA = s.cx.waitA ∧
    (∀ a, readByte t.mem a = readByte s.mem a) ∧ t.iss.void = true ∧ TrapFrame s t k.code) ∧
  (∀ (s : State) (k : Cause) (tpc : Word), s.cx.hmode = true → (s.streams.any fun x => x.key == s.cx.stream) = true →
    (s.stream s.cx.stream).kill = none →
    let t := s.takeTrap k tpc
    (t.stream s.cx.stream).kill = some 1 ∧
    (t.stream s.cx.stream).regs = ⟨#[s.cx.tcause, s.cx.tpc, s.cx.taddr, s.cx.tinfo], rfl⟩ ∧
    ((s.cur.core, s.cur.ctx) ∈ s.ctxsOf s.cx.stream → t.cx.life = .leaving) ∧ s.KeepsData t)

/-- 11 R284, 06 R152: leaving a handler that no nest is suspended under: the banks change places, handler mode is clear
and the context goes on at TPC; with DNEST clear a suspended nest is discarded and the indices stay; with DNEST set and TPC
in the body, the slice that ASLICE names goes on there in the nest, and the other where it stood. -/
def Obligations.LeavingAHandlerResumesAtTpc : Prop :=
  ∀ c : Ctx,
    (c.susp = none → c.nest.active = false →
      c.leaveTrap.hmode = false ∧ c.leaveTrap.pc = c.tpc &&& ~~~63#64 ∧ c.leaveTrap.shadow.toList = banked c ∧
      banked c.leaveTrap = c.shadow.toList ∧ c.leaveTrap.v = c.v ∧ c.leaveTrap.q = c.q ∧ c.leaveTrap.sticky = c.sticky) ∧
    (∀ n, c.susp = some n → c.dnest = false →
      c.leaveTrap.hmode = false ∧ c.leaveTrap.pc = c.tpc &&& ~~~63#64 ∧ c.leaveTrap.nest.active = false ∧
      c.leaveTrap.susp = none ∧ c.leaveTrap.nest.xidx = n.xidx ∧ c.leaveTrap.q = c.q) ∧
    (∀ (n : Nest) (k : BitVec 6), c.susp = some n → c.dnest = true → n.dec = true → k ≤ n.len →
      c.tpc = n.body + 64 * k.setWidth 64 →
      c.leaveTrap.hmode = false ∧ c.leaveTrap.susp = none ∧
      (c.aslice = false → c.leaveTrap.pc = c.tpc ∧ c.leaveTrap.nest = { n with xpos := k, xdone := false }) ∧
      (c.aslice = true → c.leaveTrap.nest = { n with apos := k, adone := false } ∧
        c.leaveTrap.pc = if n.xdone then c.resumePc else n.body + 64 * n.xpos.setWidth 64))

namespace Sys2Proof.Claims
open Sys2Proof.Machine

/-! ### Vectors (07 R157 to R177) -/

/-- 02 R45: lane `j` of type `t` as bits, and as the number it stands for. -/
def bitsAt (w : Nat) (v : Vec) (j : Nat) : BitVec w := v.extractLsb' (w * j) w
def numberAt (t : Ty) (v : Vec) (j : Nat) : Int :=
  if tySigned t then (bitsAt (tyWidth t) v j).toInt else ((bitsAt (tyWidth t) v j).toNat : Int)
def valueAt (t : Ty) (v : Vec) (j : Nat) : FVal := decodeF t (bitsAt (tyWidth t) v j).toNat

/-- 07 R159, 04 R94: what a lane receives for an exact integer result. -/
def laneOf (t : Ty) (md : Option ModOp) (r : Int) : Nat := (delivered t md r).toNat % 2 ^ tyWidth t

/-- The operands of a vector operation in the order in which they are read: queue fields pop. -/
structure Sources where
  st : State
  a : Vec
  b : Vec
  c : Vec

def sources1 (s : State) (h : Head) (f : F4) : Sources :=
  let x := s.readV f.a (saltOf s h.slot 1)
  ⟨x.1, x.2, 0, 0⟩
def sources2 (s : State) (h : Head) (f : F4) : Sources :=
  let x := s.readV f.a (saltOf s h.slot 1)
  let y := x.1.readV f.b (saltOf s h.slot 2)
  ⟨y.1, x.2, y.2, 0⟩
def sources3 (s : State) (h : Head) (f : F4) : Sources :=
  let x := s.readV f.a (saltOf s h.slot 1)
  let y := x.1.readV f.b (saltOf s h.slot 2)
  let z := y.1.readV f.c (saltOf s h.slot 3)
  ⟨z.1, x.2, y.2, z.2⟩

/-- What a lane-by-lane operation does: head, fields, bound, the state after its operands have been read, and the bits
and flags of lane `j`. -/
structure LaneForm where
  h : Head
  f : F4
  bound : Nat
  st : State
  lane : Nat → Nat × Flags

/-- 07 R159: an arithmetic lane: integer by its exact value, floating point rounded once. -/
def arithLane (s : State) (h : Head) (f : F4) (int : Int) (flt : FVal × Flags) : Nat × Flags :=
  if tyIsFloat f.ty then fltOut f.ty (ctlV s h f.rnd) flt else (laneOf f.ty h.md int, 0)

/-- 07 R159: a bitwise lane; a modifier on a floating-point type acts on the value of the pattern. -/
def bitLane (s : State) (h : Head) (f : F4) (x : BitVec (tyWidth f.ty)) : Nat × Flags :=
  if tyIsFloat f.ty then
    if h.md.isSome then fltOut f.ty (ctlV s h f.rnd) (decodeF f.ty x.toNat, 0) else (x.toNat, 0)
  else (laneOf f.ty h.md (if tySigned f.ty then x.toInt else (x.toNat : Int)), 0)

/-- 07 R159 to R161, R164: the lane-by-lane operations. -/
def laneForm (s : State) (i : Instr) : Option LaneForm :=
  let L := fun (f : F4) => tyLanes f.ty
  let trans := fun (h : Head) (f : F4) (g : FVal → FVal × Flags) =>
    let o := sources1 s h f
    some (⟨h, f, 10, o.st, fun j => fltOut f.ty (ctlV s h f.rnd) (g (valueAt f.ty o.a j))⟩ : LaneForm)
  let arith := fun (h : Head) (f : F4) (n : Nat) (int : Int → Int → Int) (flt : FVal → FVal → FVal × Flags) =>
    let o := sources2 s h f
    some (⟨h, f, n, o.st, fun j =>
      arithLane s h f (int (numberAt f.ty o.a j) (numberAt f.ty o.b j)) (flt (valueAt f.ty o.a j) (valueAt f.ty o.b j))⟩ : LaneForm)
  let bits := fun (h : Head) (f : F4) (g : (w : Nat) → BitVec w → BitVec w → BitVec w) =>
    let o := sources2 s h f
    some (⟨h, f, 2, o.st, fun j => bitLane s h f (g (tyWidth f.ty) (bitsAt _ o.a j) (bitsAt _ o.b j))⟩ : LaneForm)
  let shift := fun (h : Head) (f : F4) (g : BitVec (tyWidth f.ty) → Int → Nat → Int) =>
    let o := sources2 s h f
    some (⟨h, f, 2, o.st, fun j =>
      (laneOf f.ty h.md (g (bitsAt _ o.a j) (numberAt f.ty o.a j) ((bitsAt (tyWidth f.ty) o.b j).toNat % tyWidth f.ty)), 0)⟩ : LaneForm)
  match i with
  | .vadd h f => arith h f 2 (· + ·) (fltAdd (modeV s f.rnd))
  | .vsub h f => arith h f 2 (· - ·) (fun x y => fltAdd (modeV s f.rnd) x y.negate)
  | .vmul h f => arith h f 4 (· * ·) fltMul
  | .vmin h f => arith h f 2 min fltMin
  | .vmax h f => arith h f 2 max fltMax
  | .vfma h f =>
    let o := sources3 s h f
    some ⟨h, f, 4, o.st, fun j => arithLane s h f
      (numberAt f.ty o.a j * numberAt f.ty o.b j + numberAt f.ty o.c j)
      (fltFma (modeV s f.rnd) (valueAt f.ty o.a j) (valueAt f.ty o.b j) (valueAt f.ty o.c j))⟩
  | .vand h f => bits h f fun _ x y => x &&& y
  | .vor h f => bits h f fun _ x y => x ||| y
  | .vxor h f => bits h f fun _ x y => x ^^^ y
  | .vshl h f => shift h f fun _ x n => x * (2 ^ n : Nat)
  | .vshr h f => shift h f fun x _ n => ((x >>> n).toNat : Int)
  | .vsra h f => shift h f fun x _ n => x.toInt / (2 ^ n : Nat)
  | .vsel h f =>
    let o := sources3 s h f
    some ⟨h, f, 2, o.st, fun j => ((bitsAt (tyWidth f.ty) (if bitsAt (tyWidth f.ty) o.c j = 0 then o.b else o.a) j).toNat, 0)⟩
  | .vmov h f =>
    let o := sources1 s h f
    some ⟨h, f, 2, o.st, fun j => ((bitsAt (tyWidth f.ty) o.a j).toNat, 0)⟩
  | .vbcast h f => some ⟨h, f, 2, s, fun _ => ((s.readS h f.a 1).toNat % 2 ^ tyWidth f.ty, 0)⟩
  | .viota h f =>
    some ⟨h, f, 2, s, fun j =>
      (laneOf f.ty none (number f.ty (s.readS h f.a 1) + j * number f.ty (s.readS h f.b 2)), 0)⟩
  | .vperm h f =>
    let o := sources2 s h f
    some ⟨h, f, 3, o.st, fun j =>
      ((bitsAt (tyWidth f.ty) o.a ((bitsAt (tyWidth f.ty) o.b j).toNat % L f)).toNat, 0)⟩
  | .vslide h f =>
    let o := sources2 s h f
    some ⟨h, f, 3, o.st, fun j =>
      let k := (j + (s.readS h f.c 3).toNat) % (2 * L f)
      (if k < L f then (bitsAt (tyWidth f.ty) o.a k).toNat else (bitsAt (tyWidth f.ty) o.b (k - L f)).toNat, 0)⟩
  | .vexp2 h f => trans h f fltExp2
  | .vlog2 h f => trans h f fltLog2
  | .vrcp h f => trans h f fltRcp
  | .vrsq h f => trans h f fltRsq
  | .vsqrt h f => trans h f fltSqrt
  | .vdiv h f =>
    let o := sources2 s h f
    some ⟨h, f, 10, o.st, fun j => fltOut f.ty (ctlV s h f.rnd) (fltDiv (valueAt f.ty o.a j) (valueAt f.ty o.b j))⟩
  | .vcmp h f =>
    let o := sources2 s h f
    some ⟨h, f, 2, o.st, fun j =>
      let a := valueAt f.ty o.a j
      let b := valueAt f.ty o.b j
      let r := if tyIsFloat f.ty then fltCond f.sub.toNat a b
        else intCond f.sub.toNat (numberAt f.ty o.a j) (numberAt f.ty o.b j)
          (bitsAt (tyWidth f.ty) o.a j &&& bitsAt (tyWidth f.ty) o.b j != 0)
      (if r then 2 ^ tyWidth f.ty - 1 else 0, if tyIsFloat f.ty then fltCondFlags f.sub.toNat a b else 0)⟩
  | _ => none

/-- 07 R157: the chunks that a mask register governs, as the bits of a destination. -/
def Governs (k : Word) (m : Vec) : Prop := ∀ b, b < 2048 → m.getLsbD b = k.getLsbD (b / 32)

/-- 07 R162, R168: a result that writes `n` lanes of width `w` from lane `lo` on, as far as the mask does, with these bits. -/
def WritesLanes (r : VRes) (k : Vec) (w lo n : Nat) (lane : Nat → Nat) : Prop :=
  (∀ b, b < 2048 → r.mask.getLsbD b = (k.getLsbD b && decide (w * lo ≤ b ∧ b < w * (lo + n)))) ∧
  ∀ i, i < n → (bitsAt w r.val (lo + i)).toNat = lane i % 2 ^ w

/-- A finite number in units of 2^-128, below which no 8-bit number has a bit. -/
def units (x : FVal) : Option Int :=
  match x with
  | .fin n m e _ => some ((if n then -1 else 1) * ((m * 2 ^ (e + 128).toNat : Nat) : Int))
  | _ => none

/-- 07 R169: the magnitude of lane `i` is smaller than that of lane `j`; a NaN ranks above every number. -/
def Smaller (t : Ty) (a : Vec) (i j : Nat) : Prop :=
  if tyIsFloat t then
    (valueAt t a i).isNaN = false ∧ ((valueAt t a j).isNaN = true ∨ fltLt (valueAt t a i).abs (valueAt t a j).abs = true)
  else (numberAt t a i).natAbs < (numberAt t a j).natAbs

/-- 07 R162: VCVT places part `p`: a widening reads it, a narrowing writes it. -/
def ConvertsPart : Prop :=
  ∀ (d t : Ty) (p : Nat) (c : Ctl) (k a : Vec), d.toNat < 15 → t.toNat < 15 →
    let conv := fun (j : Nat) => (convert d t c.rnd c.e4ovf c.md (bitsAt (tyWidth t) a j).toNat).1
    let r := vcvt d t p c k a
    (tyWidth t < tyWidth d → WritesLanes r k (tyWidth d) 0 (tyLanes d) fun i => conv (p * tyLanes d + i)) ∧
    (tyWidth d < tyWidth t → p * tyLanes t + tyLanes t ≤ tyLanes d → WritesLanes r k (tyWidth d) (p * tyLanes t) (tyLanes t) conv) ∧
    (tyWidth d = tyWidth t → WritesLanes r k (tyWidth d) 0 (tyLanes t) conv)

/-- 07 R163: a lane of VDOT4 is the exact sum of four products and a lane of `c`, delivered once. -/
def DotsFour : Prop :=
  ∀ (t : Ty) (c : Ctl) (k a b z : Vec), t = 0 ∨ t = 4 ∨ t = 11 ∨ t = 12 ∨ t = 13 →
    let r := vdot4 t c k a b z
    r.mask = k ∧ ∀ i, i < 64 →
      (tyIsFloat t = false →
        let rt : Ty := if t = 0 then 2 else 6
        (bitsAt 32 r.val i).toNat =
          laneOf rt c.md ((((List.range 4).map fun j => numberAt t a (4 * i + j) * numberAt t b (4 * i + j)).sum) + numberAt rt z i)) ∧
      (tyIsFloat t = true → ∃ x : FVal, (bitsAt 32 r.val i).toNat = (fltOut 8 c (fltAdd c.rnd x (valueAt 8 z i))).1 ∧
        ((∃ j, j < 4 ∧ ((valueAt t a (4 * i + j)).isNaN = true ∨ (valueAt t b (4 * i + j)).isNaN = true)) → x.isNaN = true) ∧
        (∀ u v : Nat → Int, (∀ j, j < 4 → units (valueAt t a (4 * i + j)) = some (u j) ∧ units (valueAt t b (4 * i + j)) = some (v j)) →
          ∃ n, units x = some n ∧ n * 2 ^ 128 = ((List.range 4).map fun j => u j * v j).sum))

/-- 07 R166: a lane of VSCAN is the sum, the greatest or the least of the carry and the lanes up to it. -/
def ScansUpward : Prop :=
  ∀ (t : Ty) (op : Nat) (m : Rnd) (k a : Vec) (carry : Word), op < 3 → t = 2 ∨ t = 3 ∨ t = 6 ∨ t = 7 ∨ t = 8 →
    let w := tyWidth t
    let r := vscan t op m k a carry
    let c := carry.setWidth w
    r.mask = k ∧
    (tyIsFloat t = false → r.fl = 0 ∧ ∀ j, j < tyLanes t →
      bitsAt w r.val j = BitVec.ofInt w (((List.range (j + 1)).map (numberAt t a)).foldl
        (fun x y => if op = 0 then x + y else if op = 1 then max x y else min x y) (if tySigned t then c.toInt else (c.toNat : Int)))) ∧
    (tyIsFloat t = true → ∀ j, j < tyLanes t →
      let x := decodeF t (if j = 0 then c else bitsAt w r.val (j - 1)).toNat
      let y := valueAt t a j
      (bitsAt w r.val j).toNat =
        (roundF t m false (if op = 0 then (fltAdd m x y).1 else if op = 1 then (fltMax x y).1 else (fltMin x y).1)).1)

/-- 07 R168: VQUANT rounds each exact product once, into its part. -/
def QuantisesOnce : Prop :=
  ∀ (t : Ty) (p : Nat) (c : Ctl) (k a : Vec) (sc : Word), t = 0 ∨ t = 4 ∨ (9 ≤ t.toNat ∧ t.toNat ≤ 14) → 64 * p + 64 ≤ tyLanes t →
    WritesLanes (vquant t p c k a sc) k (tyWidth t) (64 * p) 64 fun i =>
      let x := (fltMul (valueAt 8 a i) (decodeF 8 (sc.setWidth 32 : BitVec 32).toNat)).1
      if tyIsFloat t then (roundF t c.rnd c.e4ovf x).1 else (floatToInt t c.rnd none x).1

/-- 07 R169: VCMPR keeps of each group of four the two lanes that rank highest, the lower index first. -/
def KeepsTwoOfFour : Prop :=
  ∀ (t : Ty) (a : Vec), t = 0 ∨ t = 4 ∨ (9 ≤ t.toNat ∧ t.toNat ≤ 13) →
    let w := tyWidth t
    let r := vcmpr t a
    r >>> (1024 + tyLanes t) = 0 ∧ ∀ g, g < tyLanes t / 4 → ∃ p q, p < q ∧ q < 4 ∧
      r.extractLsb' (1024 + 4 * g) 4 = BitVec.ofNat 4 (p + 4 * q) ∧ bitsAt w r (2 * g) = bitsAt w a (4 * g + p) ∧
      bitsAt w r (2 * g + 1) = bitsAt w a (4 * g + q) ∧
      ∀ x y, x < 4 → x ≠ p → x ≠ q → (y = p ∨ y = q) →
        Smaller t a (4 * g + x) (4 * g + y) ∨ (¬ Smaller t a (4 * g + y) (4 * g + x) ∧ y < x)

/-- 07 R173: VDESC of a state selects the first lane above the target, and leaves what of the target lies beyond the lane before. -/
def DescendsToTheFirst : Prop :=
  ∀ (a b : Vec) (j : Nat), j < 64 → fltLt (valueAt 8 b 0) (valueAt 8 a j) = true →
    (∀ i, i < j → fltLt (valueAt 8 b 0) (valueAt 8 a i) = false) →
    let r := (vdesc a b false).1
    r >>> 64 = 0 ∧ bitsAt 32 r 1 = BitVec.ofNat 32 ((bitsAt 32 b 1).toNat * 64 + j) ∧
    (bitsAt 32 r 0).toNat = if j = 0 then (bitsAt 32 b 0).toNat
      else (roundF 8 .rne false (fltAdd .rne (valueAt 8 b 0) (valueAt 8 a (j - 1)).negate).1).1

end Sys2Proof.Claims

open Sys2Proof Sys2Proof.Machine Sys2Proof.Claims

/-- 07 R159 to R161, R164 with R157: a lane-by-lane vector operation that executes delivers each lane's result, writes the
chunks its mask selects and raises the flags of the lanes of which some part is written. -/
def Obligations.VectorLanesReceiveTheirResults : Prop :=
  ∀ (s : State) (i : Instr) (o : LaneForm), laneForm s i = some o → i.fieldsOk = true → opRuns s o.h = true →
    ∃ r : VRes, exec i s = .next (o.st.writeV o.f.d r o.bound) ∧ Governs (s.readK o.h o.f.k 14) r.mask ∧
      (∀ j, j < tyLanes o.f.ty → (bitsAt (tyWidth o.f.ty) r.val j).toNat = (o.lane j).1) ∧
      (∀ q, q < 5 → (r.fl.getLsbD q = true ↔
        ∃ j, j < tyLanes o.f.ty ∧ bitsAt (tyWidth o.f.ty) r.mask j ≠ 0 ∧ (o.lane j).2.getLsbD q = true))

/-- 07 R157, 04 R99: the chunks of a vector register that a result does not govern keep their value as it lands, and those of
a pushed entry become 0. -/
def Obligations.MaskedChunksKeepTheirValue : Prop :=
  ∀ (c : Ctx) (d : BitVec 5) (v m : Vec) (n seq : Nat) (fl : Flags), c.pend = [] →
    ((∀ e ∈ c.score, e.reg ≠ .v d) →
     let u := (c.addResult false (.v d) v m n fl seq).landAll
     (∀ b, b < 2048 → (u.getReg (.v d)).getLsbD b = if m.getLsbD b then v.getLsbD b else (c.getReg (.v d)).getLsbD b) ∧
     (∀ r, r ≠ .v d → r ≠ .sr 0x45 → u.getReg r = c.getReg r)) ∧
    (∀ (q : Fin 4) (e : QEntry) (l : List QEntry), (c.q[q]).ents = l ++ [e] → (∀ x ∈ l, x.id ≠ e.id) →
      (∀ y ∈ c.score, y.reg ≠ .q (BitVec.ofFin q) e.id) →
      let u := (c.addResult false (.q (BitVec.ofFin q) e.id) v m n fl seq).landAll
      (u.q[q]).ents = l ++ [{ e with val := v &&& m, landed := true }])

/-- 07 R162, R163, R165 to R174: the vector operations that are not lane by lane: each delivers the result of its rule, a
function of its operands alone, and nothing else of the state changes. Lane by lane, that result is: for VCVT and VQUANT each lane of
their part converted, once; for VDOT4 the exact sum of four products and a lane of `c`, delivered once; for VSCAN what has been run
up to the lane; for VCMPR the two of each four that rank highest; for VDESC the first lane above the target; for VRAND the outputs of
the generator. -/
def Obligations.CrossLaneOperationsDeliverTheirResult : Prop :=
  ConvertsPart ∧ DotsFour ∧ ScansUpward ∧ QuantisesOnce ∧ KeepsTwoOfFour ∧ DescendsToTheFirst ∧
  (∀ (k n : Word) j, j < 32 → (bitsAt 64 (vrand k n) j).toNat = rand64 k.toNat ((n + BitVec.ofNat 64 j).toNat) % 2 ^ 64) ∧
  ∀ (s : State) (h : Head) (f : F4), opRuns s h = true →
    let k := s.readK h f.k 14
    let one := sources1 s h f
    let two := sources2 s h f
    (exec (.vcvt h f) s = .next (one.st.writeV f.d (vcvt f.ty f.sub f.b.toNat (ctlV s h f.rnd) (chunkMask k) one.a) 3)) ∧
    (let o := sources3 s h f
     exec (.vdot4 h f) s = .next (o.st.writeV f.d (vdot4 f.ty (ctlV s h f.rnd) (chunkMask k) o.a o.b o.c) 4)) ∧
    (tyIsFloat f.ty = false →
      exec (.vred h f) s = .next (one.st.writeV f.d ⟨BitVec.ofNat 2048 (redInt f.ty f.sub.toNat k one.a), allBits, 0⟩ 6)) ∧
    (tyIsFloat f.ty = true →
      let r := redFlt f.ty f.sub.toNat (modeV s f.rnd) k one.a
      exec (.vred h f) s = .next (one.st.writeV f.d ⟨BitVec.ofNat 2048 r.1, allBits, r.2⟩ 6)) ∧
    (exec (.vscan h f) s =
      .next (one.st.writeV f.d (vscan f.ty f.sub.toNat (modeV s f.rnd) (chunkMask k) one.a (s.readS h f.b 2)) 6)) ∧
    (let r := amax f.ty k one.a
     exec (.vamax h f) s = .next (one.st.writeV f.d ⟨r.1, allBits, r.2⟩ 6)) ∧
    (exec (.vquant h f) s =
      .next (one.st.writeV f.d (vquant f.ty f.sub.toNat (ctlV s h f.rnd) (chunkMask k) one.a (s.readS h f.b 2)) 6)) ∧
    (exec (.vcmpr h f) s = .next (one.st.writeV f.d ⟨vcmpr f.ty one.a, allBits, 0⟩ 6)) ∧
    (let r := vtopk f.ty k one.a (s.readS h f.b 2) (s.readS h f.c 3)
     exec (.vtopk h f) s = .next ((one.st.writeV f.d ⟨r.1, allBits, 0⟩ 12).writeV (f.d + 1) ⟨r.2, allBits, 0⟩ 12)) ∧
    (let v := fun (x : BitVec 6) (n : Nat) => s.readReg (.v (x.setWidth 5)) (saltOf s h.slot n)
     let r := vmergek f.ty (v f.a 1) (v (f.a + 1) 4) (v f.b 2) (v (f.b + 1) 5) (s.readS h f.c 3)
     exec (.vmergek h f) s = .next ((s.writeV f.d ⟨r.1, allBits, 0⟩ 8).writeV (f.d + 1) ⟨r.2, allBits, 0⟩ 8)) ∧
    (let r := vdesc two.a two.b (f.sub == 1)
     exec (.vdesc h f) s = .next (two.st.writeV f.d ⟨r.1, allBits, r.2⟩ 4)) ∧
    (exec (.vrand h f) s =
      .next (s.writeV f.d ⟨vrand (s.readS h f.a 1) (s.readS h f.b 2), chunkMask k, 0⟩ 4))

/-- 07 R165: VRED of an integer type delivers the sum, the least, the greatest, the conjunction, the disjunction and the
parity of the lanes its mask selects; nothing selected gives the identity. 07 R170 to R172: the entries of VTOPK and
VMERGEK stand in the order Before, they are entries of the input, and every input entry that is left out stands behind all
of them. -/
def Obligations.ReductionsCoverAndTopListsRankTheirLanes : Prop :=
  (∀ (t : Ty) (k : Word) (a : Vec), t.toNat < 8 →
    let sel := (List.range (tyLanes t)).filter fun i => k.getLsbD (i * tyWidth t / 32)
    let ext := fun (p : Nat → Bool) =>
      (delivered t none ((List.range (tyWidth t)).foldl (fun n b => n + if p b then 2 ^ b else 0) 0)).toNat
    redInt t 0 k a = (BitVec.ofInt 64 ((sel.map (numberAt t a)).sum)).toNat ∧
    redInt t 1 k a = (BitVec.ofInt 64 ((sel.map (numberAt t a)).foldl min (greatest t))).toNat ∧
    redInt t 2 k a = (BitVec.ofInt 64 ((sel.map (numberAt t a)).foldl max (least t))).toNat ∧
    redInt t 3 k a = ext (fun b => sel.all fun i => (bitsAt (tyWidth t) a i).getLsbD b) ∧
    redInt t 4 k a = ext (fun b => sel.any fun i => (bitsAt (tyWidth t) a i).getLsbD b) ∧
    redInt t 5 k a = ext (fun b => (sel.countP fun i => (bitsAt (tyWidth t) a i).getLsbD b) % 2 == 1)) ∧
  (∀ (t : Ty) (l : List TopEntry) (k : Nat), t = 2 ∨ t = 6 ∨ t = 8 ∨ t = 9 ∨ t = 10 →
    let r := sortTop t l
    r.Perm l ∧ (r.Pairwise fun e f => before t f e = false) ∧
    (∀ e ∈ r.drop k, ∀ f ∈ r.take k, before t e f = false))

/-- 07 R175 to R177: masks and single lanes. -/
def Obligations.MaskAndLaneOperationsDeliverTheirResult : Prop :=
  ∀ (s : State) (h : Head) (f : F4), opRuns s h = true →
    let one := sources1 s h f
    let w := tyWidth f.ty
    let n := (s.readS h f.b 2).toNat % tyLanes f.ty
    (∃ m : Word, exec (.vkop h f) s = .next (s.writeK (f.d.setWidth 3) m 2) ∧ ∀ j, j < 64 →
      m.getLsbD j = f.sub.getLsbD (2 * ((s.readK h (f.a.setWidth 3) 1).getLsbD j).toNat +
        ((s.readK h (f.b.setWidth 3) 2).getLsbD j).toNat)) ∧
    (∃ m : Word, exec (.vkmovAny h f) s = .next (one.st.writeK (f.d.setWidth 3) m 2) ∧
      ∀ j, j < 64 → (m.getLsbD j = true ↔ bitsAt 32 one.a j ≠ 0)) ∧
    (∃ m : Word, exec (.vkmovAll h f) s = .next (one.st.writeK (f.d.setWidth 3) m 2) ∧
      ∀ j, j < 64 → (m.getLsbD j = true ↔ bitsAt 32 one.a j = BitVec.allOnes 32)) ∧
    (exec (.vkmovFroms h f) s = .next (s.writeK (f.d.setWidth 3) (s.readS h f.a 1) 2)) ∧
    (exec (.vkmovTos h f) s = .next (s.writeS f.d (s.readK h (f.a.setWidth 3) 1) 2 0)) ∧
    (∃ v : Vec, exec (.vkmovTov h f) s = .next (s.writeV f.d ⟨v, allBits, 0⟩ 2) ∧ Governs (s.readK h (f.a.setWidth 3) 1) v) ∧
    ((Instr.vgetl h f).fieldsOk = true → exec (.vgetl h f) s = .next (one.st.writeS f.d
      (if tyIsFloat f.ty then BitVec.ofNat 64 (bitsAt w one.a n).toNat else BitVec.ofInt 64 (numberAt f.ty one.a n)) 2 0)) ∧
    ((Instr.vsetl h f).fieldsOk = true →
      let old := s.readReg (.v (f.d.setWidth 5)) (saltOf s h.slot 0)
      ∃ v : Vec, exec (.vsetl h f) s = .next (s.writeV f.d ⟨v, allBits, 0⟩ 2) ∧
        ∀ j, j < tyLanes f.ty → bitsAt w v j = if j = n then (s.readS h f.a 1).setWidth w else bitsAt w old j)

namespace Sys2Proof.Claims
open Sys2Proof.Machine

/-! ### Memory (08 R178 to R197) -/

/-- 08 R178: the effective address of an FM operation. -/
def address (s : State) (h : Head) (f : FM) (off : Word) : Word :=
  if f.kind = 0 then s.readS h f.base 5 + off
  else
    let g : BitVec 3 := f.base.setWidth 3
    let base := (s.readReg (.g g 0) (saltOf s h.slot 5)).setWidth 64
    let level := fun (l : Nat) => (s.cx.nest.idx s.cur.acc l).setWidth 64 *
      ((s.readReg (.g g (BitVec.ofNat 3 (l + 1))) (saltOf s h.slot (6 + l))).setWidth 32).signExtend 64
    if s.cx.inNest s.cur.acc then
      base + off + (((List.range (s.cx.nest.depth.toNat + 1)).map level).foldr (· + ·) 0)
    else base + off

/-- 08 R178: where a scratchpad access of space 00 or 01 lies. -/
def scratchKey (s : State) (space : BitVec 2) (ea : Word) : Nat :=
  let c := s.cur.core
  if space = 0 then spadKey c.die c.core ea.toNat
  else spadKey c.die (BitVec.ofNat 8 (c.core.toNat / 16 * 16 + ea.toNat / 2 ^ 20 % 16)) (ea.toNat % 2 ^ 20)

/-- Of the cores, only the current context differs. -/
def CtxOnly (s t : State) : Prop :=
  (∀ c x, ¬(c = s.cur.core ∧ x = s.cur.ctx) → t.ctx c x = s.ctx c x) ∧ ∀ c, apart (t.core c) = apart (s.core c)

/-- 08 R183: what a scalar load shows of an element's bits. -/
def element (t : Ty) (x : Nat) : Vec := (if tyIsFloat t then BitVec.ofNat 64 x else extend t (BitVec.ofNat 64 x)).setWidth 2048

/-- A load: its head and fields, its bound in spaces 00 and 01, its destination with the queue it pushes, the bytes it
reads and the value they give. -/
structure LoadForm where
  h : Head
  f : FM
  bound : Nat
  dest : Reg
  push : Option (BitVec 2)
  bytes : Nat
  value : Nat → Vec

/-- A vector destination. -/
def vectorDest (s : State) (d : BitVec 6) : Reg × Option (BitVec 2) :=
  if d.toNat < 32 then (.v (d.setWidth 5), none) else (.q (d.setWidth 2) s.nextId, some (d.setWidth 2))

/-- 08 R183, R184: the loads that the scratchpad performs. -/
def loadForm (s : State) (i : Instr) : Option LoadForm :=
  let bound := fun (f : FM) => if f.space = 0 then 5 else 12
  let v := fun (f : FM) => vectorDest s f.data
  match i with
  | .ld h f | .ldg h f => some ⟨h, f, bound f, .s f.data, none, (tyWidth f.ty + 7) / 8, element f.ty⟩
  | .ldv h f | .ldgv h f => some ⟨h, f, bound f, (v f).1, (v f).2, 256, BitVec.ofNat 2048⟩
  | .ldvs h f =>
    some ⟨h, f, bound f, (v f).1, (v f).2, (tyWidth f.ty + 7) / 8, fun x => ofLanes (tyWidth f.ty) (List.replicate (2048 / tyWidth f.ty) x)⟩
  | .ldx h f =>
    let x := s.readX h f.order 3
    some ⟨h, f, if f.space = 0 then 7 else 14, .v (f.data.setWidth 5), none, ldxBytes x f.ty, ldxValue x f.ty⟩
  | _ => none

/-- 10 R267: what an operation of the LS path leaves in ACQTIME. -/
def acquired (s : State) (i : Instr) : Nat := if isAcquire i then max s.cx.acqTime s.time else s.cx.acqTime

/-- 08 R183: the stores that the scratchpad performs, and the value whose low bytes they write. -/
def storeForm (s : State) (i : Instr) : Option (Head × FM × Nat × Vec) :=
  match i with
  | .st h f | .stg h f => some (h, f, (tyWidth f.ty + 7) / 8, (s.readS h f.data 1).setWidth 2048)
  | .stv h f | .stgv h f => some (h, f, 256, (s.readV f.data (saltOf s h.slot 1)).2)
  | .stvs h f => some (h, f, (tyWidth f.ty + 7) / 8, (s.readV f.data (saltOf s h.slot 1)).2)
  | _ => none

/-- The byte at an address after `n` low bytes of `x` have been stored at `k`. -/
def storedByte (m : Memory) (k n x a : Nat) : Byte :=
  if k ≤ a ∧ a < k + n then BitVec.ofNat 8 (x / 256 ^ (a - k)) else readByte m a

/-- What an operation asks the device memory or the on-chip map for. -/
structure Asked where
  h : Head
  path : BitVec 3
  va : Word
  space : BitVec 2
  data : Vec
  idx : Vec
  mask : Word
  dests : List Reg
  push : Option (BitVec 2)

/-- 08 R178, R185 to R188, R193, R196 to R198, R200, R201: the accesses that become requests: those of device memory and of
the on-chip map, and those of a scratchpad that write and may not act as their bundle issues (10 R256). -/
def askedOf (s : State) (i : Instr) : Option Asked :=
  let long := fun (f : FM) => f.offs.signExtend 64
  let short := fun (f : FM) => (f.offs.extractLsb' 0 16).signExtend 64
  let sc := fun (h : Head) (f : FM) => (s.readS h f.data 1).setWidth 2048
  let vec := fun (h : Head) (f : FM) => (s.readV f.data (saltOf s h.slot 1)).2
  let far := fun (f : FM) (x : Asked) => if 2 ≤ f.space.toNat then some x else none
  let late := !s.actsNow i [((spadProbe s (theOp s i)).key, (theOp s i).bytes)]
  let held := fun (f : FM) (x : Asked) => if 2 ≤ f.space.toNat ∨ late = true then some x else none
  match i with
  | .ld h f | .ldg h f => far f ⟨h, 0, address s h f (long f), f.space, 0, 0, 0, [.s f.data], none⟩
  | .ldv h f | .ldgv h f | .ldvs h f =>
    far f ⟨h, 0, address s h f (long f), f.space, 0, 0, 0, [(vectorDest s f.data).1], (vectorDest s f.data).2⟩
  | .st h f | .stg h f => held f ⟨h, 0, address s h f (long f), f.space, sc h f, 0, 0, [], none⟩
  | .stv h f | .stgv h f | .stvs h f => held f ⟨h, 0, address s h f (long f), f.space, vec h f, 0, 0, [], none⟩
  | .ldw h f | .ldc h f => far f ⟨h, 0, address s h f (long f), f.space, 0, 0, 0, [.s f.data], none⟩
  | .ldt h f => far f ⟨h, 0, address s h f (long f), 2, 0, 0, 0, [.s f.data, .s (f.data + 1)], none⟩
  | .stf h f | .sts h f => far f ⟨h, 0, address s h f (long f), f.space, sc h f, 0, 0, [], none⟩
  | .tage h f => far f ⟨h, 0, address s h f (long f), f.space, 0, 0, 0, [], none⟩
  | .gath h f =>
    some ⟨h, 4, s.readS h f.b 2, 2, 0, (s.readV f.a (saltOf s h.slot 1)).2, s.readK h f.k 14, [.v (f.d.setWidth 5), .k f.k], none⟩
  | .probe h f => some ⟨h, 4, s.readS h f.b 2, 2, 0, (s.readV f.a (saltOf s h.slot 1)).2, s.readK h f.k 14, [.k f.k], none⟩
  | .scat h f =>
    some ⟨h, 4, s.readS h f.b 2, 2, s.readReg (.v (f.d.setWidth 5)) (saltOf s h.slot 0), (s.readV f.a (saltOf s h.slot 1)).2,
      s.readK h f.k 14, [], none⟩
  | .park h f => some ⟨h, 0, address s h f (short f), 2, 0, 0, 0, [.s f.data], none⟩
  | .wake h f => some ⟨h, 0, address s h f (short f), 2, sc h f, 0, 0, [], none⟩
  | .bwait h f => if f.space = 2 then some ⟨h, 0, address s h f (long f), 2, sc h f, 0, 0, [], none⟩ else none
  | .barr h f => held f ⟨h, 0, address s h f (long f), f.space, sc h f, 0, 0, [], none⟩
  | .amo h f =>
    held f ⟨h, 0, address s h f (short f), f.space, sc h f, 0, 0, if f.offs.getLsbD 16 then [] else [.s f.data], none⟩
  | .cas h f =>
    held f ⟨h, 0, address s h f (short f), f.space, sc h f, (s.readS h (f.data + 1) 2).setWidth 2048, 0, [.s f.data], none⟩
  | .aarm h f => if late = true then some ⟨h, 0, s.readS h f.a 1, 0, (s.readS h f.b 2).setWidth 2048, 0, 0, [], none⟩ else none
  | .fpost h f =>
    if s.actsNow i [] = false then
      some ⟨h, 0, 0, 0, ((s.readS h f.a 1).setWidth 16).setWidth 2048, 0, 0, [], none⟩
    else none
  | _ => none

/-- The entries of the queues after a load: a load that pushes has reserved one. -/
def Reserved (s t : State) (push : Option (BitVec 2)) : Prop :=
  ∀ n : Fin 4, t.cx.q[n].ents = (s.cx.q[n]).ents ++ (if push = some (BitVec.ofFin n) then [⟨s.nextId, 0, false, false⟩] else [])

/-- 08 R196: the new word of an AMO from the old word `m` and the data `x`. -/
def amoResult (t : Ty) (op m x : Nat) : Nat :=
  let w := tyWidth t
  let int := fun (n : Nat) => (BitVec.ofNat w n).toInt
  match op with
  | 0 => (m + x) % 2 ^ w
  | 1 => Nat.land m x
  | 2 => Nat.lor m x
  | 3 => Nat.xor m x
  | 4 => if int x < int m then x else m
  | 5 => if int m < int x then x else m
  | 6 => if x < m then x else m
  | 7 => if m < x then x else m
  | 8 => x
  | 9 => (laneAdd t ⟨.rne, false, none⟩ m x).1
  | 10 => (laneMax t ⟨.rne, false, none⟩ m x).1
  | _ => (laneMin t ⟨.rne, false, none⟩ m x).1

/-- 08 R201: a breach of the phase discipline that a barrier word shows: an arrival for a phase that is neither the one under
way nor the next, or for one that has all its parties (the model's reading, log entry 79). -/
def Breach (m : Word) (p : BitVec 16) : Prop :=
  let n := m.extractLsb' 32 16
  1 < (p - m.extractLsb' 48 16).toNat ∨ n ≠ 0 ∧ n ≤ (if p.getLsbD 0 then m.extractLsb' 16 16 else m.extractLsb' 0 16)

/-- 08 R201: the barrier word after an arrival for phase `p`, without a breach. -/
def arrivedWord (m : Word) (p : BitVec 16) : Word :=
  let odd := p.getLsbD 0
  let n := m.extractLsb' 32 16
  let c := (if odd then m.extractLsb' 16 16 else m.extractLsb' 0 16) + 1
  let full := n ≠ 0 ∧ c = n
  let v : BitVec 16 := if full then 0 else c
  (if full then p + 1 else m.extractLsb' 48 16) ++ n ++ (if odd then v else m.extractLsb' 16 16) ++
    (if odd then m.extractLsb' 0 16 else v)

/-- 08 R196, R197, R201: an atomic of a scratchpad word: its fields, its bytes, the new word from the old one, and the
registers that receive the old one. After a breach the two counts of a barrier word are undefined: the free bits `u`. -/
def atomicForm (s : State) (i : Instr) (u : BitVec 32) : Option (Head × FM × Nat × (Nat → Nat → Prop) × List Reg) :=
  match i with
  | .amo h f =>
    let w := tyWidth f.ty
    some (h, f, (w + 7) / 8, fun m n => n = amoResult f.ty (f.offs.extractLsb' 17 4).toNat m ((s.readS h f.data 1).toNat % 2 ^ w),
      if f.offs.getLsbD 16 then [] else [.s f.data])
  | .cas h f =>
    let w := tyWidth f.ty
    some (h, f, (w + 7) / 8,
      fun m n => n = if m = (s.readS h f.data 1).toNat % 2 ^ w then (s.readS h (f.data + 1) 2).toNat % 2 ^ w else m, [.s f.data])
  | .barr h f =>
    some (h, f, 8, fun m n =>
      let old := BitVec.ofNat 64 m
      let p := (s.readS h f.data 1).setWidth 16
      (¬Breach old p → n = (arrivedWord old p).toNat) ∧
      (Breach old p → n = ((arrivedWord old p).extractLsb' 32 32 ++ u).toNat), [])
  | _ => none

end Sys2Proof.Claims

open Sys2Proof Sys2Proof.Machine Sys2Proof.Claims

/-- 08 R178, R180 and 01 R28: where a load, store or atomic of spaces 00 and 01 lies and how many bytes it touches. -/
def Obligations.ScratchpadAccessesLieAtTheirEffectiveAddress : Prop :=
  ∀ (s : State) (i : Instr),
    (∀ o, loadForm s i = some o → i.fieldsOk = true → o.f.space.toNat ≤ 1 →
      (theOp s i).ea = address s o.h o.f (o.f.offs.signExtend 64) ∧ (theOp s i).bytes = o.bytes ∧
      (spadProbe s (theOp s i)).key = scratchKey s o.f.space (theOp s i).ea) ∧
    (∀ h f n v, storeForm s i = some (h, f, n, v) → i.fieldsOk = true → f.space.toNat ≤ 1 →
      (theOp s i).ea = address s h f (f.offs.signExtend 64) ∧ (theOp s i).bytes = n ∧
      (spadProbe s (theOp s i)).key = scratchKey s f.space (theOp s i).ea) ∧
    (∀ u h f n g l, atomicForm s i u = some (h, f, n, g, l) → i.fieldsOk = true → f.space.toNat ≤ 1 →
      (theOp s i).ea = address s h f (if shortOffset i then (f.offs.extractLsb' 0 16).signExtend 64 else f.offs.signExtend 64) ∧
      (theOp s i).bytes = n ∧ (spadProbe s (theOp s i)).key = scratchKey s f.space (theOp s i).ea)

/-- 08 R182 to R184, 18 R414: a load of spaces 00 and 01 that raises no cause sends the value of its bytes to its
destination at its bound; it changes no byte of memory and no register. Where it meets a poison marker it reports the
memory-error trap, with the address of the first poisoned byte, and delivers nothing. 08 R183: a store of spaces 00 and 01
that raises no cause and that nothing earlier holds back writes the low bytes of its data at its effective address; every
other byte of memory reads as before, and no register changes. -/
def Obligations.ScratchpadLoadsAndStoresMoveTheirBytes : Prop :=
  (∀ (s : State) (i : Instr) (o : LoadForm), loadForm s i = some o → i.fieldsOk = true → opRuns s o.h = true →
    opCause i s = none → o.f.space.toNat ≤ 1 →
    let k := (spadProbe s (theOp s i)).key
    (isPoisoned s.poison k o.bytes = false → answers i s fun t =>
      t.cx.pend = (s.cx.addResult s.cur.acc o.dest (o.value (readNat s.mem k o.bytes)) allBits o.bound 0
        (s.nextId + if o.push.isSome then 1 else 0)).pend ∧
      Reserved s t o.push ∧ t.cx.acqTime = acquired s i ∧
      ({ t.cx with pend := s.cx.pend, q := s.cx.q, wrote := s.cx.wrote, acqTime := s.cx.acqTime } : Ctx) = s.cx ∧ CtxOnly s t ∧
      ({ t with cores := s.cores, races := s.races, nextId := s.nextId } : State) = s) ∧
    (isPoisoned s.poison k o.bytes = true → answers i s fun t =>
      (∃ r, t.cx.reports = s.cx.reports ++ [r] ∧ r.cause.code = 0x111 ∧
        r.cause.addr = poisonVa s.poison k o.bytes (theOp s i).ea) ∧
      t.cx.pend = s.cx.pend ∧ t.mem = s.mem)) ∧
  (∀ (s : State) (i : Instr) (h : Head) (f : FM) (n : Nat) (v : Vec), storeForm s i = some (h, f, n, v) → i.fieldsOk = true →
    opRuns s h = true → opCause i s = none → f.space.toNat ≤ 1 → s.memOk → s.actsNow i [((spadProbe s (theOp s i)).key, n)] = true →
    answers i s fun t =>
      (∀ a, readByte t.mem a = storedByte s.mem (spadProbe s (theOp s i)).key n v.toNat a) ∧ t.cores = s.cores ∧
      ({ t with mem := s.mem, poison := s.poison, races := s.races, issue := s.issue } : State) = s)

/-- 08 R196, R197, R201: AMO, CAS and BARR on a scratchpad word that nothing earlier holds back write the new word in one
step; every other byte of memory reads as before. The registers that receive the old word become pending, with the value
to land. A breach of the phase discipline that the word shows (log entry 79) leaves free counts. -/
def Obligations.ScratchpadAtomicsReplaceTheirWord : Prop :=
  ∀ (s : State) (i : Instr) (h : Head) (f : FM) (n : Nat) (g : Nat → Nat → Prop) (l : List Reg),
    atomicForm s i (s.freeVal 32 2800) = some (h, f, n, g, l) →
    i.fieldsOk = true → opRuns s h = true → opCause i s = none → f.space.toNat ≤ 1 → s.memOk → (∀ r ∈ s.reqs, r.id < s.nextId) →
    let k := (spadProbe s (theOp s i)).key
    s.actsNow i [(k, n)] = true → isPoisoned s.poison k n = false → answers i s fun t =>
      (∃ w, g (readNat s.mem k n) w ∧ ∀ a, readByte t.mem a = storedByte s.mem k n w a) ∧
      (l = [] → t.reqs = s.reqs ∧ t.cx.score = s.cx.score) ∧
      (l ≠ [] → ∃ r, t.reqs = s.reqs ++ [r] ∧ r.phase = .performed ∧ r.dests = l ∧ r.res = element f.ty (readNat s.mem k n) ∧
        t.cx.score = s.cx.score ++ l.map fun d => ⟨r.id, d⟩) ∧
      t.cx.acqTime = acquired s i ∧ t.cx.pend = s.cx.pend ∧ (∀ r, t.cx.getReg r = s.cx.getReg r) ∧ CtxOnly s t ∧
      t.dies = s.dies ∧ t.streams = s.streams

/-- 08 R178, R185 to R188, R193, R196 to R198, R200, R201, 10 R256: an access of device memory or of the on-chip map that
raises no cause, and a store, atomic, arming or flag post of a scratchpad that an earlier access holds back, becomes one
request with the address, space, path, data and destinations of the operation; its destinations become pending. Memory,
the registers and everything else stay. -/
def Obligations.FarAccessesBecomeRequests : Prop :=
  ∀ (s : State) (i : Instr) (o : Asked), askedOf s i = some o → i.fieldsOk = true → opRuns s o.h = true → opCause i s = none →
    answers i s fun t =>
      (∃ r, t.reqs = s.reqs ++ [r] ∧ s.nextId ≤ r.id ∧ r.id < t.nextId ∧ r.core = s.cur.core ∧ r.ctx = s.cur.ctx ∧
        r.acc = s.cur.acc ∧ r.slot = o.h.slot ∧ r.instr = i ∧ r.path = o.path ∧ r.va = o.va ∧ r.space = o.space ∧
        r.data = o.data ∧ r.idx = o.idx ∧ r.mask = o.mask ∧ r.dests = o.dests ∧ r.phase = .issued ∧
        r.asid = (s.stream s.cx.stream).asid ∧ r.tenant = (s.stream s.cx.stream).tenant ∧ r.budget = s.cx.retry.toNat ∧
        t.cx.score = s.cx.score ++ o.dests.map fun d => ⟨r.id, d⟩) ∧
      Reserved s t o.push ∧
      ({ t.cx with score := s.cx.score, q := s.cx.q, wrote := s.cx.wrote } : Ctx) = s.cx ∧ CtxOnly s t ∧
      ({ t with cores := s.cores, reqs := s.reqs, nextId := s.nextId, issue := s.issue } : State) = s

namespace Sys2Proof.Claims
open Sys2Proof.Machine

/-! ### Requests at their MTU (08 R186 to R199, 18 R393 to R409) -/

/-- A place whose bytes this package holds. -/
def Local (p : Place) : Prop := (∃ d a l, p = .dev d a l) ∨ ∃ a, p = .host a

/-- The request reaches its bytes: they lie in one piece of memory, at `p`, and the race detector reports nothing. -/
def Reaches (s : State) (r : Req) (p : Place) : Prop :=
  r.space = 2 ∧ Local p ∧
  s.rangeAt r.core.die r.asid r.va (reqBytes r) (reqNeeds r).1 (reqNeeds r).2.1 (reqNeeds r).2.2 = .ok [(p, reqBytes r)] ∧ s.raceIn r (racedPieces [(p, reqBytes r)]) = none ∧
  isPoisoned s.poison p.key (reqBytes r) = false

def plainLoad (i : Instr) : Bool := match i with | .ld _ _ | .ldg _ _ | .ldv _ _ | .ldgv _ _ | .ldvs _ _ => true | _ => false
def plainStore (i : Instr) : Bool := match i with | .st _ _ | .stg _ _ | .stv _ _ | .stgv _ _ | .stvs _ _ => true | _ => false
def atomicOp (i : Instr) : Bool := match i with | .amo _ _ | .cas _ _ | .barr _ _ => true | _ => false

/-- The request has been performed: its results wait to land. -/
def Performed (s t : State) (id : Nat) (res : Vec) (res2 : Word) : Prop :=
  ∃ r q, s.req? id = some r ∧ t.req? id = some q ∧ q = { r with phase := .performed, res := res, res2 := res2, replay := false }

/-- 08 R188: the word of a full/empty operation: the place of its data, the byte of its tag and the two bits. -/
structure TagWord where
  d : BitVec 2
  a : Nat
  l : Leaf
  deriving DecidableEq, Repr

def TagWord.key (w : TagWord) : Nat := hbmKey w.d w.a
def TagWord.tag (w : TagWord) (s : State) (r : Req) : Nat × Nat := s.tagAt w.d w.l (vaOff r.va)
def TagWord.full (w : TagWord) (s : State) (r : Req) : Bool := (readByte s.mem (w.tag s r).1).getLsbD (w.tag s r).2
def TagWord.waited (w : TagWord) (s : State) (r : Req) : Bool := (readByte s.mem (w.tag s r).1).getLsbD ((w.tag s r).2 + 1)

/-- A byte of memory after the FULL bit of the word has been set to `v`. -/
def taggedByte (s : State) (r : Req) (w : TagWord) (v : Bool) (x : Nat) : Byte :=
  let b := readByte s.mem (w.tag s r).1
  if x = (w.tag s r).1 then (if v then b ||| 1#8 <<< (w.tag s r).2 else b &&& ~~~(1#8 <<< (w.tag s r).2)) else readByte s.mem x

/-- A request of a full/empty operation reaches its word, in a tagged page; neither the word nor its tag is poisoned, and the
tag lies in no bucket of the firmware. -/
def ReachesWord (s : State) (r : Req) (w : TagWord) : Prop :=
  Reaches s r (.dev w.d w.a w.l) ∧ w.l.pte.tagged = true ∧ isPoisoned s.poison (w.tag s r).1 1 = false ∧
  bucketByte (w.tag s r).1 = false ∧
  ((w.tag s r).1 < w.key ∨ w.key + 8 ≤ (w.tag s r).1)

/-- An attempt is made: the first one, or a retry. -/
def Attempts (s : State) (id : Nat) (r : Req) (e : Instr) : Prop :=
  s.req? id = some r ∧ ((e = .deviceMemoryRequest id ∧ s.reqReady r = true) ∨ (e = .feRetry id ∧ s.retryDue r = true))

/-- 08 R199: the arrival word after a burst of `b` bytes. -/
def countedWord (w : BitVec 128) (b : Nat) : BitVec 128 :=
  let target := w.extractLsb' 0 32
  let sum := (w.extractLsb' 32 32).toNat + b
  let gen := w.extractLsb' 64 32
  let fl := w.extractLsb' 96 32
  if target ≠ 0 ∧ target.toNat ≤ sum then
    (if target.toNat < sum then fl ||| 2 else fl) ++ (gen + 1) ++ BitVec.ofNat 32 (sum - target.toNat) ++ (if fl.getLsbD 0 then target else 0)
  else fl ++ gen ++ BitVec.ofNat 32 sum ++ target

/-- The first arrival that waits for a core. -/
def firstArrival (c : CoreRef) (l : List Arrival) : Option Arrival := l.find? fun a => a.core = c

end Sys2Proof.Claims

open Sys2Proof Sys2Proof.Machine Sys2Proof.Claims

/-- 08 R183, R196, R197, R201 with 18 R393: a load, store or atomic that reaches its bytes in device or host memory reads
them, or writes them and no other byte, in one step; a result waits to land. -/
def Obligations.FarAccessesActOnTheirBytes : Prop :=
  ∀ (s : State) (id : Nat) (r : Req) (p : Place), s.req? id = some r → s.reqReady r = true → Reaches s r p →
    let n := reqBytes r
    let old := readNat s.mem p.key n
    (plainLoad r.instr = true → r.dests ≠ [] → answers (.deviceMemoryRequest id) s fun t =>
      Performed s t id (loadValue r.instr old) 0 ∧ t.mem = s.mem ∧ t.cores = s.cores) ∧
    (plainStore r.instr = true → r.dests = [] → s.memOk → answers (.deviceMemoryRequest id) s fun t =>
      t.req? id = none ∧ ∀ a, readByte t.mem a = storedByte s.mem p.key n r.data.toNat a) ∧
    (atomicOp r.instr = true → p.isDev = true → s.memOk → answers (.deviceMemoryRequest id) s fun t =>
      (∀ a, readByte t.mem a = storedByte s.mem p.key n (atomicValue r.instr old r.data.toNat r.idx.toNat s.breachBits) a) ∧
      (r.dests ≠ [] → Performed s t id (loadValue r.instr old) 0) ∧ (r.dests = [] → t.req? id = none))

/-- 08 R185, R186: GATH delivers 0 for an element that is not resident and the element's word for one that is, and returns
which ones are; an element of a resident page that may not be read reports the memory-permission trap, and the GATH is not
performed; no byte of memory changes. 08 R187: SCAT writes its elements in ascending order, so that of elements with a
common byte the highest stands; every other byte of memory reads as before. -/
def Obligations.GathersReadAndScattersWriteTheirElements : Prop :=
  (∀ (s : State) (id : Nat) (r : Req) (h : Head) (f : F4), s.req? id = some r → s.reqReady r = true → r.instr = .gath h f → r.dests ≠ [] →
    let p := fun (e : Nat) => s.placeAt r.core.die r.asid (elementAddr r.va r.idx e) true false false
    let resident := fun (e : Nat) => (s.placeAt r.core.die r.asid (elementAddr r.va r.idx e) false false false).isDev
    ((∀ e, e < 64 → r.mask.getLsbD e = true →
      ((p e).isDev = true ∧ isPoisoned s.poison (p e).key 4 = false ∧ s.raceIn r (racedPieces [(p e, 4)]) = none) ∨
      (∃ w, p e = .held w) ∨ (∃ a, p e = .host a) ∨ (∃ n, p e = .bad n ∧ resident e = false)) →
    answers (.deviceMemoryRequest id) s fun t => ∃ v k, Performed s t id v k ∧ t.mem = s.mem ∧
      ∀ e, e < 64 → k.getLsbD e = (r.mask.getLsbD e && (p e).isDev) ∧
        v.extractLsb' (32 * e) 32 = (if r.mask.getLsbD e && (p e).isDev then BitVec.ofNat 32 (readNat s.mem (p e).key 4) else 0)) ∧
    (∀ e, e < 64 → r.mask.getLsbD e = true → p e = .bad 1 → resident e = true → (s.ctx r.core r.ctx).life = .running →
      answers (.deviceMemoryRequest id) s fun t => t.req? id = none ∧ t.mem = s.mem ∧
        ∃ x ∈ (t.ctx r.core r.ctx).reports, x.id = id ∧ x.elem = e ∧ x.cause.code = 0x112 ∧
          x.cause.addr = elementAddr r.va r.idx e ∧ x.cause.info = 0x10000)) ∧
  (∀ (s : State) (id : Nat) (r : Req) (h : Head) (f : F4), s.req? id = some r → s.reqReady r = true → r.instr = .scat h f → r.dests = [] →
    s.memOk →
    let p := fun (e : Nat) => s.placeAt r.core.die r.asid (elementAddr r.va r.idx e) false true false
    (∀ e, e < 64 → r.mask.getLsbD e = true → Local (p e) ∧ s.raceIn r (racedPieces [(p e, 4)]) = none) →
    answers (.deviceMemoryRequest id) s fun t => t.req? id = none ∧ ∀ a,
      ((∀ e, e < 64 → r.mask.getLsbD e = true → a < (p e).key ∨ (p e).key + 4 ≤ a) → readByte t.mem a = readByte s.mem a) ∧
      (∀ e, e < 64 → r.mask.getLsbD e = true → (p e).key ≤ a → a < (p e).key + 4 →
        (∀ g, e < g → g < 64 → r.mask.getLsbD g = true → a < (p g).key ∨ (p g).key + 4 ≤ a) →
        readByte t.mem a = BitVec.ofNat 8 (lane 32 r.data e / 256 ^ (a - (p e).key))))

/-- 08 R188, R191, R192: an attempt that succeeds acts on data and FULL bit in one step and on nothing else in memory. LDW
and LDT change nothing; LDC and TAGE empty the word; STF and STS fill it. The word has no parked record here. 08 R189,
R192: an attempt of LDW, LDC or STF that does not succeed leaves memory unchanged. While retries are left the next one is
due 64 cycles later; else the operation ends and its context has the retry-exhausted cause with EA. -/
def Obligations.FullEmptyAttemptsActOrRetry : Prop :=
  (∀ (s : State) (id : Nat) (r : Req) (e : Instr) (w : TagWord), Attempts s id r e → ReachesWord s r w → s.memOk →
    let word := readNat s.mem w.key 8
    let stored := fun (x : Nat) => if w.key ≤ x ∧ x < w.key + 8 then BitVec.ofNat 8 (r.data.toNat / 256 ^ (x - w.key)) else taggedByte s r w true x
    (∀ h f, r.instr = .ldw h f → r.dests ≠ [] → w.full s r = true → answers e s fun t =>
      Performed s t id (element f.ty word) 0 ∧ t.mem = s.mem) ∧
    (∀ h f, r.instr = .ldt h f → r.dests ≠ [] → answers e s fun t =>
      Performed s t id (element f.ty word) (BitVec.ofNat 64 (2 * (w.waited s r).toNat + (w.full s r).toNat)) ∧ t.mem = s.mem) ∧
    (∀ h f, r.instr = .ldc h f → r.dests ≠ [] → w.full s r = true → w.waited s r = false → s.reservedByOther w.d r = false →
      answers e s fun t => Performed s t id (element f.ty word) 0 ∧ ∀ x, readByte t.mem x = taggedByte s r w false x) ∧
    (∀ h f, r.instr = .tage h f → r.dests = [] → w.waited s r = false → answers e s fun t =>
      t.req? id = none ∧ (∀ x, readByte t.mem x = taggedByte s r w false x) ∧
      (t.die w.d).resvs = (s.die w.d).resvs.filter fun v => !(v.asid == r.asid && v.word == wordOf r.va)) ∧
    (∀ h f, r.instr = .stf h f → r.dests = [] → w.full s r = false → w.waited s r = false → answers e s fun t =>
      t.req? id = none ∧ ∀ x, readByte t.mem x = stored x) ∧
    (∀ h f, r.instr = .sts h f → r.dests = [] → w.waited s r = false → answers e s fun t =>
      t.req? id = none ∧ ∀ x, readByte t.mem x = stored x)) ∧
  (∀ (s : State) (id : Nat) (r : Req) (e : Instr) (w : TagWord), Attempts s id r e → ReachesWord s r w →
    ((∃ h f, r.instr = .ldw h f) ∧ w.full s r = false ∨ (∃ h f, r.instr = .stf h f) ∧ w.full s r = true ∨
      (∃ h f, r.instr = .ldc h f) ∧ (w.full s r = false ∨ s.reservedByOther w.d r = true)) →
    (0 < r.budget → answers e s fun t =>
      t.req? id = some { r with phase := .retrying (s.time + 64), budget := r.budget - 1, failed := true, admitted := true } ∧ t.mem = s.mem) ∧
    (r.budget = 0 → (s.ctx r.core r.ctx).life = .running → answers e s fun t =>
      t.req? id = none ∧ t.mem = s.mem ∧
      ∃ x, (t.ctx r.core r.ctx).reports = (s.ctx r.core r.ctx).reports ++ [x] ∧ x.cause.code = 0x110 ∧ x.cause.addr = r.va ∧
        x.cause.info.getLsbD 63 = true ∧ x.data = r.data.setWidth 64))

/-- 08 R194: PARK answers 0 where the word is already as its waiter wants it and 3 where the bucket is full; else its
record stands, WAITED is set, a read-modify-write of its unit (10 R253, R269), and its result stays pending. 08 R191, R195: with one record of the word parked, a fill
wakes a reader or a consumer with 1, and a consumer gets the reservation of 64 cycles; WAKE wakes a record of its kind
with 2. The record goes, and WAITED with it. -/
def Obligations.ParksLeaveRecordsThatAreWoken : Prop :=
  (∀ (s : State) (id : Nat) (r : Req) (w : TagWord) (h : Head) (f : FM), s.req? id = some r → s.reqReady r = true → ReachesWord s r w →
    r.instr = .park h f → r.dests ≠ [] → s.memOk →
    let kind := parkKindOf f
    let bucket := (s.die w.d).bucket (bucketOf r.asid r.va)
    (w.full s r = (kind != 2) → answers (.deviceMemoryRequest id) s fun t => Performed s t id 0 0 ∧ t.mem = s.mem) ∧
    (w.full s r ≠ (kind != 2) → 63 ≤ bucket.recs.length → answers (.deviceMemoryRequest id) s fun t => Performed s t id 3 0 ∧ t.mem = s.mem) ∧
    (w.full s r ≠ (kind != 2) → bucket.recs.length < 63 →
      s.raceIn { r with turn := s.nextId } (racedPieces [(.dev w.d w.a w.l, 8)]) = none → answers (.deviceMemoryRequest id) s fun t =>
      t.req? id = some { r with phase := .parked, turn := s.nextId } ∧ w.waited t r = true ∧ w.full t r = w.full s r ∧
      (∀ x, x ≠ (w.tag s r).1 → bucketByte x = false → readByte t.mem x = readByte s.mem x) ∧
      ∃ x, ((t.die w.d).bucket (bucketOf r.asid r.va)).recs = bucket.recs ++ [x] ∧ x.kind = kind ∧ x.req = id ∧
        x.word = wordOf r.va ∧ x.asid = r.asid ∧ x.seq = bucket.next.setWidth 32 ∧ x.pkg = s.coord)) ∧
  (∀ (s : State) (id : Nat) (r : Req) (w : TagWord) (x : ParkRec) (q : Req), s.req? id = some r → s.reqReady r = true → ReachesWord s r w →
    s.memOk → w.waited s r = true → (s.die w.d).recsOf r.asid r.va = [x] → x.req ≠ id → s.req? x.req = some q → r.dests = [] →
    (∀ h f, r.instr = .sts h f → (x.kind = 0 ∨ x.kind = 1) → answers (.deviceMemoryRequest id) s fun t =>
      t.req? x.req = some { q with phase := .performed, res2 := 1 } ∧ w.waited t r = false ∧ w.full t r = true ∧
      (t.die w.d).recsOf r.asid r.va = [] ∧
      (x.kind = 1 → (⟨wordOf r.va, r.asid, x.core, x.ctx, s.time + 64⟩ : WordResv) ∈ (t.die w.d).resvs)) ∧
    (∀ h f, r.instr = .wake h f → x.kind = parkKindOf f → answers (.deviceMemoryRequest id) s fun t =>
      t.req? x.req = some { q with phase := .performed, res2 := 2 } ∧ w.waited t r = false ∧ w.full t r = w.full s r ∧
      (t.die w.d).recsOf r.asid r.va = [] ∧ (t.die w.d).resvs = (s.die w.d).resvs))

/-- 04 R101, R102, 08 R182, R186, R188, R194: the results of a performed request land in their registers, which leave the
scoreboard; no other register and no byte of memory changes, but for ACQTIME where the operation is an acquire (10 R267). -/
def Obligations.PerformedResultsLand : Prop :=
  ∀ (s : State) (id : Nat) (r : Req), s.req? id = some r → r.phase = .performed →
    let c := s.ctx r.core r.ctx
    landsAfter c r = false → s.parkedBefore r = false → (∀ p ∈ c.pend, p.reg ∉ r.dests) →
    answers (.scoreboardArrival id) s fun t =>
      let u := t.ctx r.core r.ctx
      t.mem = s.mem ∧ t.req? id = none ∧ (∀ e ∈ u.score, e.id = id → e.reg ∉ r.dests) ∧ u.pend = c.pend ∧
      (∀ d i, r.dests = [.s d] → d ≠ 0 → (r.instr = i ∧ (∃ h f, i = .ld h f ∨ i = .ldw h f ∨ i = .ldc h f ∨ i = .ldg h f ∨ i = .amo h f ∨ i = .cas h f)) →
        u.getReg (.s d) = (r.res.setWidth 64).setWidth 2048 ∧ ∀ x, x ≠ .s d → x ≠ .sr 0x46 → u.getReg x = c.getReg x) ∧
      (∀ d h f, r.dests = [.s d] → d ≠ 0 → r.instr = .park h f →
        u.getReg (.s d) = ((if r.res2 = 0 then r.res.setWidth 64 else r.res2)).setWidth 2048) ∧
      (∀ d h f, r.dests = [.s d, .s (d + 1)] → d ≠ 0 → d + 1 ≠ 0 → r.instr = .ldt h f →
        u.getReg (.s d) = (r.res.setWidth 64).setWidth 2048 ∧ u.getReg (.s (d + 1)) = r.res2.setWidth 2048) ∧
      (∀ d h f, r.dests = [.v d] → (r.instr = .ldv h f ∨ r.instr = .ldgv h f ∨ r.instr = .ldvs h f) →
        u.getReg (.v d) = r.res ∧ ∀ x, x ≠ .v d → x ≠ .sr 0x46 → u.getReg x = c.getReg x) ∧
      (∀ d k h f, r.dests = [.v d, .k k] → r.instr = .gath h f →
        u.getReg (.v d) = merge (c.getReg (.v d)) r.res (chunkMask r.mask) ∧ (k ≠ 0 → u.getReg (.k k) = r.res2.setWidth 2048))

/-- 08 R192, 18 R399, R401, R403, R409: at the end of its time a word's reservation, a lease or a stack's quiesce ends; a
request that has waited longer than FAULTWAIT for a frame is not performed and its context has the memory-permission
cause; a migration that is complete leaves the list, and one outward gives its frame back, at the end of the reserve: the model's own
choice (log entry 17). -/
def Obligations.ExpiredTimesEndWhatTheyHold : Prop :=
  ∀ (s : State) (d : BitVec 2),
    (∀ asid word, answers (.reservationExpiry d asid word) s fun t =>
      (t.die d).resvs = (s.die d).resvs.filter (fun r => !(r.asid == asid && r.word == word && decide (r.till ≤ s.time))) ∧
      t.mem = s.mem ∧ t.cores = s.cores ∧ t.reqs = s.reqs) ∧
    (∀ asid page, answers (.tlbLeaseExpiry d asid page) s fun t =>
      (t.die d).tlb = (s.die d).tlb.filter (fun x => !(x.asid == asid && x.page == page && decide (x.till ≤ s.time))) ∧
      t.mem = s.mem ∧ t.cores = s.cores ∧ t.reqs = s.reqs) ∧
    (∀ (k : BitVec 1) (x : Nat), (s.die d).quiesce.getD k.toNat none = some x → x ≤ s.time → answers (.splitQuiesceEnd d k) s fun t =>
      (t.die d).quiesce.getD k.toNat none = none ∧ t.mem = s.mem ∧ t.cores = s.cores ∧ t.reqs = s.reqs) ∧
    (∀ id r x, s.req? id = some r → r.phase = .held (.frames x) → x + (s.die (vaDie r.heldVa)).faultWait < s.time → r.instr ≠ .nop →
      r.office = false → (s.ctx r.core r.ctx).life = .running → answers (.faultwaitExpiry id) s fun t =>
        t.req? id = none ∧ t.mem = s.mem ∧
        ∃ y, (t.ctx r.core r.ctx).reports = (s.ctx r.core r.ctx).reports ++ [y] ∧ y.cause.code = 0x112 ∧ y.cause.addr = r.heldVa ∧
          y.cause.info = 0x50000) ∧
    (∀ asid page m, ((s.die d).migr.find? fun m => m.asid == asid && m.page == page) = some m →
      answers (.migrationComplete d asid page) s fun t =>
        (t.die d).migr = (s.die d).migr.filter (fun m => !(m.asid == asid && m.page == page)) ∧
        (t.die d).reserve = (s.die d).reserve ++ (if m.inward then [] else [Pte.addr m.pte]) ∧ t.cores = s.cores)

/-- 08 R199: the first burst that waits for a core is counted in its arrival word: those 16 bytes and no others change. -/
def Obligations.ArrivalWordsCountTheirBytes : Prop :=
  ∀ (s : State) (c : CoreRef) (a : Arrival), firstArrival c s.arrivals = some a → a.err = false → s.memOk →
    answers (.arrivalWordUpdate c) s fun t =>
      let k := spadKey c.die c.core a.off
      (∀ x, readByte t.mem x = storedByte s.mem k 16 (countedWord (BitVec.ofNat 128 (readNat s.mem k 16)) a.bytes).toNat x) ∧
      t.arrivals.length + 1 = s.arrivals.length ∧ t.cores = s.cores ∧ t.reqs = s.reqs ∧ t.dies = s.dies

namespace Sys2Proof.Claims
open Sys2Proof.Machine

/-! ### Synchronisation (08 R198 to R207) -/

/-- 08 R198: no wait that stands on the flag could pass with a count of `v`. -/
def NoneServed (k : Core) (f : BitVec 5) (v : BitVec 16) : Prop :=
  ∀ w ∈ k.fwaits, w.flag = f → w.granted = true ∨ v.toNat < w.n.toNat

def flag (k : Core) (f : BitVec 5) : BitVec 16 := k.f.getD f.toNat 0

/-- The requests of the current context that `p` picks. -/
def ownReqs (s : State) (p : Req → Bool) : List Req := s.reqs.filter fun r => r.mine s.cur.core s.cur.ctx && p r
/-- Its loads and other accesses of the LS path, and the acquires and releases among them (08 R204, 10 R256, R259). -/
def lsReqs (s : State) : List Req := ownReqs s fun r => r.path == 0
def lsLoads (s : State) : List Req := (lsReqs s).filter fun r => !r.dests.isEmpty
def lsSyncs (s : State) : List Req := (lsReqs s).filter fun r => isAcquire r.instr || isRelease r.instr
/-- 10 R261: a store of it stands in a replay queue. -/
def replaying (s : State) : Bool := s.replays s.cur.core s.cur.ctx
/-- 08 R202, R205, 10 R258: its accesses, commands, array operations and landed bytes not yet counted that a fence over the paths
of a mask waits for. -/
def pathIds (s : State) (mask : BitVec 8) : List Nat :=
  (ownReqs s fun r => mask.getLsbD r.path.toNat).map (·.id) ++
  (s.cc.cmds.filter fun k => k.ctx == s.cur.ctx && mask.getLsbD k.path.toNat).map (·.id) ++
  (s.cc.arrayQ.filter fun o => o.ctx == s.cur.ctx && mask.getLsbD 3 && accessesMx o.instr).map (·.id) ++
  (s.arrivals.filter fun a => a.agent.ref == s.cur.ref && mask.getLsbD a.path.toNat).map (·.cmd)
/-- The holds of the current context that still hold something back. -/
def liveHolds (s : State) : List HoldRec := s.cx.holds.filter fun h => h.ids.any (s.pendingId s.cur.core)

/-- What the slice that executes waits for. -/
def waitOf (s : State) : Wait := if s.cur.acc then s.cx.waitA else s.cx.waitX

/-- A fence that waits has become a request: it makes no access, and waits for `ids`. -/
def FenceReq (s t : State) (path : BitVec 3) (ids : List Nat) : Prop :=
  ∃ r, t.reqs = s.reqs ++ [r] ∧ r.id = s.nextId ∧ r.waits = ids ∧ r.dests = [] ∧ isFence r.instr = true ∧ r.path = path ∧
    r.core = s.cur.core ∧ r.ctx = s.cur.ctx

/-- 08 R202, R205: a fence over the paths of a mask: with nothing before it, it has completed; else its completion is a
request, and later accesses on those paths wait for that and for what it names. -/
def Fenced (s t : State) (mask : BitVec 8) : Prop :=
  (pathIds s mask = [] → replaying s = false →
    t.cx.acqTime = s.time ∧ t.cx.gsAcqTime = (if mask.getLsbD 4 then s.time else s.cx.gsAcqTime) ∧ t.cx.holds = s.cx.holds ∧ t.reqs = s.reqs) ∧
  (pathIds s mask ≠ [] ∨ replaying s = true →
    FenceReq s t 7 (pathIds s mask) ∧ t.cx.holds = liveHolds s ++ [⟨mask, true, s.nextId :: pathIds s mask⟩])

/-- 10 R256, R259: a wait that has passed: an acquire, which completes once the acquires and releases before it have, and then a
fence over its paths. -/
def WaitPassed (s t : State) (mask : BitVec 8) : Prop :=
  t.mem = s.mem ∧
  (lsSyncs s = [] → mask = 0 → t.reqs = s.reqs ∧ t.cx = { s.cx with acqTime := max s.cx.acqTime s.time }) ∧
  (lsSyncs s = [] → mask ≠ 0 → Fenced s t mask) ∧
  (lsSyncs s ≠ [] → mask = 0 → FenceReq s t 0 ((lsSyncs s).map (·.id)) ∧ t.cx = s.cx)

/-- Nothing but the current context differs. -/
def OnlyCx (s t : State) : Prop := CtxOnly s t ∧ ({ t with cores := s.cores } : State) = s

/-! ### Matrix operations (09 R209 to R228) -/

/-- An M-slot operation that enters the array queue: its head, its `mp`, scalar and vectors, its destinations, and whether
it takes the Triptych and whether its slice waits for it. -/
structure ArrayForm where
  h : Head
  mp : BitVec 128
  sA : Word
  vs : List Vec
  dests : List Reg
  owns : Bool
  blocks : Bool

/-- `n` vector registers from `v(d)` on. -/
def vRegs (d n : Nat) : List Reg := (List.range n).map fun j => .v (BitVec.ofNat 5 (d + j))

/-- 09 R213 to R219, R221, R223, R226 to R228: the operations of the array queue. -/
def arrayForm (s : State) (i : Instr) : Option ArrayForm :=
  let mp := fun (f : FX) => s.cc.mp.getD f.mp.toNat 0
  let sA := fun (h : Head) (f : FX) => s.readS h f.cnt 1
  let old := fun (h : Head) (f : FX) => (vRegs f.vec.toNat (f.cnt.toNat + 1)).map fun r => s.readReg r (saltOf s h.slot 0)
  match i with
  | .mlds h f | .mmv h f => some ⟨h, mp f, 0, [], [], false, false⟩
  | .mms h f | .mmsp h f => some ⟨h, mp f, 0, old h f, vRegs f.vec.toNat (f.cnt.toNat + 1), false, false⟩
  | .accrd h f =>
    let n := ((f.imm.extractLsb' 0 4).toNat + 1) * (if (s.cx.fmtNow s.cur.acc).getLsbD 15 then 1 else 2)
    some ⟨h, 0, sA h f, [], vRegs f.vec.toNat (min n (32 - f.vec.toNat)), false, false⟩
  | .accclr h _ => some ⟨h, 0, 0, [], [], false, false⟩
  | .accscl h f => some ⟨h, 0, sA h f, [], [], false, false⟩
  | .txbind h f => some ⟨h, 0, 0, [s.readReg (.v (f.vec.setWidth 5)) (saltOf s h.slot 0)], [], true, false⟩
  | .txstep h f | .txfin h f | .txsave h f => some ⟨h, 0, sA h f, [], [], false, true⟩
  | .txrest h f => some ⟨h, 0, sA h f, [], [], true, true⟩
  | .txabort h _ => some ⟨h, 0, 0, [], [], false, false⟩
  | _ => none

/-- Some entry of a FIFO, or none. -/
def entryAt (l : List FifoEntry) (j : Nat) : Vec := ((l[j]?).map (·.val)).getD 0
def markedAt (l : List FifoEntry) (j : Nat) : Bool := ((l[j]?).map (·.poison)).getD false

/-- An operation stands at the head of a core's array queue, with nothing taken yet, and no fence and no earlier result of its
destinations holds it back. -/
def AtHead (s : State) (c : CoreRef) (o : ArrayOp) (rest : List ArrayOp) : Prop :=
  (s.core c).arrayQ = o :: rest ∧ (∀ x ∈ rest, x.id ≠ o.id) ∧ o.got = [] ∧ o.gotB = [] ∧ o.gotC = [] ∧ s.arrayWaits c o = false

/-! ### Engine commands (09 R229 to R249) -/

/-- A C-slot operation: its head, its fields, its engine, its path and whether its slice waits. -/
structure EngineForm where
  h : Head
  f : FC
  eng : EngineKind
  path : BitVec 3
  blocks : Bool

/-- 09 R229, R231: which engine takes an operation. -/
def engineForm (i : Instr) : Option EngineForm :=
  let ce := fun (f : FC) => if f.eng = 0 then EngineKind.ce0 else .ce1
  match i with
  | .cp h f => some (if f.eng = 2 then ⟨h, f, .bce, 2, false⟩ else ⟨h, f, ce f, 1, false⟩)
  | .cpq h f => some ⟨h, f, ce f, 3, false⟩
  | .lsend h f => some ⟨h, f, ce f, 5, false⟩
  | .wstr h f => some ⟨h, f, .wsu, 3, false⟩
  | .pgreq h f => some ⟨h, f, .pages, 7, false⟩
  | .enq h f | .frank h f => some ⟨h, f, .queues, 7, false⟩
  | .kvwalk h f | .kvappend h f | .kvseal h f | .kvtrunc h f | .bmap h f => some ⟨h, f, .walker, 6, false⟩
  | .strmrd h f | .strmcommit h f | .strmin h f => some ⟨h, f, .queues, 7, true⟩
  | _ => none

/-- Every byte of memory is as before. -/
def bytesSame (s t : State) : Prop := ∀ a, readByte t.mem a = readByte s.mem a

/-- 09 R248, R249: the registers that a stream instruction writes. -/
def streamRegs (i : Instr) : List Reg :=
  match i with
  | .strmcommit _ f => [.p (f.path.setWidth 4), .s f.b]
  | .strmin _ f => [.p (f.path.setWidth 4)]
  | _ => []

/-- 09 R231, R233: a command is at work. -/
def AtWork (s : State) (c : CoreRef) (m : Command) : Prop :=
  s.cmd? c m.id = some m ∧ m.started = true ∧ m.done = false ∧ m.susp = false ∧ (s.core c).freeze = none

/-- 09 R233: the next element of a copy lies in the core's scratchpad, aligned, and no byte anywhere is poisoned; and its value. -/
def FromScratchpad (s : State) (m : Command) : Prop :=
  let d := copyDesc m.desc
  let a := d.srcAt m.pos
  m.pos < d.total ∧ a.toNat % min d.esize 8 = 0 ∧ d.ssp = 0 ∧ a.toNat + d.esize ≤ 0xC0000 ∧ s.poison = []
def nextElement (s : State) (c : CoreRef) (m : Command) : Nat :=
  let d := copyDesc m.desc
  readNat s.mem (spadKey c.die c.core (d.srcAt m.pos).toNat) d.esize

/-- 09 R236, R238: what a CPQ or LSEND has packed with its next element, whether that goes on now, and its poison. -/
def packed (s : State) (c : CoreRef) (m : Command) : Vec :=
  (if m.fill = 0 then 0 else m.part) ||| BitVec.ofNat 2048 (nextElement s c m * 2 ^ (8 * m.fill))
def goesOn (m : Command) : Prop := m.fill + (copyDesc m.desc).esize = 256 ∨ (copyDesc m.desc).total ≤ m.pos + 1
def packedPoison (m : Command) : Bool := m.fill != 0 && m.partPoison

/-- 09 R237: byte `i` of the entry that a compressed body at `k` stands for, and the bytes of a body. -/
def wstrByte (m : Memory) (k mode i : Nat) : Byte :=
  let bit := fun (j : Nat) => (readByte m (k + j / 8)).getLsbD (j % 8)
  match mode with
  | 0 => readByte m (k + i)
  | 1 => readByte m k
  | 2 => readByte m (k + (readByte m (k + 16 + i / 2)).toNat / (if i % 2 = 0 then 1 else 16) % 16)
  | _ => if bit i then readByte m (k + 32 + ((List.range i).filter bit).length) else 0
def wstrBody (m : Memory) (k mode : Nat) : Nat :=
  match mode with
  | 0 => 256
  | 1 => 1
  | 2 => 144
  | _ => 32 + ((List.range 256).filter fun j => (readByte m (k + j / 8)).getLsbD (j % 8)).length

/-- 12 R314, R317 to R325: the steps of the folio commands that answer nothing. -/
def folioOf (s : State) (c : CoreRef) (m : Command) : Option (Fol Unit) :=
  match m.instr with
  | .kvappend _ _ => some (kvAppend (s.who c m) m.sA (m.sB.extractLsb' 0 16).toNat (m.sB.extractLsb' 16 48).toNat
      ((lanes 16 m.desc).take 128) ((lanes 16 m.part).take 128))
  | .kvseal _ f => some (kvSeal (s.who c m) m.sA (f.tag.getLsbD 0) m.sB)
  | .bmap _ _ => some (kvBmap (s.who c m) m.sA m.desc (m.sB.extractLsb' 0 7).toNat)
  | _ => none

/-- A KVWALK may start: so may the command, a turn of its tenant runs, and nothing of it is on its way. -/
def MayStart (s : State) (c : CoreRef) (m : Command) : Prop :=
  s.cmdMayStart c m = true ∧ s.inTurn c.die (s.cmdStream c m).tenant = true ∧ ∀ p ∈ s.packets, p.who = .unit c m.id → p.wr = false

/-- A step of the walker or of a stream instruction may be made: a turn of its tenant runs, and no write of the command is on
its way to another package. -/
def MayStep (s : State) (c : CoreRef) (m : Command) : Prop :=
  AtWork s c m ∧ s.inTurn c.die (s.cmdStream c m).tenant = true ∧ (∀ p ∈ s.packets, p.who = .unit c m.id → p.wr = false) ∧
  ∀ r ∈ streamRegs m.instr, (s.ctx c m.ctx).awaits m.id r = false

end Sys2Proof.Claims

open Sys2Proof Sys2Proof.Machine Sys2Proof.Claims

/-- 08 R198 to R200, R202, 10 R256, R259: FPOST, unless an earlier access holds it back, adds its count to the flag; FWAIT passes
when the flag holds its count, takes it from the flag when it consumes, and is an acquire and a fence over its path mask; else
its wait stands. AARM, unless an earlier access holds it back, writes the arrival word but for GEN; AWAIT passes when GEN
lies past its operand, as FWAIT does; where it does not, or comes after an earlier access, it waits as a request. No other flag
and no other byte of memory changes. -/
def Obligations.FlagsAndArrivalWordsSynchronise : Prop :=
  ∀ (s : State) (h : Head) (f : FC), opRuns s h = true →
    let n : BitVec 16 := (s.readS h f.a 1).setWidth 16
    let v := flag s.cc f.tgt
    let k := spadKey s.cur.core.die s.cur.core.core (s.readS h f.a 1).toNat
    (NoneServed s.cc f.tgt (v + n) → s.actsNow (.fpost h f) [] = true → answers (.fpost h f) s fun t =>
      (∀ g, flag t.cc g = if g = f.tgt then v + n else flag s.cc g) ∧ t.cc.fwaits = s.cc.fwaits ∧ t.mem = s.mem ∧
      t.reqs = s.reqs ∧ t.cx = s.cx) ∧
    ((∀ w ∈ s.cc.fwaits, standing s.cur w = false) → NoneServed s.cc f.tgt v → n.toNat ≤ v.toNat →
      (∀ r ∈ s.reqs, r.id < s.nextId) → answers (.fwait h f) s fun t =>
        (∀ g, flag t.cc g = if g = f.tgt ∧ f.sub = 0 then v - n else flag s.cc g) ∧ t.cc.fwaits = s.cc.fwaits ∧
        WaitPassed s t f.path) ∧
    ((∀ w ∈ s.cc.fwaits, standing s.cur w = false) → NoneServed s.cc f.tgt v → v.toNat < n.toNat →
      answers (.fwait h f) s fun t =>
        (∀ g, flag t.cc g = flag s.cc g) ∧
        t.cc.fwaits = s.cc.fwaits ++ [⟨s.cur.ctx, s.cur.acc, s.cur.pc, f.tgt, n, f.sub == 0, false⟩] ∧ t.mem = s.mem ∧ t.cx = s.cx) ∧
    (opCause (.aarm h f) s = none → s.memOk → s.actsNow (.aarm h f) [(k, 16)] = true → answers (.aarm h f) s fun t =>
      (∀ a, readByte t.mem a =
        if k ≤ a ∧ a < k + 8 then BitVec.ofNat 8 (((s.readS h f.b 2).toNat % 2 ^ 32) / 256 ^ (a - k))
        else if k + 12 ≤ a ∧ a < k + 16 then BitVec.ofNat 8 ((f.sub.toNat % 2) / 256 ^ (a - (k + 12)))
        else readByte s.mem a) ∧ t.cores = s.cores ∧ t.reqs = s.reqs ∧ t.dies = s.dies) ∧
    (opCause (.await h f) s = none → isPoisoned s.poison k 16 = false → (∀ r ∈ s.reqs, r.id < s.nextId) →
      let d := BitVec.ofNat 32 (readNat s.mem (k + 8) 4) - (s.readS h f.b 2).setWidth 32
      let free := s.lsFree s.cur.core s.cur.ctx (.await h f) false [(k, 16)]
      (free = true → 1 ≤ d.toNat → d.toNat < 2 ^ 31 → answers (.await h f) s fun t => WaitPassed s t f.path) ∧
      (free = false ∨ d = 0 ∨ 2 ^ 31 ≤ d.toNat → answers (.await h f) s fun t =>
        (∃ r, t.reqs = s.reqs ++ [r] ∧ r.instr = .await h f ∧ r.va = s.readS h f.a 1 ∧ r.data = (s.readS h f.b 2).setWidth 2048 ∧
          r.phase = .issued ∧ r.dests = []) ∧ t.mem = s.mem ∧ t.cx = s.cx))

/-- 08 R204, R205, 10 R256, R257: a fence with nothing before it holds nothing and completes at once; else later stores and
releases (FENCE release) or later accesses on the mask's paths (FENCEX) wait until what it names, and the stores of its context
in replay queues, have been performed, and an acquire completes once the loads before it have returned. Memory and registers
stay. -/
def Obligations.FencesHoldLaterAccesses : Prop :=
  ∀ (s : State) (h : Head), opRuns s h = true → (∀ r ∈ s.reqs, r.id < s.nextId) →
    (∀ f : FM,
      let rel := f.order.getLsbD 1 = true ∧ (lsReqs s ≠ [] ∨ replaying s = true)
      let acq := f.order.getLsbD 0 = true ∧ lsLoads s ≠ []
      answers (.fence h f) s fun t =>
        t.cx = { s.cx with
          holds := if rel then liveHolds s ++ [⟨1, false, [s.nextId]⟩] else s.cx.holds
          acqTime := if f.order.getLsbD 0 = true ∧ lsLoads s = [] then max s.cx.acqTime s.time else s.cx.acqTime } ∧
        CtxOnly s t ∧ ({ t with cores := s.cores, reqs := s.reqs, nextId := s.nextId } : State) = s ∧
        (¬rel → ¬acq → t.reqs = s.reqs) ∧
        (rel → ¬acq → FenceReq s t 7 ((lsReqs s).map (·.id))) ∧
        (¬rel → acq → FenceReq s t 0 ((lsLoads s).map (·.id))) ∧
        (rel → acq → ∃ u r, FenceReq s u 7 ((lsReqs s).map (·.id)) ∧ t.reqs = u.reqs ++ [r] ∧ r.waits = (lsLoads s).map (·.id) ∧
          r.path = 0 ∧ isFence r.instr = true ∧ isAcquire r.instr = true)) ∧
    (∀ f : FC, answers (.fencex h f) s fun t => Fenced s t f.path ∧ t.mem = s.mem ∧ ∀ r, r ≠ .sr 0x46 → t.cx.getReg r = s.cx.getReg r)

/-- 08 R201, R203, R206, R207: a BWAIT whose phase has passed acquires and writes nothing, and one that has not, or that comes
after an earlier access, waits as a request; an HBAR that nothing earlier holds
back is counted in its group's phase, and its slice stands there until the phase has its parties, which is an acquire; one
with a party count that cannot be kills the stream with reason 5; an HBAR that is held back becomes a request; QEOS pushes a
token; QDRAIN takes the entries of its queue up to and with the first token. -/
def Obligations.BarriersPassAndTokensMark : Prop :=
  ∀ (s : State) (h : Head), opRuns s h = true →
    (∀ f : FM, f.space.toNat ≤ 1 → opCause (.bwait h f) s = none →
      let k := (spadProbe s (theOp s (.bwait h f))).key
      let d := BitVec.ofNat 16 (readNat s.mem k 8 / 2 ^ 48) - (s.readS h f.data 1).setWidth 16
      let free := s.lsFree s.cur.core s.cur.ctx (.bwait h f) false [(k, 8)]
      isPoisoned s.poison k 8 = false →
      (free = true → 1 ≤ d.toNat → d.toNat ≤ 32767 → answers (.bwait h f) s fun t =>
        t.mem = s.mem ∧ t.reqs = s.reqs ∧ t.cx = { s.cx with acqTime := acquired s (.bwait h f) }) ∧
      (free = false ∨ d = 0 ∨ 32767 < d.toNat → answers (.bwait h f) s fun t =>
        (∃ r, t.reqs = s.reqs ++ [r] ∧ r.instr = .bwait h f ∧ r.va = (theOp s (.bwait h f)).ea ∧ r.space = f.space ∧
          r.data = (s.readS h f.data 1).setWidth 2048 ∧ r.phase = .issued ∧ r.dests = []) ∧ t.mem = s.mem ∧ t.cx = s.cx)) ∧
    (∀ (f : F3) (e : Option Nat) (m : Nat),
      let g : BitVec 3 := (s.readS h f.a 1).setWidth 3
      let n := ((s.readS h f.a 1).extractLsb' 16 9).toNat
      let st := s.stream s.cx.stream
      let ph := s.cx.hbarPhase.getD g.toNat 0
      let mine := fun (e : BitVec 3 × Nat × Nat × Nat) => e.1 == g && e.2.1 == ph
      (s.streams.any fun x => x.key == s.cx.stream) = true → s.actsNow (.hbar h f) [] = true →
      ((st.hbar.find? mine).map fun e => e.2.2) = e.map (fun k => (m, k)) →
      (1 ≤ n → n ≤ s.cx.rowsize.toNat → (e ≠ none → m = n) → answers (.hbar h f) s fun t =>
        waitOf t = .hbar g ph ∧ (((t.stream s.cx.stream).hbar.find? mine).map fun e => e.2.2) = some (n, e.getD 0 + 1) ∧
        t.cx.hbarPhase.getD g.toNat 0 = ph + 1 ∧ t.cx.acqTime = s.cx.acqTime ∧
        t.cx.s = s.cx.s ∧ t.cx.pend = s.cx.pend ∧ t.mem = s.mem ∧ t.reqs = s.reqs) ∧
      (n = 0 ∨ s.cx.rowsize.toNat < n ∨ (e ≠ none ∧ m ≠ n) → st.kill = none → answers (.hbar h f) s fun t =>
        (t.stream s.cx.stream).kill = some 5 ∧ s.KeepsData t)) ∧
    (∀ f : F3, s.actsNow (.hbar h f) [] = false → answers (.hbar h f) s fun t =>
      ∃ r, t.reqs = s.reqs ++ [r] ∧ r.instr = .hbar h f ∧ r.data = (s.readS h f.a 1).setWidth 2048 ∧ r.path = 0 ∧ waitOf t = .arrive r.id ∧
        t.mem = s.mem ∧ t.cx.pend = s.cx.pend ∧ t.cx.hbarPhase = s.cx.hbarPhase) ∧
    (∀ g ph, s.cx.waitX = .hbar g ph → s.cx.waitA = .none →
      (s.phaseDone s.cx.stream g ph = true →
        (s.passBarrier s.cur.core s.cur.ctx).cx = { s.cx with waitX := .none, acqTime := max s.cx.acqTime s.time }) ∧
      (s.phaseDone s.cx.stream g ph = false → s.passBarrier s.cur.core s.cur.ctx = s)) ∧
    (∀ f : F3, answers (.qeos h f) s fun t =>
      let n : BitVec 2 := f.a.setWidth 2
      (∀ q : Fin 4, t.cx.q[q].ents = (s.cx.q[q]).ents ++ (if q.val = n.toNat then [⟨s.nextId, 0, true, false⟩] else [])) ∧
      t.cx.pend = (s.cx.addResult s.cur.acc (.q n s.nextId) 0 allBits 1 0 (s.nextId + 1)).pend ∧ t.mem = s.mem ∧ t.reqs = s.reqs ∧ t.cx.s = s.cx.s) ∧
    (∀ (f : F3) (l : List QEntry) (x : QEntry) (r : List QEntry),
      let n : BitVec 2 := f.a.setWidth 2
      (s.cx.q.getD n.toNat OpQueue.empty).ents = l ++ x :: r → (∀ y ∈ l, y.landed = true ∧ y.token = false) →
      x.landed = true → x.token = true → answers (.qdrain h f) s fun t =>
        (∀ q : Fin 4, t.iss.pop[q] = if q.val = n.toNat then max (l.length + 1) (s.iss.pop[q]) else s.iss.pop[q]) ∧ NotedOnly s t)

/-- 09 R209, R213, R221, R223, R227 with 02 R50: MPSET writes its matrix parameter register; every other M-slot operation
that raises no cause enters the array queue at its end with what it reads at issue. Its destinations become pending,
TXBIND and TXREST take the Triptych, and the slice of a TXSTEP, TXFIN, TXSAVE or TXREST waits for it. -/
def Obligations.MatrixOperationsEnterTheArrayQueue : Prop :=
  ∀ (s : State) (i : Instr),
    (∀ h f, i = .mpset h f → opRuns s h = true → opCause i s = none → answers i s fun t =>
      (∀ n : BitVec 3, t.cc.mp.getD n.toNat 0 = if n = f.mp then (s.readS h f.cnt 1).setWidth 128 else s.cc.mp.getD n.toNat 0) ∧
      t.cc.arrayQ = s.cc.arrayQ ∧ t.cx = s.cx ∧ t.mem = s.mem) ∧
    (∀ o : ArrayForm, arrayForm s i = some o → i.fieldsOk = true → opRuns s o.h = true → opCause i s = none → answers i s fun t =>
      (∃ x, t.cc.arrayQ = s.cc.arrayQ ++ [x] ∧ x.instr = i ∧ x.ctx = s.cur.ctx ∧ x.acc = s.cur.acc ∧ x.mp = o.mp ∧ x.sA = o.sA ∧
        x.vs = o.vs ∧ x.fmt = s.cx.fmtNow s.cur.acc ∧ x.pc = s.cur.pc ∧ x.waits = s.cx.holdIds 3 true ∧
        t.cx.score = s.cx.score ++ o.dests.map (fun d => ⟨x.id, d⟩) ∧ waitOf t = if o.blocks then .array x.id else waitOf s) ∧
      t.cc.owner = (if o.owns then some s.cur.ctx else s.cc.owner) ∧ (∀ r, t.cx.getReg r = s.cx.getReg r) ∧ t.cx.pend = s.cx.pend ∧
      t.cc.chain = s.cc.chain ∧ t.cc.work = s.cc.work ∧ t.cc.tile = s.cc.tile ∧ (t.iss.stay = match i with | .txstep _ _ => true | _ => s.iss.stay) ∧
      (∀ c, c ≠ s.cur.core → t.core c = s.core c) ∧
      ({ t with cores := s.cores, nextId := s.nextId, issue := s.issue } : State) = s)

/-- 09 R215 to R219: the plain operations at the head of the array queue, once their FIFO entries stand there: what the
tile, the working bank and the destinations hold, and that the operation leaves the queue. -/
def Obligations.PlainArrayOperationsExecute : Prop :=
  ∀ (s : State) (c : CoreRef) (o : ArrayOp) (rest : List ArrayOp), AtHead s c o rest →
    let k := s.core c
    let m := (o.mp.extractLsb' 14 6).toNat
    let aty : Ty := if o.mp.getLsbD 28 then o.fmt.extractLsb' 0 4 else o.mp.extractLsb' 20 4
    (∀ h f, o.instr = .mlds h f → m + 1 ≤ k.fs.length → answers (.arrayOpExecute c) s fun t =>
      (∀ r, r < 64 → (t.core c).tile.rows.getD r 0 = (if r ≤ m then entryAt k.fs r else 0) ∧
        (t.core c).tile.poison.getLsbD r = (decide (r ≤ m) && markedAt k.fs r)) ∧
      (t.core c).tile.sparse = f.imm.getLsbD 0 ∧ (t.core c).tile.aty = aty ∧
      (t.core c).tile.valid = (!f.imm.getLsbD 0 || tyWidth aty == 8) ∧
      (t.core c).fs = k.fs.drop (m + 1) ∧ (t.core c).arrayQ = rest ∧ t.mem = s.mem) ∧
    (∀ h f, (o.instr = .mms h f ∨ o.instr = .mmsp h f) → f.cnt.toNat + 1 ≤ k.fa.length → f.vec.toNat + f.cnt.toNat ≤ 31 →
      (∀ j, j < f.cnt.toNat + 1 → markedAt k.fa j = false) → k.tile.poison = 0 → answers (.arrayOpExecute c) s fun t =>
        let sp := match o.instr with | .mmsp _ _ => true | _ => false
        (∀ j r, j < f.cnt.toNat + 1 → r < 64 →
          bitsAt 32 ((t.ctx c o.ctx).getReg (.v (BitVec.ofNat 5 (f.vec.toNat + j)))) r =
            BitVec.ofNat 32 (mmsLane o k.tile sp (f.imm.getLsbD 0) (entryAt k.fa j) (o.vs.getD j 0) r).1) ∧
        (t.core c).fa = k.fa.drop (f.cnt.toNat + 1) ∧ (t.core c).arrayQ = rest ∧ t.mem = s.mem) ∧
    (∀ h f, o.instr = .mmv h f →
      let n := (f.imm.extractLsb' 0 7).toNat + 1
      n ≤ k.fc.length → n ≤ k.fb.length → answers (.arrayOpExecute c) s fun t =>
        (∀ r, r < 64 → (t.core c).work.getD r 0 = (mmvRow o (k.fc.take n) (k.fb.take n) r (k.work.getD r 0)).1) ∧
        (∀ r, r < 64 → (t.core c).workPoison.getLsbD r =
          (k.workPoison.getLsbD r || (decide (r ≤ m) && (k.fc.take n ++ k.fb.take n).any (·.poison)))) ∧
        (t.core c).fc = k.fc.drop n ∧ (t.core c).fb = k.fb.drop n ∧ (t.core c).arrayQ = rest ∧ t.mem = s.mem) ∧
    (∀ h f, o.instr = .accrd h f → k.workPoison = 0 → k.chain.poison = 0 →
      answers (.arrayOpExecute c) s fun t =>
        let row := fun (i : Nat) => (if f.imm.getLsbD 4 then k.chain.com else k.work).getD (((o.sA.extractLsb' 0 6).toNat + i) % 64) 0
        (o.fmt.getLsbD 15 = false → ∀ i p, i < (f.imm.extractLsb' 0 4).toNat + 1 → p < 2 → f.vec.toNat + 2 * i + p < 32 →
          (t.ctx c o.ctx).getReg (.v (BitVec.ofNat 5 (f.vec.toNat + 2 * i + p))) = (row i).extractLsb' (2048 * p) 2048) ∧
        (o.fmt.getLsbD 15 = true → ∀ i j, i < (f.imm.extractLsb' 0 4).toNat + 1 → f.vec.toNat + i < 32 → j < 128 →
          (bitsAt 16 ((t.ctx c o.ctx).getReg (.v (BitVec.ofNat 5 (f.vec.toNat + i)))) j).toNat =
            (roundF 9 .rne false (decodeF 8 ((row i).extractLsb' (32 * j) 32).toNat)).1) ∧
        (t.core c).arrayQ = rest ∧ t.mem = s.mem) ∧
    (∀ h f, o.instr = .accclr h f → answers (.arrayOpExecute c) s fun t =>
      (t.core c).work = Vector.replicate 64 0 ∧ (t.core c).workPoison = 0 ∧ (t.core c).arrayQ = rest ∧ t.mem = s.mem) ∧
    (∀ h f, o.instr = .accscl h f → answers (.arrayOpExecute c) s fun t =>
      (∀ r j, r < 64 → j < 128 → ((t.core c).work.getD r 0).extractLsb' (32 * j) 32 =
        BitVec.ofNat 32 (laneMul 8 ⟨.rne, false, none⟩ ((k.work.getD r 0).extractLsb' (32 * j) 32).toNat (o.sA.toNat % 2 ^ 32)).1) ∧
      (t.core c).arrayQ = rest ∧ t.mem = s.mem)

/-- 09 R221 to R228: the chain operations at the head of the array queue: TXBIND resets the chain, TXFIN and TXSAVE write
their rows or the image and release the Triptych, TXREST takes the chain of a good image, TXABORT releases it or empties
the FIFOs, a TXSTEP with no block left ends with the blocks it has not done in its scalar; and a block of SCMODE 0 commits
when its entries stand in the FIFOs. -/
def Obligations.ChainOperationsExecute : Prop :=
  ∀ (s : State) (c : CoreRef) (o : ArrayOp) (rest : List ArrayOp), AtHead s c o rest →
    let k := s.core c
    let ch := k.chain
    let key := spadKey c.die c.core o.sA.toNat
    let tn := s.stream (s.ctx c o.ctx).stream
    (∀ h f v, o.instr = .txbind h f → o.vs = [v] →
      let cfg := cfgResolve (v.setWidth 1536) (o.fmt.extractLsb' 8 4)
      let n := cfgField cfg 0x10 19 14 + 1
      n ≤ k.fs.length → answers (.arrayOpExecute c) s fun t =>
        let u := (t.core c).chain
        u.cfg = cfg ∧ u.com = Vector.replicate 64 0 ∧ u.m = Vector.replicate 64 0xFF800000 ∧ u.l = Vector.replicate 64 0 ∧
        u.a = Vector.replicate 64 0x3F800000 ∧ u.blk = 0 ∧ u.qpos = BitVec.ofNat 64 (cfgField cfg 0x20 63 0) ∧
        u.kpos = BitVec.ofNat 64 (cfgField cfg 0x28 63 0) ∧ u.left = BitVec.ofNat 64 (cfgField cfg 0x30 31 0) ∧ u.empty = 0 ∧
        (t.core c).fs = k.fs.drop n ∧ (t.core c).arrayQ = rest ∧ t.mem = s.mem) ∧
    (∀ h f, o.instr = .txfin h f → s.memOk → answers (.arrayOpExecute c) s fun t =>
      let bf := o.fmt.getLsbD 15
      let e := if bf then 2 else 4
      let base := spadKey c.die c.core (o.sA.toNat % 2 ^ 20)
      let inRow := fun (a r j : Nat) => r ≤ cfgField ch.cfg 0x10 19 14 ∧ j < e * (cfgField ch.cfg 0x10 13 7 + 1) ∧ a = base + r * (128 * e) + j
      let stats := (ch.m.toList ++ ch.l.toList).flatMap (fun x => bytesOfNat x.toNat 4) ++
        bytesOfNat ch.poison.toNat 8 ++ bytesOfNat (t.core c).chain.empty.toNat 8
      (∀ a r j, inRow a r j → readByte t.mem a = (finRow ch bf r).1.getD j 0) ∧
      (∀ r, r < 64 → (t.core c).chain.empty.getLsbD r =
        (ch.empty.getLsbD r || (decide (r ≤ cfgField ch.cfg 0x10 19 14) && ch.l.getD r 0 == 0))) ∧
      (f.imm.getLsbD 0 = true → ∀ j, j < 528 → readByte t.mem (base + 64 * (128 * e) + j) = stats.getD j 0) ∧
      (∀ a, (∀ r j, ¬inRow a r j) → (f.imm.getLsbD 0 = true → a < base + 64 * (128 * e) ∨ base + 64 * (128 * e) + 528 ≤ a) →
        readByte t.mem a = readByte s.mem a) ∧
      (t.core c).owner = none ∧ (t.core c).arrayQ = rest) ∧
    (∀ h f, o.instr = .txsave h f → s.memOk →
      (f.imm.getLsbD 0 = false → answers (.arrayOpExecute c) s fun t =>
        (∀ a, readByte t.mem a = if key ≤ a ∧ a < key + (chainImage ch).length then (chainImage ch).getD (a - key) 0 else readByte s.mem a) ∧
        (t.core c).owner = none ∧ (t.core c).chain = ch ∧ (t.core c).arrayQ = rest) ∧
      (∀ l, f.imm.getLsbD 0 = true → s.near c.die tn.tenant tn.asid o.sA imageBytes false true false = .ok l →
        answers (.arrayOpExecute c) s fun t =>
          t.mem = (s.spanWrite l (chainImage ch)).mem ∧ (t.core c).owner = none ∧ (t.core c).chain = ch ∧ (t.core c).arrayQ = rest)) ∧
    (∀ h f x, o.instr = .txrest h f → f.imm.getLsbD 0 = false → isPoisoned s.poison key imageBytes = false →
      chainOfImage (readBytes s.mem key imageBytes) (o.fmt.extractLsb' 8 4) = some x → answers (.arrayOpExecute c) s fun t =>
        (t.core c).chain = x ∧ (t.core c).owner = k.owner ∧ (t.core c).arrayQ = rest ∧ t.mem = s.mem) ∧
    (∀ h f x l, o.instr = .txrest h f → f.imm.getLsbD 0 = true → s.near c.die tn.tenant tn.asid o.sA imageBytes true false false = .ok l →
      s.spanPoisonVa l o.sA = none → chainOfImage (s.spanRead l) (o.fmt.extractLsb' 8 4) = some x → answers (.arrayOpExecute c) s fun t =>
        (t.core c).chain = x ∧ (t.core c).owner = k.owner ∧ (t.core c).arrayQ = rest ∧ t.mem = s.mem) ∧
    (∀ h f, o.instr = .txabort h f → answers (.arrayOpExecute c) s fun t =>
      (f.imm.getLsbD 0 = false → (t.core c).owner = none ∧ (t.core c).fa = k.fa) ∧
      (f.imm.getLsbD 0 = true → (t.core c).owner = k.owner ∧ (t.core c).fs = [] ∧ (t.core c).fa = [] ∧ (t.core c).fb = [] ∧ (t.core c).fc = []) ∧
      (t.core c).chain = ch ∧ (t.core c).arrayQ = rest ∧ t.mem = s.mem) ∧
    (∀ h f, o.instr = .txstep h f → ch.left = 0 → f.cnt ≠ 0 →
      ((s.ctx c o.ctx).score.any fun e => decide (e.id < o.id) && e.reg == .s f.cnt) = false → answers (.chainBlockCommit c) s fun t =>
      (t.ctx c o.ctx).getReg (.s f.cnt) =
        BitVec.ofNat 2048 (if o.sA.toNat % 2 ^ 32 = 0 then 0 else o.sA.toNat % 2 ^ 32 - k.stepDone) ∧ (t.core c).chain = ch ∧ (t.core c).arrayQ = rest ∧ t.mem = s.mem) ∧
    (∀ h f, o.instr = .txstep h f → cfgField ch.cfg 8 19 18 = 0 → cfgField ch.cfg 8 20 20 = 0 → cfgKChan ch.cfg = none →
      cfgVChan ch.cfg = none → cfgField ch.cfg 0 18 18 = 0 → ch.left ≠ 0 → 32 ≤ k.fa.length → 32 ≤ k.fb.length →
      ((s.ctx c o.ctx).score.any fun e => decide (e.id < o.id) && e.reg == .s f.cnt) = false →
      (s.ctx c o.ctx).takable.any (feedError ch.cfg) = false → answers (.chainBlockCommit c) s fun t =>
        let b : BlockIn := ⟨32, ch.kpos + 32 * ch.blk, 0x3F800000, 0x3F800000, (k.fa.take 32).map (·.val), (k.fb.take 32).map (·.val), none,
          (k.fa.take 32 ++ k.fb.take 32).any (·.poison)⟩
        (t.core c).chain = (txBlock ch b).1 ∧ (t.core c).chain.blk = ch.blk + 1 ∧ (t.core c).chain.left = ch.left - 1 ∧
        (t.core c).fa = k.fa.drop 32 ∧ (t.core c).fb = k.fb.drop 32 ∧ t.mem = s.mem)

/-- 09 R229, R231, R247 to R249, 04 R102: a C-slot operation that raises no cause becomes the last command of its core, with the
descriptor and scalars that it reads at issue; the slice of a stream instruction waits for it, and the registers that it writes
become pending. Nothing else changes. -/
def Obligations.EngineOperationsBecomeCommands : Prop :=
  ∀ (s : State) (i : Instr) (o : EngineForm), engineForm i = some o → opRuns s o.h = true → opCause i s = none → answers i s fun t =>
    (∃ m, t.cc.cmds = s.cc.cmds ++ [m] ∧ m.instr = i ∧ m.ctx = s.cur.ctx ∧ m.eng = o.eng ∧ m.path = o.path ∧
      m.desc = s.readReg (.v (o.f.desc.setWidth 5)) (saltOf s o.h.slot 0) ∧ m.sA = s.readS o.h o.f.a 1 ∧ m.sB = s.readS o.h o.f.b 2 ∧
      m.started = false ∧ m.done = false ∧ m.pos = 0 ∧ m.waits = s.cx.holdIds o.path true ∧
      t.cx.score = s.cx.score ++ ((streamRegs i).map fun r => ⟨m.id, r⟩) ∧
      waitOf t = if o.blocks then .strm m.id else waitOf s) ∧
    (∀ r, t.cx.getReg r = s.cx.getReg r) ∧ t.cx.pend = s.cx.pend ∧ t.cc.arrayQ = s.cc.arrayQ ∧
    (∀ c, c ≠ s.cur.core → t.core c = s.core c) ∧ ({ t with cores := s.cores, nextId := s.nextId } : State) = s

/-- 09 R230, R231, R233 to R249, 12 R314 to R316, 13 R332, R333: a command starts once it may, and one that is done, with no
store of its context in a replay queue and no write on its way to another package, posts to its flag, reports its error and
leaves. A CP between scratchpads moves one element, its bytes and no others. CPQ and LSEND pack elements; a full or last part goes
into the FIFO, or out on the link. WSTR pushes the entry that its compressed body stands for. PGREQ asks for a page with its tags
at home. Whether a link loses a packet, and has a credit for it, is free. ENQ appends its command to a ring of its tenant. A folio step has all its effects or, with an error, none; a walked
block is a header that counts its rows, and the rows; KVWALK pushes what it has fetched while the FIFOs have room. A STRMRD copies
the header of its block; a STRMCOMMIT at another position than G has reason 4, and one on a cancelled block reason 3; a STRMIN
with no frame changes nothing. -/
def Obligations.EnginesStartMoveAndComplete : Prop :=
  (∀ (s : State) (c : CoreRef) (id : Nat) (m : Command), s.cmd? c id = some m → m.id = id →
    (s.cmdMayStart c m = true → (∀ h f, m.instr ≠ .kvwalk h f) → answers (.engineCommandStart (.engine c id)) s fun t =>
      t.cmd? c id = some { m with started := true } ∧ t.mem = s.mem ∧ t.reqs = s.reqs) ∧
    (∀ h f a b, m.instr = .cp h f → f.tag = 0 → f.sub = 0 → m.started = true → m.done = false → m.susp = false → (s.core c).freeze = none →
      let d := copyDesc m.desc
      m.pos < d.total → d.srcAt m.pos = a → d.dstAt m.pos = b → a.toNat % min d.esize 8 = 0 → b.toNat % min d.esize 8 = 0 →
      d.ssp = 0 → d.dsp = 0 → a.toNat + d.esize ≤ 0xC0000 → b.toNat + d.esize ≤ 0xC0000 → s.memOk → s.poison = [] →
      answers (.engineBurst (.engine c id)) s fun t =>
        (∀ x, readByte t.mem x = storedByte s.mem (spadKey c.die c.core b.toNat) d.esize (readNat s.mem (spadKey c.die c.core a.toNat) d.esize) x) ∧
        ∃ u, t.cmd? c id = some u ∧ u.pos = m.pos + 1 ∧ u.err = m.err ∧ u.done = decide (d.total ≤ m.pos + 1)) ∧
    (∀ h f, m.instr = .kvwalk h f → MayStart s c m → ∀ va u, walkTarget (s.who c m) m s = .ok (va, u) →
      exec (.engineCommandStart (.engine c id)) s =
        .next ((u.dropAnswers (.unit c id)).setCmd c { m with started := true, sA := va })) ∧
    (s.mayComplete c m = true → m.outA = [] → m.outB = [] → (∀ p ∈ s.packets, p.who ≠ .unit c id) →
      let f := fcOf m.instr
      (f.sub.extractLsb' 6 2 = 1 → m.err = none → NoneServed (s.core c) f.tgt (flag (s.core c) f.tgt + 1) →
        answers (.engineCommandComplete (.engine c id)) s fun t =>
          flag (t.core c) f.tgt = flag (s.core c) f.tgt + 1 ∧ t.cmd? c id = none ∧ t.mem = s.mem) ∧
      (∀ code va, m.err = some (code, va) → (s.ctx c m.ctx).life = .running → answers (.engineCommandComplete (.engine c id)) s fun t =>
        (∃ x, (t.ctx c m.ctx).reports = (s.ctx c m.ctx).reports ++ [x] ∧ x.id = id ∧ x.cause.code = 0x116 ∧ x.cause.addr = va ∧
          x.cause.info.extractLsb' 16 8 = code) ∧ t.cmd? c id = none ∧ t.mem = s.mem))) ∧
  (∀ (s : State) (c : CoreRef) (m : Command), AtWork s c m →
    let st := s.cmdStream c m
    let d := copyDesc m.desc
    let burst := Instr.engineBurst (.engine c m.id)
    (∀ h f, m.instr = .cpq h f → FromScratchpad s m → m.err = none →
      let q := f.tag.toNat
      (¬goesOn m → answers burst s fun t =>
        t.cmd? c m.id = some { m with pos := m.pos + 1, fill := m.fill + d.esize, part := packed s c m, partPoison := packedPoison m } ∧
        (t.core c).fifo q = (s.core c).fifo q ∧ t.mem = s.mem) ∧
      (goesOn m → ((s.core c).fifo q).length < 16 → answers burst s fun t =>
        (∃ e, (t.core c).fifo q = (s.core c).fifo q ++ [e] ∧ e.val = packed s c m ∧ e.poison = packedPoison m) ∧
        (∃ u, t.cmd? c m.id = some u ∧ u.pos = m.pos + 1 ∧ u.fill = 0 ∧ u.err = none ∧ u.done = decide (d.total ≤ m.pos + 1)) ∧ t.mem = s.mem) ∧
      (goesOn m → 16 ≤ ((s.core c).fifo q).length → exec burst s = .next s)) ∧
    (∀ h f, m.instr = .lsend h f →
      let port : BitVec 4 := d.dst.extractLsb' 0 4
      let vc : BitVec 2 := d.dst.extractLsb' 4 2
      let granted := st.link.getLsbD (4 * port.toNat + vc.toNat)
      let up := (s.die c.die).portUp.getLsbD port.toNat
      let isLost := fun t : State => (∃ u, t.cmd? c m.id = some u ∧ u.done = true ∧ u.err = some (1, d.srcAt (m.pos - m.fill / d.esize))) ∧
        t.outbox = s.outbox ∧ t.mem = s.mem
      (granted = false → answers burst s fun t =>
        t.cmd? c m.id = some { m with done := true, err := some (9, d.src) } ∧ t.outbox = s.outbox ∧ t.mem = s.mem) ∧
      (granted = true → up = false → m.pos < d.total → answers burst s isLost) ∧
      (granted = true → up = true → FromScratchpad s m → m.err = none → goesOn m → answers burst s fun t =>
        if s.lostOnWay then isLost t
        else if s.freeVal 1 4093 = 1 then
          t.outbox = s.outbox ++ [.link c.die (port.setWidth 3) vc
            ⟨packed s c m, packedPoison m, m.fill + d.esize, f.sub.getLsbD 5, f.sub.getLsbD 4, f.path⟩] ∧
          ∃ u, t.cmd? c m.id = some u ∧ u.pos = m.pos + 1 ∧ u.fill = 0 ∧ u.err = none ∧ u.done = decide (d.total ≤ m.pos + 1)
        else t = s)) ∧
    (∀ h f p, m.instr = .wstr h f → s.poison = [] → Local p → m.skip ≤ m.pos →
      let len := d.counts.getD 0 0
      let at_ := d.src + BitVec.ofNat 64 m.fill
      let mode := (readByte s.mem p.key).toNat % 4
      let n := wstrBody s.mem (p.key + 1) mode
      m.pos < d.counts.getD 1 0 → m.fill < len →
      (∀ n, 1 ≤ n → n ≤ 289 → s.near c.die st.tenant st.asid at_ n true false false = .ok [(p, n)]) →
      (4 ≤ (readByte s.mem p.key).toNat ∨ len < m.fill + 1 + n → answers burst s fun t =>
        t.cmd? c m.id = some { m with done := true, err := some (5, at_) } ∧ t.mem = s.mem) ∧
      ((readByte s.mem p.key).toNat < 4 → m.fill + 1 + n ≤ len → ((s.core c).fifo f.tag.toNat).length < 16 → answers burst s fun t =>
        (∃ e, (t.core c).fifo f.tag.toNat = (s.core c).fifo f.tag.toNat ++ [e] ∧ e.poison = false ∧
          ∀ i, i < 256 → bitsAt 8 e.val i = wstrByte s.mem (p.key + 1) mode i) ∧
        (∃ u, t.cmd? c m.id = some u ∧ u.pos = m.pos + 1 ∧ u.fill = m.fill + 1 + n ∧ u.done = decide (d.counts.getD 1 0 ≤ m.pos + 1)) ∧
        t.mem = s.mem)) ∧
    (∀ h f, m.instr = .pgreq h f →
      let p := pgreqPage m m.pos
      m.pos < p.2 →
      (∀ e a l, s.near c.die st.tenant st.asid p.1 1 false false true = .ok [(.dev e a l, 1)] → answers burst s fun t =>
        t.cmd? c m.id = some { m with pos := m.pos + 1, done := decide (p.2 ≤ m.pos + 1) } ∧ t.mem = s.mem) ∧
      (∀ a, s.near c.die st.tenant st.asid p.1 1 false false true = .ok [(.host a, 1)] → answers burst s fun t =>
        t.cmd? c m.id = some { m with done := true, err := some (1, p.1) } ∧ t.mem = s.mem)) ∧
    (∀ h f, m.instr = .enq h f →
      let q : BitVec 8 := m.sA.setWidth 8
      let r := s.qrec c.die q
      (r.owner ≠ st.tenant ∨ r.state ≠ .enabled → answers burst s fun t =>
        t.cmd? c m.id = some { m with done := true, err := some (8, m.sA) } ∧ t.mem = s.mem) ∧
      (∀ p, r.owner = st.tenant → r.state = .enabled → r.full = false → s.memOk → Local p →
        s.near c.die st.tenant r.asid (r.cmdAddr r.tail) 64 false true false = .ok [(p, 64)] → answers burst s fun t =>
          (∀ a, readByte t.mem a = storedByte s.mem p.key 64 m.desc.toNat a) ∧ (t.qrec c.die q).tail = r.tail + 1 ∧
          (t.die c.die).doorbells.getLsbD q.toNat = true ∧ t.cmd? c m.id = some { m with done := true })) ∧
    (∀ h f, m.instr = .frank h f →
      let k := (m.sA.extractLsb' 0 9).toNat
      (s.die c.die).frankOwner.getD k 0xFF ≠ st.tenant → answers burst s fun t =>
        t.cmd? c m.id = some { m with done := true, err := some (8, m.sA) } ∧ t.mem = s.mem) ∧
    (∀ h f, m.instr = .kvwalk h f → (m.outA ≠ [] ∨ m.outB ≠ []) → answers burst s fun t =>
      let k := s.core c
      (t.core c).fa = k.fa ++ m.outA.take (16 - k.fa.length) ∧ (t.core c).fb = k.fb ++ m.outB.take (16 - k.fb.length) ∧
      (∃ u, t.cmd? c m.id = some u ∧ u.outA = m.outA.drop (16 - k.fa.length) ∧ u.outB = m.outB.drop (16 - k.fb.length)) ∧ t.mem = s.mem)) ∧
  (∀ (s : State) (c : CoreRef) (m : Command), MayStep s c m →
    let burst := Instr.engineBurst (.engine c m.id)
    (∀ f, folioOf s c m = some f →
      (∀ u, f s = .ok ((), u) → exec burst s = .next ((u.dropAnswers (.unit c m.id)).finishCmd c m)) ∧
      (∀ code va, f s = .error (.err code va) → answers burst s fun t =>
        t.cmd? c m.id = some { m with done := true, err := some (BitVec.ofNat 8 code, va) } ∧ t.mem = s.mem ∧ t.dies = s.dies)) ∧
    (∀ h f, m.instr = .kvtrunc h f →
      (∀ l u, kvTrunc (s.who c m) m.sA m.sB.toNat s = .ok (l, u) → u.memOk → answers burst s fun t =>
        let k := spadKey c.die c.core m.desc.toNat
        l.length = 32 ∧ ∀ a, readByte t.mem a = if k ≤ a ∧ a < k + 32 then l.getD (a - k) 0 else readByte u.mem a) ∧
      (∀ code va, kvTrunc (s.who c m) m.sA m.sB.toNat s = .error (.err code va) → answers burst s fun t =>
        t.cmd? c m.id = some { m with done := true, err := some (BitVec.ofNat 8 code, va) } ∧ t.mem = s.mem ∧ t.dies = s.dies)) ∧
    (∀ b u, rdBlock (s.who c m) m.sA s = .ok (b, u) → s.packets = [] →
      (∀ h f, m.instr = .strmcommit h f → f.path.setWidth 4 ≠ 0#4 → f.b ≠ 0 →
        (b.cancel = false → vbits m.desc 63 0 ≠ b.g → answers burst s fun t =>
          (t.ctx c m.ctx).getReg (.p (f.path.setWidth 4)) = 0 ∧ (t.ctx c m.ctx).getReg (.s f.b) = 4 ∧ t.mem = s.mem) ∧
        (b.cancel = true → s.memOk → ∀ p, s.near c.die (s.cmdStream c m).tenant (s.cmdStream c m).asid m.sA 256 true true false = .ok [(p, 256)] →
          answers burst s fun t =>
            (t.ctx c m.ctx).getReg (.p (f.path.setWidth 4)) = 0 ∧ (t.ctx c m.ctx).getReg (.s f.b) = 3 ∧
            ∀ a, readByte t.mem a = if a = p.key + 0x3F then readByte s.mem a ||| 0x80 else readByte s.mem a)) ∧
      (∀ h f, m.instr = .strmin h f → f.path.setWidth 4 ≠ 0#4 → b.inHead = b.inTail → answers burst s fun t =>
        (t.ctx c m.ctx).getReg (.p (f.path.setWidth 4)) = 0 ∧ t.mem = s.mem) ∧
      (∀ h f p, m.instr = .strmrd h f → s.poison = [] → s.memOk →
        s.near c.die (s.cmdStream c m).tenant (s.cmdStream c m).asid m.sA 256 true true false = .ok [(p, 256)] → answers burst s fun t =>
          ∀ a, readByte t.mem a = storedByte s.mem (spadKey c.die c.core (m.sB.toNat % 2 ^ 20)) 64 (readNat s.mem p.key 64) a))) ∧
  (∀ (a : Who) (g : Group) (q : Seq) (id h b p1 : Nat) (va : Word) (sk sv : Bool) (s u : State) (x : WalkOut),
    walkBlock a g q id h b p1 va sk sv s = .ok (x, u) →
      u.mem = s.mem ∧ u.poison = s.poison ∧ x.fa.length = x.fb.length ∧ x.fa.length ≤ 33 ∧
      ∃ e l, x.fa = e :: l ∧ vbits e.val 135 128 = l.length) ∧
  (∀ (a : Who) (va : Word) (s s1 s2 : State) (q : Seq) (g : Group), rdSeq a true va s = .ok (q, s1) → rdGroup a true q.group s1 = .ok (g, s2) →
    (g.ro = true → ∀ h pos k v all sB n,
      kvAppend a va h pos k v s = .error (.err 1 va) ∧ kvSeal a va all sB s = .error (.err 1 va) ∧ kvTrunc a va n s = .error (.err 1 va)) ∧
    (g.ro = false → ∀ h pos k v, g.heads ≤ h → kvAppend a va h pos k v s = .error (.err 6 va)) ∧
    (g.ro = false → ∀ h pos k v x s3, h < g.heads → rdStage a true q h s2 = .ok (x, s3) → pos ≠ x.next →
      kvAppend a va h pos k v s = .error (.err 6 va)) ∧
    (g.ro = false → ∀ n, q.next < n → kvTrunc a va n s = .error (.err 6 va)))

namespace Sys2Proof.Claims
open Sys2Proof.Machine

/-! ### Contexts (01 R15 to R36, 11 R278 to R293) -/

/-- The list of cores is in order, with the numbers of cores. -/
def CoresListed (s : State) : Prop := s.cores.Pairwise (fun a b => a.1 < b.1) ∧ ∀ e ∈ s.cores, e.1 < 1024

/-- The environment in which the execute or only slice of a context fetches its next bundle. -/
def atBundle (s : State) (c : CoreRef) (x : BitVec 2) : State :=
  { s with cur := ⟨c, x, false, codeAddr ((s.ctx c x).nextPc false)⟩ }

/-- The state in which it presents the bundle: the walk of the bundle's page has filled the TLB (18 R399). -/
def presented (s : State) (c : CoreRef) (x : BitVec 2) : State :=
  (atBundle s c x).fillRange (s.stream (s.ctx c x).stream).asid (s.routed c.die (codeAddr ((s.ctx c x).nextPc false))) 64

/-- 11 R278, R272: how far the slice has gone since a report's bundle; a race has no distance. -/
def distance (k : Ctx) (r : Report) : Nat :=
  if r.cause.code.getLsbD 8 then min 65535 ((if r.acc then k.countA else k.issueX) - r.bundle - 1) else 0

/-- 11 R286, 17 R389: a context of a stream under a request is late: it has not reached a safe point by its deadline; for a KILL,
it has not left either. -/
def Late (s : State) (st : Stream) (k : Ctx) (deadline : Word) : Prop :=
  if (s.qrec st.die st.q).killing then (k.life = .running ∨ k.life = .leaving) ∧ deadline.toNat < s.time
  else k.life = .running ∧ k.preempt = true ∧ k.deadline.toNat < s.time

end Sys2Proof.Claims

open Sys2Proof Sys2Proof.Machine Sys2Proof.Claims

/-- 01 R36, 18 R413: a round that is due begins with the table that waits; a turn belongs to the owner of its slot; a
corrected error stops its core for 24 cycles. -/
def Obligations.TheSlotTableAndFreezesFollowTheClock : Prop :=
  ∀ (s : State),
    (∀ d, let x := s.die d
      (x.rounds + 1) * 8192 ≤ s.time → answers (.slotTableRound d) s fun t =>
        t.die d = { x with
          rounds := x.rounds + 1, slotOwner := x.slotNext.getD x.slotOwner, slotNext := none
          tablegen := if x.slotNext.isSome then x.tablegen + 1 else x.tablegen } ∧
        (∀ e, e ≠ d → t.die e = s.die e) ∧ ({ t with dies := s.dies } : State) = s) ∧
    (∀ d, let x := s.die d
      (x.turns + 1) * 32 ≤ s.time → (x.turns + 1) / 256 ≤ x.rounds → answers (.slotTurn d) s fun t =>
        t.die d = { x with turns := x.turns + 1, turnOwner := x.slotOwner.getD ((x.turns + 1) % 256) 0xFF } ∧
        (∀ e, e ≠ d → t.die e = s.die e) ∧ ({ t with dies := s.dies } : State) = s) ∧
    (∀ c, answers (.correctableErrorFreeze c) s fun t =>
      t.core c = { s.core c with freeze := some (s.time + 24) } ∧ (∀ e, e ≠ c → t.core e = s.core e) ∧
      ({ t with cores := s.cores, dies := s.dies } : State) = s) ∧
    (∀ c n, (s.core c).freeze = some n → n ≤ s.time → answers (.freezeEnd c) s fun t =>
      t.core c = { s.core c with freeze := none } ∧ (∀ e, e ≠ c → t.core e = s.core e) ∧ ({ t with cores := s.cores } : State) = s)

/-- 01 R15, R16, R20 to R22, 11 R278, R280, R286, 17 R375, R382: a reserved context starts at its time; the selected
context issues the bundle that it may; a yield point gives the width to the next ready context; the first reported
cause becomes a trap, of the slice that it belongs to; a context that has left is free, and the last one retires its stream with a
KIND 1 record; a stream with a late context is killed with reason 2, or 6 where its queue is being killed; a stream is charged every
65,536 cycles. -/
def Obligations.ContextsStartIssueTrapAndLeave : Prop :=
  ∀ (s : State) (c : CoreRef) (x : BitVec 2),
    let k := s.ctx c x
    let r : CtxRef := ⟨c.die, c.core, x⟩
    (k.life = .reserved → k.preempt = false → k.startAt ≤ s.time → answers (.contextStart r) s fun t =>
      t.ctx c x = { k with life := .running, acqTime := k.startAt, gsAcqTime := k.startAt } ∧ ({ t with cores := s.cores } : State) = s) ∧
    (∀ b v ops, s.issue = none → (s.core c).freeze = none → (s.core c).sel = x → (s.core c).quantum < 4096 → s.eligible c x = true →
      k.decoupled = false → s.sliceBlocked c x false = false → k.waitA = .none → (atBundle s c x).fetch = .bundle b →
      firstDefect b (((bundleOps b).filter (nestBad (presented s c x))).map fun i => ((slotOf i).toNat, 9)) = none →
      (presented s c x).presentOps b (ofSlice (presented s c x).cx false (bundleOps b)) = (v, .ready ops) → answers (.bundleIssue c) s fun t =>
        t.issue = some { Issue.fresh v.cur with ops := inSlotOrder (ops.map fun i => (v.cur, i)), runX := true, runA := false } ∧
        t.mem = v.mem ∧ t.reqs = v.reqs ∧ t.cur = s.cur) ∧
    (∀ y, s.issue = none → 4096 ≤ (s.core c).quantum →
      ([(s.core c).sel + 1, (s.core c).sel + 2, (s.core c).sel + 3].find? (s.ready c)) = some y → answers (.yieldQuantum c) s fun t =>
        t.core c = { s.core c with sel := y, quantum := 0 } ∧ ({ t with cores := s.cores } : State) = s) ∧
    (∀ p, s.issue = none → k.life = .running → k.hmode = false → k.waitX.stops = false → k.waitA.stops = false →
      pickReport k.reports = some p → answers (.attributedTrap r) s fun t =>
        let u := t.ctx c x
        let acc := p.acc && k.decoupled && k.inNest true && decide (k.nestA ≤ p.bundle)
        u.tcause = p.cause.code.setWidth 64 ∧ u.tpc = k.nextPc acc ∧ u.aslice = acc ∧ u.tslot = p.cause.slot.setWidth 64 ∧ u.taddr = p.cause.addr ∧
        u.tinfo = p.cause.info ||| BitVec.ofNat 64 (distance k p) ∧ u.hmode = true ∧ u.pc = k.landAll.tvec ∧
        u.reports = k.reports.erase p ∧ t.mem = s.mem ∧ t.reqs = s.reqs ∧ t.issue = none) ∧
    (s.mayLeave c x = true → CoresListed s → answers (.contextLeave r) s fun t =>
      t.ctx c x = Ctx.idle ∧ s.KeepsData t ∧ ∀ q ∈ t.reqs, q.mine c x = false) ∧
    (s.mayLeave c x = true → CoresListed s → s.ctxsOf k.stream = [(c, x)] → (s.streams.any fun y => y.key == k.stream) = true →
      (s.stream k.stream).out = false → (s.stream k.stream).kill = none → answers (.contextLeave r) s fun t =>
        let st := s.stream k.stream
        (t.streams.any fun y => y.key == k.stream) = false ∧
        (t.qrec st.die st.q).retired = (s.qrec st.die st.q).retired + 1 ∧
        ∃ m, (t.die st.die).qcmds = (s.die st.die).qcmds ++ [m] ∧ m.kind = 1 ∧ m.q = st.q ∧ m.index = st.index ∧ m.status = 0 ∧
          m.stream = st.streamId.toNat) ∧
    (∀ key p, ∀ e ∈ s.ctxsOf key, (s.streams.any fun y => y.key == key) = true → (s.stream key).preempt = some p →
      (s.stream key).kill = none → Late s (s.stream key) (s.ctx e.1 e.2) p.1 → answers (.preemptTimeout key) s fun t =>
        (t.stream key).kill = some (if (s.qrec (s.stream key).die (s.stream key).q).killing then 6 else 2) ∧
        (t.stream key).preempt = none ∧ s.KeepsData t) ∧
    (∀ key, let st := s.stream key
      let n := st.carry + (((s.ctxsOf key).map fun e => (s.ctx e.1 e.2).charge).foldl (· + ·) 0)
      let q := s.qrec st.die st.q
      (s.streams.any fun y => y.key == key) = true → st.out = false → st.lastCharge + 65536 ≤ s.time → answers (.streamCharge key) s fun t =>
        (t.stream key).carry = n % 16 ∧ (t.stream key).lastCharge = s.time ∧ t.mem = s.mem ∧
        (q.urgent = false → (q.state = .enabled ∨ q.state = .draining) →
          (t.qrec st.die st.q).deficit = max (q.deficit - ((n / 16 : Nat) : Int)) (-4 * ((q.word.extractLsb' 16 16).toNat * 65536))))

/-- 02 R61, R64, 11 R287, R288, R293: a save at a safe point writes the image of the context over its save area and the
context waits, saved, and owns no chain; a restore of a good image gives the context the registers of the image, the pc that
was saved, no handler mode, and, where the image holds one, its chain. -/
def Obligations.ContextsAreSavedAndRestored : Prop :=
  ∀ (s : State) (c : CoreRef) (x : BitVec 2),
    let k := s.ctx c x
    let r : CtxRef := ⟨c.die, c.core, x⟩
    let st := s.stream k.stream
    (∀ p q, s.issue = none → k.life = .saving → (s.qrec st.die st.q).killing = false → s.saveCheck st.asid k.saveArea = 0 →
      s.quiet c x = true → (s.reqs.any fun y => y.core == c && y.ctx == x) = false → k.reports = [] → s.areaStill k.saveArea = true →
      s.span st.asid k.saveArea 131072 false true false = .ok [(p, 65536), (q, 65536)] →
      (p.key + 65536 ≤ q.key ∨ q.key + 65536 ≤ p.key) → s.memOk → answers (.contextSave r) s fun t =>
        let own := (s.core c).owner == some x
        let ch := if own then s.spillChans c else (none, none)
        let img := saveImage (s.modCtx c x Ctx.landAll) c x k.resumePc own (chanEntries (s.die c.die) ch.1) (chanEntries (s.die c.die) ch.2)
        (∀ a, bucketByte a = false → readByte t.mem a =
          if p.key ≤ a ∧ a < p.key + 65536 then (img.getD (a - p.key) (0, false)).1
          else if q.key ≤ a ∧ a < q.key + 65536 then (img.getD (65536 + (a - q.key)) (0, false)).1 else readByte s.mem a) ∧
        ((t.ctx c x).life = .saved ∨ (t.ctx c x).life = .free) ∧ t.reqs = s.reqs ∧ (t.core c).owner ≠ some x) ∧
    (∀ v l, (st.saved.find? fun v => v.rank == k.rank.toNat) = some v → k.life = .restoring → k.preempt = false → k.startAt ≤ s.time →
      s.span st.asid v.area 131072 false false false = .ok l → s.still l = true → s.spanPoison l = false → imageOk (s.spanRead l) = true →
      ((natAt (s.spanRead l) 0x28 8).testBit 17 = true → (s.core c).owner = none) → answers (.contextRestore r) s fun t =>
        let u := t.ctx c x
        let w := fun (o : Nat) => BitVec.ofNat 64 (natAt (s.spanRead l) o 8)
        u.life = .running ∧ (∀ i, i < 64 → u.s.getD i 0 = w (0x100 + 8 * i)) ∧ (∀ i, i < 6 → u.shadow.getD i 0 = w (0x300 + 8 * i)) ∧
        u.p = (w 0x340).setWidth 16 ∧ (∀ i, i < 8 → u.k.getD i 0 = w (0x380 + 8 * i)) ∧
        (∀ i, i < 32 → u.v.getD i 0 = BitVec.ofNat 2048 (natAt (s.spanRead l) (0x1000 + 256 * i) 256)) ∧
        u.fmt = (w 0x540).setWidth 16 ∧ u.tcause = w 0x5A0 ∧ u.tpc = w 0x5A8 ∧ u.hmode = false ∧ u.pc = w 0x20 &&& ~~~63#64 ∧
        u.stream = k.stream ∧ u.rank = k.rank ∧ u.pend = [] ∧ u.acqTime = s.time ∧ t.mem = s.mem ∧
        ((natAt (s.spanRead l) 0x28 8).testBit 17 = true → (t.core c).owner = some x ∧
          chainOfImage (((s.spanRead l).drop 0x7000).take imageBytes) (imagePfmt (s.spanRead l)) = some (t.core c).chain))

namespace Sys2Proof.Claims
open Sys2Proof.Machine

/-! ### The Postmaster and the Sorting office (17 R368 to R389) -/

/-- The state in which the slot that begins does its work (17 R377). -/
def begun (s : State) (d : BitVec 2) : State := s.modDie d fun x => { x with slots := x.slots + 1, frankLeft := 0 }

/-- Nothing but one die differs. -/
def OnlyDie (s t : State) (d : BitVec 2) : Prop := (∀ e, e ≠ d → t.die e = s.die e) ∧ ({ t with dies := s.dies } : State) = s

/-- An address outside `n` bytes from `k`. -/
def beyond (a k n : Nat) : Bool := decide (a < k) || decide (k + n ≤ a)

/-- The requests that a fault slot of a die looks at. -/
def heldAt (s : State) (d : BitVec 2) : List Req := s.reqs.filter fun r => r.phase.isHeld && vaDie r.heldVa == d

/-- The requests with one of them looked at again. -/
def reissued (s : State) (r : Req) : List Req := mapReqs s.reqs r.id fun q => { q with phase := .issued, admitted := true }

/-- 19 R423: a mailbox that has been answered: STATUS and the data that the command gives, in their words; the others stand. -/
def answered (f : Fn) (status : Nat) (data : List Word) : Fn :=
  { f with busy := false, resp := Vector.ofFn fun i => (BitVec.ofNat 64 status :: data).getD i.val (f.resp.getD i.val 0) }

/-- Every function but one is as it was. -/
def OtherFns (s t : State) (fn : BitVec 5) : Prop := ∀ f, f ≠ fn → t.fn f = s.fn f

/-- A die differs at most by the translations that reads have cached and the counts of events (18 R399, R412). -/
def OnlySeen (x y : Die) : Prop := ({ y with tlb := x.tlb, telem := x.telem, asidErrs := x.asidErrs } : Die) = x

/-- 17 R375: a command of a queue has started: it has left the ring, and is at work or due with a status; packets that its queue has
sent for it are done with. -/
def Started (s t : State) (d : BitVec 2) (q : BitVec 8) (b : Bundle) (ph : CmdPhase) (status : BitVec 8) : Prop :=
  let r := s.qrec d q
  t.qrec d q = { r with head := r.head + 1 } ∧ (∀ p, p ≠ q → t.qrec d p = s.qrec d p) ∧ (∀ e, e ≠ d → OnlySeen (s.die e) (t.die e)) ∧
  (∀ p ∈ t.packets, p ∈ s.packets) ∧ (∀ p ∈ s.packets, p.who ≠ .office d q → p ∈ t.packets) ∧
  ({ t with dies := s.dies, nextId := s.nextId, packets := s.packets } : State) = s ∧
  ∃ m, (t.die d).qcmds = (s.die d).qcmds ++ [m] ∧ m.q = q ∧ m.cmd = b ∧ m.index = r.head ∧ m.phase = ph ∧ m.status = status ∧ m.pos = 0 ∧
    m.kind = 1

/-- 17 R372: a command with its opcode. -/
def QueueOp (d : BitVec 2) (q : BitVec 8) (b : Bundle) (n : Nat) (i : Instr) : Prop :=
  (n = 1 ∧ i = .launch d q b) ∨ (n = 2 ∧ i = .copy d q b) ∨ (n = 3 ∧ i = .signal d q b) ∨ (n = 4 ∧ i = .hold d q b) ∨
  (n = 5 ∧ i = .arm d q b) ∨ (n = 6 ∧ i = .tagfill d q b) ∨ (n = 7 ∧ i = .map d q b) ∨ (n = 8 ∧ i = .unmap d q b)

/-- The words of a command. -/
def packetWords (b : Bundle) : Vector Word 8 := Vector.ofFn fun i => cmdWord b i.val

/-- 17 R387: what becomes of an entry on a counter that has stepped to `v`. -/
def afterStep (e : FrankEntry) (v : Word) : Option FrankEntry :=
  if (e.words.getD 2 0).toNat ≤ v.toNat then
    (if (e.words.getD 1 0).getLsbD 26 then some { e with words := e.words.set 2 (e.words.getD 2 0 + e.words.getD 3 0), seen := true } else none)
  else some { e with seen := true }

end Sys2Proof.Claims

open Sys2Proof Sys2Proof.Machine Sys2Proof.Claims

/-- 17 R377, R378, 18 R401, 20 R430: a frame and each kind of slot begin when they are due, and do their work: an idle
slot none; a doorbell slot hands the TAIL of every marked queue over and clears the marks; a fault slot backs a page from
the reserve, or looks again at a request whose page is there; a retirement slot settles what is due; a franking slot
performs what has fired; a mailbox slot serves a request, and those of the management port; at a frame boundary a table that waits
is installed or discarded, and a route table waits for the packets whose routes it changes. The frame that a fault slot takes is the
first of the reserve: the model's own choice (log entry 17). 20 R434, 18 R412 and the model's own choice of log entry 1: a telemetry
slot lets the counters of what the model does not decide rise by free amounts, with the corrected errors of one ASID; none falls, and
every other counter, and everything else, is as it was. -/
def Obligations.FramesAndSlotsDoTheirWork : Prop :=
  (∀ (s : State) (d : BitVec 2),
    let x := s.die d
    (s.slotDue d 0 = true → exec (.idleSlot d) s = .next (begun s d)) ∧
    (s.slotDue d 1 = true → answers (.doorbellSlot d) s fun t =>
      OnlyDie s t d ∧ (t.die d).doorbells = 0 ∧ (t.die d).slots = x.slots + 1 ∧
      (∀ q, t.qrec d q = if x.doorbells.getLsbD q.toNat then { s.qrec d q with handed := (s.qrec d q).tail } else s.qrec d q) ∧
      ({ t.die d with doorbells := x.doorbells, queues := x.queues, slots := x.slots, frankLeft := x.frankLeft } : Die) = x) ∧
    (s.slotDue d 2 = true → heldAt s d = [] → x.hostMigr = [] → exec (.mtuFaultSlot d) s = .next (begun s d)) ∧
    (∀ r l, s.slotDue d 2 = true → heldAt s d = [r] → x.hostMigr = [] → s.devStill d = true → s.walk d r.asid (vaOff r.heldVa) = some l → l.pte.kind = 2 →
      ((reqNeeds r).2.1 = false ∨ l.pte.w = true) →
      exec (.mtuFaultSlot d) s = .next { begun s d with reqs := reissued s r }) ∧
    (∀ r l f rest, s.slotDue d 2 = true → heldAt s d = [r] → x.hostMigr = [] → s.devStill d = true → s.walk d r.asid (vaOff r.heldVa) = some l → l.pte.kind = 4 →
      x.reserve = f :: rest → l.big = false → l.pte.tagged = false → (l.at_ + 16 ≤ f ∨ f + 65536 ≤ l.at_) → s.memOk →
      answers (.mtuFaultSlot d) s fun t => t.reqs = reissued s r ∧ (t.die d).reserve = rest ∧
        (∀ j, j < 65536 → readByte t.mem (hbmKey d (f + j)) = 0) ∧
        readNat t.mem (hbmKey d l.at_) 16 = (l.pte.withKind 2 f).toNat ∧
        ∀ a, beyond a (hbmKey d f) 65536 → beyond a (hbmKey d l.at_) 16 → readByte t.mem a = readByte s.mem a) ∧
    (s.slotDue d 3 = true → x.calls = [] → x.asks = [] → (∀ st ∈ s.streams, s.abandoned st = false) →
      ((∀ m ∈ x.qcmds, m.phase ≠ .due) → exec (.retirementSlot d) s = .next (begun s d)) ∧
      (∀ m, (x.qcmds.filter fun m => m.phase == .due) = [m] → m.kind = 1 → cmdRec m.cmd = false → cmdCnt m.cmd = true →
        x.ctrOwner.getD (cmdCidx m.cmd) 0xFF = (s.qrec d m.q).owner → answers (.retirementSlot d) s fun t =>
          (t.die d).counters.getD (cmdCidx m.cmd) 0 = x.counters.getD (cmdCidx m.cmd) 0 + 1 ∧
          (t.die d).qcmds = (x.qcmds.filter fun y => y.id != m.id) ∧ t.mem = s.mem ∧ t.cores = s.cores)) ∧
    (s.slotDue d 4 = true → x.fired = [] → exec (.frankingSlot d) s = .next (begun s d)) ∧
    (∀ e p, s.slotDue d 4 = true → x.fired = [e] → (e.words.getD 1 0).extractLsb' 24 2 = 2 →
      partCore x e.tenant ((e.words.getD 4 0).extractLsb' 0 8).toNat = some p →
      let f : BitVec 5 := (e.words.getD 4 0).extractLsb' 8 5
      let v : BitVec 16 := flag (s.core ⟨d, p⟩) f + (e.words.getD 5 0).setWidth 16
      NoneServed (s.core ⟨d, p⟩) f v → answers (.frankingSlot d) s fun t =>
        flag (t.core ⟨d, p⟩) f = v ∧ (t.die d).fired = [] ∧ (∀ c, c ≠ ⟨d, p⟩ → t.core c = s.core c) ∧ t.mem = s.mem) ∧
    (s.slotDue d 6 = true → s.mailboxes d = [] → s.mgmt = [] → exec (.mailboxSlot d) s = .next (begun s d)) ∧
    (s.slotDue d 6 = true → s.mailboxes d = [] → s.mgmt = [.getEid] →
      exec (.mailboxSlot d) s = .next { begun s d with mgmt := [], outbox := s.outbox ++ [.mctp 0 [s.island.eid.setWidth 64]] }) ∧
    (s.slotDue d 6 = true → s.mailboxes d = [0] → ((s.fn 0).req.getD 0 0).extractLsb' 0 8 = 2 → ((s.fn 0).req.getD 1 0).toNat ≤ 255 →
      answers (.mailboxSlot d) s fun t =>
        (t.die d).hwin = ((s.fn 0).req.getD 1 0).toNat ∧ t.fn 0 = answered (s.fn 0) 0 [] ∧ OtherFns s t 0 ∧ t.mem = s.mem) ∧
    (x.up = true → x.frames * 11200 ≤ s.time → x.frames * 128 ≤ x.slots →
      (x.schedNext = none → x.routeNext = none → exec (.postmasterFrame d) s = .next (s.setDie d { x with frames := x.frames + 1 })) ∧
      (∀ b, x.schedNext = some b → x.routeNext = none → answers (.postmasterFrame d) s fun t =>
        t.die d = { x with frames := x.frames + 1, schedNext := none, sched := if schedOk s.island b then b else x.sched } ∧
        t.fn 0 = (if schedOk s.island b then s.fn 0 else { s.fn 0 with funcerr := (s.fn 0).funcerr ||| 4 }) ∧ OtherFns s t 0 ∧
        t.mem = s.mem) ∧
      (∀ b, x.schedNext = none → x.routeNext = some b →
        ((∀ p ∈ s.packets, p.phase = .sent → b.getD p.dest.toNat 0 = x.routes.getD p.dest.toNat 0) → answers (.postmasterFrame d) s fun t =>
          t.die d = { x with frames := x.frames + 1, routes := b, routeNext := none } ∧ t.fn 0 = answered (s.fn 0) 0 [] ∧ OtherFns s t 0 ∧
          t.mem = s.mem) ∧
        (∀ p ∈ s.packets, p.phase = .sent → b.getD p.dest.toNat 0 ≠ x.routes.getD p.dest.toNat 0 →
          exec (.postmasterFrame d) s = .next (s.setDie d { x with frames := x.frames + 1 }))))) ∧
  (∀ (s : State) (d : BitVec 2), s.slotDue d 5 = true → answers (.telemetrySlot d) s fun t =>
    (∀ i, ((s.die d).counterAt i).toNat ≤ ((t.die d).counterAt i).toNat) ∧
    (∀ i, i < 30 → i ∉ [0, 1, 2, 3, 4, 5, 8, 27, 28] → (t.die d).telem.getD i 0 = (s.die d).telem.getD i 0) ∧
    (∃ a, ∀ i, 30 ≤ i → (i - 30) / 3 ≠ a ∨ (i - 30) % 3 ≠ 0 → (t.die d).counterAt i = (s.die d).counterAt i) ∧
    OnlyDie s t d ∧
    ({ t.die d with telem := (s.die d).telem, asidErrs := (s.die d).asidErrs } : Die) =
      { s.die d with slots := (s.die d).slots + 1, frankLeft := 0 })

/-- 17 R371, R372, R375, R386: the head command of an enabled queue starts: HOLD, once its counter has reached N, and ARM
are done at once; ARM's entry is armed, and fires if its counter has reached its threshold; a COPY is accepted by a bulk
copy engine that has room for it, or waits (01 R36; which engine is free, log entry 1); the others are at work; a command
with a format error is due with status 20. 17 R373, R374, R383, 01 R12 to R15: a LAUNCH whose descriptor is rejected is
due with its status; one whose cores all have a free context becomes a stream, with one reserved context on each core of
its ROW, in rank order, the lowest that is free; one that cannot be placed is passed over, its eighth pass-over reserves
its cores, and it asks for pre-emptions if its queue may (17 R384). -/
def Obligations.QueueCommandsStartAndLaunchesPlaceStreams : Prop :=
  (∀ (s : State) (d : BitVec 2) (q : BitVec 8) (b : Bundle) (n : Nat) (i : Instr), QueueOp d q b n i → s.mayStart d q b n = true →
    let r := s.qrec d q
    let x := s.die d
    (commandOk x q r.owner b = false → answers i s fun t =>
      Started s t d q b .due 20 ∧ (t.die d).counters = x.counters ∧ (t.die d).frank = x.frank) ∧
    (commandOk x q r.owner b = true →
      (n = 4 → answers i s fun t => Started s t d q b .due 0 ∧ (t.die d).counters = x.counters ∧ (t.die d).frank = x.frank) ∧
      (n = 2 → s.bulkRoom d (s.freeVal 3 3720) = true → answers i s fun t =>
        Started s t d q b .queued 0 ∧ (t.die d).counters = x.counters ∧ (t.die d).frank = x.frank ∧
        ((t.die d).qcmds.getLast?.map (·.bce)) = some (some (s.freeVal 3 3720))) ∧
      (n = 2 → s.bulkRoom d (s.freeVal 3 3720) = false → exec i s = .next s) ∧
      (n = 3 ∨ 6 ≤ n → answers i s fun t =>
        Started s t d q b .moving 0 ∧ (t.die d).counters = x.counters ∧ (t.die d).frank = x.frank) ∧
      (n = 5 → answers i s fun t =>
        let k := ((cmdWord b 1).extractLsb' 0 9).toNat
        let e : FrankEntry := ⟨packetWords b, r.owner, r.asid, false⟩
        let v := x.counters.getD ((cmdWord b 1).extractLsb' 16 8).toNat 0
        Started s t d q b .due 0 ∧ (t.die d).counters = x.counters ∧ (t.die d).frank = x.frank.setIfInBounds k (afterStep e v) ∧
        (t.die d).fired = (if (cmdWord b 2).toNat ≤ v.toNat then x.fired ++ [e] else x.fired)))) ∧
  (∀ (s : State) (d : BitVec 2) (q : BitVec 8) (b : Bundle), s.mayStart d q b 1 = true → commandOk (s.die d) q (s.qrec d q).owner b = true →
    let r := s.qrec d q
    (∀ n, s.checkLaunch d q b = .rejected n → answers (.launch d q b) s fun t => Started s t d q b .due (BitVec.ofNat 8 n)) ∧
    (∀ l, s.checkLaunch d q b = .ok l →
      let row : BitVec 256 := BitVec.ofNat 256 (natAt l 0x60 32)
      let cores := (rowList row).filterMap (partCore (s.die d) r.owner)
      let w := fun (o : Nat) => BitVec.ofNat 64 (natAt l o 8)
      (s.placeable d q cores = true → answers (.launch d q b) s fun t =>
        ∃ st, t.streams = s.streams ++ [st] ∧ st.key = s.nextId ∧ st.die = d ∧ st.q = q ∧ st.tenant = r.owner ∧ st.asid = r.asid ∧
          st.index = r.head ∧ st.param = cmdWord b 2 ∧ st.streamId = (cmdWord b 3).setWidth 32 ∧ st.entry = w 8 ∧ st.codeBase = w 0x10 ∧
          st.codeLimit = w 0x18 ∧ st.tvec = w 0x20 ∧ st.saveBase = w 0x28 ∧ st.row = row ∧ st.cores = cores ∧ s.time ≤ st.t0 ∧
          st.kill = none ∧ st.out = false ∧
          (∀ rank rel core, (rowList row)[rank]? = some rel → partCore (s.die d) r.owner rel = some core →
            ∃ y, s.freeCtx ⟨d, core⟩ = some y ∧
              let k := t.ctx ⟨d, core⟩ y
              k.life = .reserved ∧ k.stream = s.nextId ∧ k.rank = BitVec.ofNat 8 rank ∧ k.coreIdx = BitVec.ofNat 8 rel ∧ k.pc = st.entry ∧
              k.startAt = st.t0 + rank * st.skew ∧ k.hmode = false) ∧
          (∀ c y, (s.ctx c y).life ≠ .free → t.ctx c y = s.ctx c y) ∧
          (t.qrec d q).head = r.head + 1 ∧ (t.qrec d q).passes = 0 ∧ (t.qrec d q).resv = none ∧ t.mem = s.mem) ∧
      (s.placeable d q cores = false → answers (.launch d q b) s fun t =>
        (t.qrec d q).head = r.head ∧ (t.qrec d q).passes = min (r.passes + 1) 255 ∧
        (t.qrec d q).resv = (if r.passes = 7 then some ⟨s.time, coreSet cores⟩ else r.resv) ∧ OnlyDie s t d ∧
        (r.mayPreempt = true → (q, coreSet cores) ∈ (t.die d).asks) ∧ (r.mayPreempt = false → (t.die d).asks = (s.die d).asks))))

/-- 17 R381: dispatch serves the ready URGENT queue, unless eight in a row have been served; else the next NORMAL queue
after the cursor: one that holds no command loses its deficit, one that is not ready keeps it, and one that is ready gains
its quantum and is served; with neither nothing starts. -/
def Obligations.DispatchServesTheNextQueue : Prop :=
  ∀ (s : State) (d : BitVec 2), (s.die d).up = true → (∀ q, s.fetchHead d q = s) →
    (s.urgentHead d = none → s.nextNormal d = none → exec (.dispatchStep d) s = .next (s.setDie d { s.die d with urgentRun := 0 })) ∧
    (∀ u b, (s.die d).urgentRun < 8 → s.urgentHead d = some u → (s.qrec d u).resume = [] → s.headCmd d u = some b → (cmdOpc b = 3 ∨ 6 ≤ cmdOpc b) →
      commandOk (s.die d) u (s.qrec d u).owner b = true → answers (.dispatchStep d) s fun t =>
        (t.die d).urgentRun = (s.die d).urgentRun + 1 ∧ (t.die d).cursor = (s.die d).cursor ∧
        (t.qrec d u).head = (s.qrec d u).head + 1 ∧ (∀ p, p ≠ u → t.qrec d p = s.qrec d p) ∧ t.mem = s.mem ∧
        ∃ m, (t.die d).qcmds = (s.die d).qcmds ++ [m] ∧ m.cmd = b ∧ m.phase = .moving) ∧
    (∀ q b, ((s.die d).urgentRun = 8 ∨ s.urgentHead d = none) → s.nextNormal d = some q → (s.qrec d q).resume = [] →
      s.headCmd d q = some b → (cmdOpc b = 3 ∨ 6 ≤ cmdOpc b) → commandOk (s.die d) q (s.qrec d q).owner b = true →
      0 < (s.qrec d q).deficit + (s.qrec d q).quantum → answers (.dispatchStep d) s fun t =>
        (t.die d).urgentRun = 0 ∧ (t.die d).cursor = q ∧ (t.qrec d q).head = (s.qrec d q).head + 1 ∧
        (t.qrec d q).deficit = min ((s.qrec d q).deficit + (s.qrec d q).quantum) (s.qrec d q).quantum ∧
        (∀ p, p ≠ q → t.qrec d p = s.qrec d p) ∧ t.mem = s.mem ∧
        ∃ m, (t.die d).qcmds = (s.die d).qcmds ++ [m] ∧ m.cmd = b ∧ m.phase = .moving) ∧
    (∀ q, ((s.die d).urgentRun = 8 ∨ s.urgentHead d = none) → s.nextNormal d = some q → (s.qrec d q).resume = [] →
      (s.qrec d q).handed = (s.qrec d q).head → answers (.dispatchStep d) s fun t =>
        (t.die d).urgentRun = 0 ∧ (t.die d).cursor = q ∧ t.qrec d q = { s.qrec d q with deficit := 0, passes := 0 } ∧
        (∀ p, p ≠ q → t.qrec d p = s.qrec d p) ∧ OnlyDie s t d ∧ (t.die d).qcmds = (s.die d).qcmds) ∧
    (∀ q, ((s.die d).urgentRun = 8 ∨ s.urgentHead d = none) → s.nextNormal d = some q →
      ((s.qrec d q).resume ≠ [] ∨ (s.qrec d q).handed ≠ (s.qrec d q).head) → s.queueReady d q = false →
      exec (.dispatchStep d) s = .next (s.setDie d { s.die d with urgentRun := 0, cursor := q }))

/-- 17 R371, R372, R375, R376, R388, 18 R398, R400: a SIGNAL at work stores its value; a COPY is taken up by its engine,
and copies burst by burst; a MAP writes its entry; a command with nothing outstanding is due; a completion due writes its
record at CTAIL, or is dropped in a full ring, and raises the vector where IRQ and IRQEN are set; a drained queue is
DISABLED after its KIND 4 record. 17 R388, R376: a queue of which nothing is left writes its KIND 4 record and is
DISABLED; with a full ring the record is dropped and OVF set. -/
def Obligations.QueueCommandsWorkCompleteAndDrain : Prop :=
  (∀ (s : State) (d : BitVec 2) (id : Nat) (m : QCmd), (s.die d).qcmd? id = some m → (s.die d).up = true → s.memOk →
    let r := s.qrec d m.q
    (∀ p, m.phase = .moving → cmdOpc m.cmd = 3 → (cmdWord m.cmd 3).getLsbD 0 = false → s.inTurn d r.owner = true → Local p →
      s.still [(p, 8)] = true → s.rangeAt d r.asid (cmdWord m.cmd 1) 8 false true false = .ok [(p, 8)] → answers (.engineBurst (.queue d id)) s fun t =>
        (∀ a, readByte t.mem a = storedByte s.mem p.key 8 (cmdWord m.cmd 2).toNat a) ∧
        (t.die d).qcmd? id = some { m with phase := .leases 0 } ∧ t.cores = s.cores ∧ t.reqs = s.reqs) ∧
    (∀ o a, m.phase = .moving → cmdOpc m.cmd = 7 → s.mapSlots d r.owner (mapCmd m.cmd) = some [(o, a)] →
      leavesOf s d (mapCmd m.cmd).lvl o (s.pteAt d a) = [] → answers (.engineBurst (.queue d id)) s fun t =>
        (∀ x, readByte t.mem x = storedByte s.mem (hbmKey d a) 16 (cmdWord m.cmd 4 ++ cmdWord m.cmd 3).toNat x) ∧
        (∃ u, (t.die d).qcmd? id = some u ∧ u.phase = .leases 0 ∧ u.pages = [] ∧ u.status = m.status) ∧ t.cores = s.cores ∧ t.reqs = s.reqs) ∧
    (∀ n, m.phase = .leases n → n ≤ s.time → m.pages = [] → answers (.engineCommandComplete (.queue d id)) s fun t =>
      (t.die d).qcmd? id = some { m with phase := .due, bce := none, pos := 0 } ∧ t.mem = s.mem ∧ t.cores = s.cores) ∧
    (s.copyMayStart d m = true → answers (.engineCommandStart (.queue d id)) s fun t =>
      (t.die d).qcmd? id = some { m with phase := .moving } ∧ (∀ q, t.qrec d q = s.qrec d q) ∧ ({ t with dies := s.dies } : State) = s) ∧
    (∀ p q, m.phase = .moving → cmdOpc m.cmd = 2 → cmdBits m.cmd 3 51 48 = 0 → (cmdWord m.cmd 3).getLsbD 52 = false →
      s.inTurn d r.owner = true →
      let len := cmdBits m.cmd 3 47 0
      let a := cmdWord m.cmd 1 + BitVec.ofNat 64 m.pos
      let b := cmdWord m.cmd 2 + BitVec.ofNat 64 m.pos
      let n := min (len - m.pos) (min (256 - b.toNat % 256) (65536 - a.toNat % 65536))
      m.pos < len → Local p → Local q → s.still [(p, n), (q, n)] = true → s.rangeAt d r.asid a n true false false = .ok [(p, n)] →
      (s.fillRange r.asid (s.routed d a) n).rangeAt d r.asid b n false true false = .ok [(q, n)] → s.poison = [] → answers (.engineBurst (.queue d id)) s fun t =>
        (∀ x, readByte t.mem x = storedByte s.mem q.key n (readNat s.mem p.key n) x) ∧
        (t.die d).qcmd? id = some { m with pos := m.pos + n, phase := if len ≤ m.pos + n then .leases 0 else .moving } ∧
        t.cores = s.cores ∧ t.reqs = s.reqs) ∧
    (∀ p, m.phase = .due → (s.die d).activity = 3 → m.kind = 1 → cmdRec m.cmd = true → cmdCnt m.cmd = false →
      (r.ctail - r.chead).toNat ≠ 2 ^ r.clog → Local p → s.still [(p, 64)] = true →
      s.rangeAt d r.asid (r.cbase + BitVec.ofNat 64 (64 * (r.ctail.toNat % 2 ^ r.clog))) 64 false true false = .ok [(p, 64)] →
      answers (.queueCommandComplete d id) s fun t =>
        readNat t.mem p.key 1 = 1 ∧ readNat t.mem (p.key + 1) 1 = cmdOpc m.cmd ∧ readNat t.mem (p.key + 2) 1 = m.status.toNat ∧
        readNat t.mem (p.key + 4) 4 = ((cmdWord m.cmd 0).extractLsb' 32 32).toNat ∧ readNat t.mem (p.key + 8) 4 = m.index.toNat ∧
        readNat t.mem (p.key + 12) 4 = m.stream % 2 ^ 32 ∧
        (∀ a, beyond a p.key 64 → readByte t.mem a = readByte s.mem a) ∧ t.qrec d m.q = { r with ctail := r.ctail + 1 } ∧
        (t.die d).qcmds = ((s.die d).qcmds.filter fun y => y.id != m.id) ∧
        t.outbox = (if r.ctl.getLsbD 14 = true ∧ cmdIrq m.cmd = true then s.outbox ++ [.msix r.owner (r.ctl.extractLsb' 8 6)] else s.outbox)) ∧
    (m.phase = .due → (s.die d).activity = 3 → m.kind = 1 → cmdRec m.cmd = true → cmdCnt m.cmd = false →
      (r.ctail - r.chead).toNat = 2 ^ r.clog → answers (.queueCommandComplete d id) s fun t =>
        t.mem = s.mem ∧ t.qrec d m.q = { r with ovf := true } ∧ (t.die d).qcmds = ((s.die d).qcmds.filter fun y => y.id != m.id) ∧
        t.outbox = s.outbox)) ∧
  (∀ (s : State) (d : BitVec 2) (q : BitVec 8), s.drained d q = true → (s.die d).up = true → s.memOk →
    let r := s.qrec d q
    (∀ p, (r.ctail - r.chead).toNat ≠ 2 ^ r.clog → Local p → s.still [(p, 64)] = true →
      s.rangeAt d r.asid (r.cbase + BitVec.ofNat 64 (64 * (r.ctail.toNat % 2 ^ r.clog))) 64 false true false = .ok [(p, 64)] →
      answers (.queueDrainComplete d q) s fun t =>
        (t.qrec d q).state = .disabled ∧ (t.qrec d q).ctail = r.ctail + 1 ∧ (t.qrec d q).resv = none ∧
        readNat t.mem p.key 8 = 4 ∧ readNat t.mem (p.key + 16) 4 = r.retired.toNat ∧ readNat t.mem (p.key + 20) 4 = r.killed.toNat ∧
        readNat t.mem (p.key + 24) 8 = (r.tail - r.head).toNat ∧
        (∀ a, beyond a p.key 64 → readByte t.mem a = readByte s.mem a) ∧ (∀ p, p ≠ q → t.qrec d p = s.qrec d p) ∧ t.streams = s.streams) ∧
    ((r.ctail - r.chead).toNat = 2 ^ r.clog → answers (.queueDrainComplete d q) s fun t =>
      (t.qrec d q).state = .disabled ∧ (t.qrec d q).ovf = true ∧ (t.qrec d q).ctail = r.ctail ∧ t.mem = s.mem ∧ t.streams = s.streams))

/-- 17 R385, R387: a postmark counter takes its increment or store, and every entry that watches it fires once its
threshold is reached, to disarm or step on; an ENQUEUE that waited puts its command at TAIL of its queue and marks the
doorbell. -/
def Obligations.CountersFireFrankingEntries : Prop :=
  ∀ (s : State) (d : BitVec 2),
    let x := s.die d
    (∀ (ctr : BitVec 8) (store : Bool) (value : Word), answers (.postmarkIncrement d ctr store value) s fun t =>
      let v := if store then value else x.counters.getD ctr.toNat 0 + value
      (t.die d).counters = x.counters.setIfInBounds ctr.toNat v ∧ OnlyDie s t d ∧
      (∀ k, k < 512 → x.frank.getD k none = none → (t.die d).frank.getD k none = none) ∧
      (∀ k e, k < 512 → x.frank.getD k none = some e →
        if (e.words.getD 1 0).extractLsb' 16 8 = ctr then
          (t.die d).frank.getD k none = afterStep e v ∧ ((e.words.getD 2 0).toNat ≤ v.toNat → e ∈ (t.die d).fired)
        else (t.die d).frank.getD k none = some e)) ∧
    (∀ e l p, x.up = true → x.activity = 4 → 0 < x.frankLeft → x.fired = [e] → (e.words.getD 1 0).extractLsb' 24 2 = 0 →
      let q : BitVec 8 := (e.words.getD 4 0).setWidth 8
      let r := s.qrec d q
      let s0 := s.modDie d fun x => { x with fired := [] }
      r.owner = e.tenant → r.state = .enabled → (r.tail - r.head).toNat < 2 ^ r.rlog →
      s0.rangeAt d e.asid (e.words.getD 5 0) 64 true false false = .ok l → s.still l = true → (s.spanRead l).length = 64 →
      (s0.officeSeen d e.asid (e.words.getD 5 0) 64).rangeAt d r.asid (r.cmdAddr r.tail) 64 false true false = .ok [(p, 64)] →
      Local p → s.still [(p, 64)] = true → s.memOk →
      answers (.frankEnqueue d) s fun t =>
        (∀ a, readByte t.mem a = if beyond a p.key 64 then readByte s.mem a else (s.spanRead l).getD (a - p.key) 0) ∧
        t.qrec d q = { r with tail := r.tail + 1 } ∧ (t.die d).doorbells = x.doorbells ||| (1#256 <<< q.toNat) ∧ (t.die d).fired = [] ∧
        (t.die d).frankLeft = 0 ∧ t.cores = s.cores)

namespace Sys2Proof.Claims
open Sys2Proof.Machine

/-! ### The host's writes (17 R363 to R369, R386 to R391, 18 R394, R395) -/

/-- 17 R363: the write was refused: FUNCERR has gained bits, and nothing else has changed. -/
def FuncErr (s t : State) (fn : BitVec 5) (bits : BitVec 3) : Prop :=
  t.fn fn = { s.fn fn with funcerr := (s.fn fn).funcerr ||| bits } ∧ OtherFns s t fn ∧ ({ t with fns := s.fns } : State) = s

/-- One queue record has become `r`; nothing else has changed but, where `bell` reply so, its doorbell mark. -/
def OnlyQueue (s t : State) (d : BitVec 2) (q : BitVec 8) (r : QueueRec) (bell : Bool) : Prop :=
  t.qrec d q = r ∧ (∀ p, p ≠ q → t.qrec d p = s.qrec d p) ∧ OnlyDie s t d ∧
  (t.die d).doorbells = (if bell then (s.die d).doorbells ||| (1#256 <<< q.toNat) else (s.die d).doorbells) ∧
  ({ t.die d with queues := (s.die d).queues, doorbells := (s.die d).doorbells } : Die) = s.die d

/-- 17 R365 to R368: what an assignment word does to a queue: refused, or its new record. -/
def assigned (r : QueueRec) (q : BitVec 8) (v : Word) : Option QueueRec :=
  let o : BitVec 8 := v.setWidth 8
  let w := v &&& 0xFFFFFFFFFFFF1FFF
  if q = 0 ∨ (16 < o.toNat ∧ o ≠ 0xFF) then none
  else if o = r.owner then some { r with word := w }
  else if r.state = .enabled ∨ r.state = .draining then none
  else if o = 0xFF then some { r with word := w, state := .free }
  else if r.state = .free then some { QueueRec.reset with word := w, state := .disabled }
  else some { r with word := w }

/-- 17 R363 to R369, R381: a read of 8 bytes of BAR0 returns the register at its offset to a function that may read it: FUNCID
and FUNCERR to each function, TAIL and the words of a queue's record to its owner, an assignment word and the tenancy tables
to the physical function; any other read returns 0 and sets bit 0 of FUNCERR. The places of FUNCID and FUNCERR, and that what
is reserved reads as refused, are the model's own choices (log entry 74). -/
def ReadOfBar0 (s : State) (fn : BitVec 5) (off : BitVec 18) : Prop :=
  let got := fun (v : Word) =>
    exec (.refusedRead fn (0#1 ++ off)) s = .next { s with outbox := s.outbox ++ [.read fn (bytesOfNat v.toNat 8)] }
  let refused := answers (.refusedRead fn (0#1 ++ off)) s fun t =>
    t.outbox = s.outbox ++ [.read fn (List.replicate 8 0)] ∧ FuncErr s { t with outbox := s.outbox } fn 1
  (off = 0 → ∃ v : Word, v.setWidth 8 = (fn.setWidth 8 : BitVec 8) ∧ got v) ∧ (off = 8 → got ((s.fn fn).funcerr.setWidth 64)) ∧
  (∀ (d : BitVec 2) (q : BitVec 8), (s.die d).up = true →
    let r := s.qrec d q
    (off.toNat = 0x1000 * (d.toNat + 1) + 8 * q.toNat →
      (r.owner = fn.setWidth 8 → got (r.tail.setWidth 64)) ∧ (r.owner ≠ fn.setWidth 8 → refused)) ∧
    (∀ k : BitVec 3, off = 1#2 ++ d ++ q ++ k ++ 0#3 →
      (r.owner = fn.setWidth 8 → got (r.wordAt (8 * k.toNat))) ∧ (r.owner ≠ fn.setWidth 8 → refused)) ∧
    (off.toNat = 0x20200 + 0x1000 * d.toNat + 8 * q.toNat → (fn = 0 → got r.word) ∧ (fn ≠ 0 → refused)) ∧
    (∀ k, k < 512 → off.toNat = 0x30000 + 0x1000 * d.toNat + 8 * k →
      (fn = 0 → got (eightOf fun i => (s.die d).asidOwner.getD (8 * k + i) 0xFF)) ∧ (fn ≠ 0 → refused))) ∧
  (off.toNat % 8 ≠ 0 ∨ 0x38080 ≤ off.toNat → refused) ∧
  (∀ r : QueueRec, r.wordAt 0 = r.rbase ∧ r.wordAt 8 = r.cbase ∧ r.wordAt 0x10 = r.ctl ∧ r.wordAt 0x18 = r.head.setWidth 64 ∧
    r.wordAt 0x20 = r.tail.setWidth 64 ∧ r.wordAt 0x28 = r.ctail.setWidth 64 ∧ r.wordAt 0x30 = r.chead.setWidth 64 ∧
    (r.urgent = false → (r.wordAt 0x38).extractLsb' 16 48 = BitVec.ofInt 48 r.deficit) ∧
    (r.urgent = true → (r.wordAt 0x38).extractLsb' 16 48 = 0))

/-- 19 R423: BAR4: a write to the 256 bytes of the request is kept; a write to DOORBELL with bit 0 set makes the mailbox busy, and
one while it is busy is dropped with FUNCERR bit 0; a read returns the request, the response, or DOORBELL. The places of the
three, and that every other access is refused as in BAR0, are the model's own choices (log entry 74). -/
def AccessOfBar4 (s : State) (fn : BitVec 5) (off : BitVec 18) (v : Word) : Prop :=
  let f := s.fn fn
  let w := exec (.registerWrite fn (1#1 ++ off) v) s
  let got := fun (v : Word) =>
    exec (.refusedRead fn (1#1 ++ off)) s = .next { s with outbox := s.outbox ++ [.read fn (bytesOfNat v.toNat 8)] }
  (∀ i, i < 32 → off.toNat = 8 * i →
    (∃ t, w = .next t ∧ t.fn fn = { f with req := f.req.setIfInBounds i v } ∧ OtherFns s t fn ∧ ({ t with fns := s.fns } : State) = s) ∧
    got (f.req.getD i 0)) ∧
  (∀ i, i < 32 → off.toNat = 0x100 + 8 * i → (∃ t, w = .next t ∧ FuncErr s t fn 1) ∧ got (f.resp.getD i 0)) ∧
  (off = 0x200 →
    (∃ t, w = .next t ∧
      if f.busy = true then FuncErr s t fn 1
      else if v.getLsbD 0 = true then
        t.fn fn = { f with busy := true, order := s.nextId } ∧ OtherFns s t fn ∧ ({ t with fns := s.fns, nextId := s.nextId } : State) = s
      else t = s) ∧
    got (if f.busy then 1 else 0)) ∧
  (off.toNat % 8 ≠ 0 ∨ 0x208 ≤ off.toNat → (∃ t, w = .next t ∧ FuncErr s t fn 1) ∧
    answers (.refusedRead fn (1#1 ++ off)) s fun t =>
      t.outbox = s.outbox ++ [.read fn (List.replicate 8 0)] ∧ FuncErr s { t with outbox := s.outbox } fn 1)

/-! ### Resets and kills (11 R294, 17 R389, R391) -/

/-- 17 R391: every tenant of a set has been reset. -/
def WasReset (s t : State) (p : BitVec 8 → Bool) : Prop :=
  (∀ st ∈ t.streams, p st.tenant = true → st.kill ≠ none) ∧ s.KeepsData t ∧
  ∀ d,
    (∀ q, let r := s.qrec d q
      (p r.owner = true → r.state ≠ .free → (t.qrec d q).state = .disabled ∧ (t.qrec d q).resume = []) ∧
      (p r.owner = false → (t.qrec d q).state = r.state)) ∧
    (∀ i, i < 256 → (t.die d).counters.getD i 0 =
      if p ((s.die d).ctrOwner.getD i 0xFF) then 0 else (s.die d).counters.getD i 0) ∧
    ∀ k e, (t.die d).frank.getD k none = some e → p e.tenant = false

/-- The tenants that the reset of a function resets: its own, or every function's for the physical function. -/
def resetBy (n : Nat) (t : BitVec 8) : Bool := if n = 0 then decide (t.toNat ≤ 16) else decide (t.toNat = n)

/-! ### Mailbox commands (19 R423) -/

/-- Nothing but the mailbox of a function differs: it has been answered. -/
def OnlyAnswer (s t : State) (fn : BitVec 5) (status : Nat) (data : List Word) : Prop :=
  t.fn fn = answered (s.fn fn) status data ∧ OtherFns s t fn ∧ ({ t with fns := s.fns } : State) = s

/-- 19 R423: a command of the physical function that changes a die: it is refused to another function (1), or for a bad
operand (2), or has its effect (0). -/
def Setting (s : State) (i : Instr) (fn : BitVec 5) (d : BitVec 2) (ok : Bool) (p : Die → Prop) : Prop :=
  (fn ≠ 0 → answers i s fun t => OnlyAnswer s t fn 1 []) ∧
  (fn = 0 → ok = false → answers i s fun t => OnlyAnswer s t fn 2 []) ∧
  (fn = 0 → ok = true → answers i s fun t =>
    p (t.die d) ∧ (∀ e, e ≠ d → t.die e = s.die e) ∧ t.fn fn = answered (s.fn fn) 0 [] ∧ OtherFns s t fn ∧
    ({ t with dies := s.dies, fns := s.fns } : State) = s)

/-- 20 R434, 18 R412: the counters of a die by number: its own, then corrected errors, substitutions and new poisonings of each
ASID (log entry 53); one that has counted nothing reads 0. -/
def telemetry (x : Die) (i : Nat) : Word :=
  if i < 30 then x.telem.getD i 0
  else match x.asidErrs.find? fun e => e.1 == (i - 30) / 3 with
    | some e => e.2.getD ((i - 30) % 3) 0
    | none => 0

/-- 18 R400: a page-table command that waits for a longer lease waits on. -/
def stretched (n : Nat) (m : QCmd) : QCmd :=
  match m.phase with
  | .leases t => if t = 0 then m else { m with phase := .leases (max t (m.pos + n)) }
  | _ => m

/-! ### The island (19 R415 to R426) -/

/-- The island after an entry of the journal has been written. -/
def measuredBy (i j : Island) (r : Nat) (x : BitVec 256) : Prop :=
  j.mr.getD r 0 = extendMr (i.mr.getD r 0) x ∧ ∀ k, k < 8 → k ≠ r → j.mr.getD k 0 = i.mr.getD k 0

end Sys2Proof.Claims

open Sys2Proof Sys2Proof.Machine Sys2Proof.Claims

/-- 17 R363, R364, R367 to R369, R388, 18 R394, 19 R423: what the host writes reaches the register it names: a doorbell
hands over a TAIL, ENABLE and DESTROY change the state of a queue, CHEAD and the words of a DISABLED queue are stored, a
BAR2 access reads or writes device memory through a window of the size that the host has set, a mailbox doorbell makes the
mailbox busy; a write to what a function does not own, or that is not allowed, is dropped and sets a bit of FUNCERR; a
read of BAR0 or of the mailbox in BAR4 returns the register at its offset, or 0 where the function may not read it. The model's own
choices: that a write at an offset that is not a multiple of 8 sets bit 0 of FUNCERR, and that a word of a record written outside
DISABLED is dropped in silence (log entry 49); the places of FUNCID and FUNCERR, and of the parts of the mailbox (log entry 74). -/
def Obligations.HostWritesReachTheirRegisters : Prop :=
  ∀ (s : State) (fn : BitVec 5) (d : BitVec 2) (q : BitVec 8),
    let r := s.qrec d q
    (s.hostOpen fn = false → ∀ v, exec (.doorbellWrite fn d q v) s = .next s ∧ exec (.queueEnable fn d q) s = .next s) ∧
    (s.hostOpen fn = true →
      (r.owner ≠ fn.setWidth 8 →
        (∀ v, answers (.doorbellWrite fn d q v) s fun t => FuncErr s t fn 1) ∧ (answers (.queueEnable fn d q) s fun t => FuncErr s t fn 1) ∧
        (answers (.queueDestroy fn d q) s fun t => FuncErr s t fn 1) ∧ (answers (.queueKill fn d q) s fun t => FuncErr s t fn 1)) ∧
      (r.owner = fn.setWidth 8 → (s.die d).up = true →
        (∀ v, r.state = .enabled → (v - r.head).toNat ≤ 2 ^ r.rlog → (r.tail - r.head).toNat ≤ (v - r.head).toNat →
          answers (.doorbellWrite fn d q v) s fun t => OnlyQueue s t d q { r with tail := v } true) ∧
        (∀ v, r.state = .enabled → (2 ^ r.rlog < (v - r.head).toNat ∨ (v - r.head).toNat < (r.tail - r.head).toNat) →
          answers (.doorbellWrite fn d q v) s fun t => FuncErr s t fn 1) ∧
        (r.state = .disabled → enableOk (s.die d) r = true → answers (.queueEnable fn d q) s fun t =>
          OnlyQueue s t d q { r with state := .enabled, deficit := 0, passes := 0, retired := 0, killed := 0 } false) ∧
        (r.state = .disabled → enableOk (s.die d) r = false → answers (.queueEnable fn d q) s fun t => FuncErr s t fn 2) ∧
        (r.state = .enabled → answers (.queueDestroy fn d q) s fun t =>
          OnlyQueue s { t with dies := t.dies.setIfInBounds d.toNat { t.die d with asks := (s.die d).asks } } d q
            { r with state := .draining, killing := false, resv := none } false ∧
          (t.die d).asks = (s.die d).asks.filter fun a => a.1 != q) ∧
        (∀ v, answers (.registerWrite fn (1#3 ++ d ++ q ++ 0x30#6) v) s fun t =>
          OnlyQueue s t d q { r with chead := v.setWidth 32 } false) ∧
        (∀ v, r.state = .disabled → answers (.registerWrite fn (1#3 ++ d ++ q ++ 0#6) v) s fun t =>
          OnlyQueue s t d q { r with rbase := v } false) ∧
        (∀ v, r.state ≠ .disabled → exec (.registerWrite fn (1#3 ++ d ++ q ++ 0#6) v) s = .next s)) ∧
      (∀ (off : BitVec 18) v, 0x38080 ≤ off.toNat ∨ off.toNat % 8 ≠ 0 ∨ (0x10 ≤ off.toNat ∧ off.toNat < 0x1000) →
        answers (.registerWrite fn (0#1 ++ off) v) s fun t => FuncErr s t fn 1) ∧
      (∀ v, answers (.funcerrClear fn v) s fun t =>
        t.fn fn = { s.fn fn with funcerr := (s.fn fn).funcerr &&& ~~~v } ∧ OtherFns s t fn ∧ ({ t with fns := s.fns } : State) = s) ∧
      (∀ off, ReadOfBar0 s fn off) ∧ (∀ off v, AccessOfBar4 s fn off v) ∧
      (∀ v : Word, (s.fn fn).busy = false → v.getLsbD 0 = true → answers (.mailboxDoorbellWrite fn v) s fun t =>
        t.fn fn = { s.fn fn with busy := true, order := s.nextId } ∧ OtherFns s t fn ∧
        ({ t with fns := s.fns, nextId := s.nextId } : State) = s) ∧
      (∀ v : Word, (s.fn fn).busy = false → v.getLsbD 0 = false → exec (.mailboxDoorbellWrite fn v) s = .next s) ∧
      (∀ v, (s.fn fn).busy = true → answers (.mailboxDoorbellWrite fn v) s fun t => FuncErr s t fn 1) ∧
      (∀ (size : BitVec 6) (off : Word) (data : List Byte) (w : BitVec 12) (p : Place), p.isDev = true → s.memOk →
        let va := bar2Addr (bar2Size (s.fn fn).bar2 size) off
        s.windowAsid (fn.setWidth 8) = some w → (s.die (vaDie va)).asidOwner.getD w.toNat 0xFF = fn.setWidth 8 →
        (s.span w va data.length false true false = .ok [(p, data.length)] → answers (.bar2Access fn true ⟨size, off⟩ data) s fun t =>
          (∀ a, readByte t.mem a = if beyond a p.key data.length then readByte s.mem a else data.getD (a - p.key) 0) ∧
          t.fns = (s.resizeBar2 fn size).fns ∧ t.cores = s.cores) ∧
        (s.span w va data.length true false false = .ok [(p, data.length)] → s.poison = [] → answers (.bar2Access fn false ⟨size, off⟩ data) s fun t =>
          t.outbox = s.outbox ++ [.read fn (readBytes s.mem p.key data.length)] ∧
          ({ t with outbox := s.outbox, dies := s.dies } : State) = s.resizeBar2 fn size ∧ ∀ e, OnlySeen (s.die e) (t.die e))) ∧
      (∀ size off data, let u := s.resizeBar2 fn size
        s.windowAsid (fn.setWidth 8) = none →
        (answers (.bar2Access fn true ⟨size, off⟩ data) s fun t => FuncErr u t fn 1) ∧
        (answers (.bar2Access fn false ⟨size, off⟩ data) s fun t =>
          t.outbox = s.outbox ++ [.aborted fn] ∧ FuncErr u { t with outbox := s.outbox } fn 1)))


/-- 17 R363 to R366, R368, 18 R395: only the physical function writes the tenancy tables: a cluster changes hands while
none of its contexts is held, a slot table waits for its round, a queue changes hands while it is FREE or DISABLED, and
an ASID that gets an owner gets a root table of zeros; what is not allowed sets a bit of FUNCERR and changes nothing. The model's own
choices: that owner values of 17 to 254 are refused with bit 1, and that a queue that goes from one tenant to another keeps its record
(log entry 49); the place of the root table (log entry 8). -/
def Obligations.TenancyTablesAreThePhysicalFunctions : Prop :=
  ∀ (s : State) (fn : BitVec 5) (d : BitVec 2), s.hostOpen fn = true →
    let x := s.die d
    (fn ≠ 0 → (∀ off v, answers (.tenancyTableWrite fn d off v) s fun t => FuncErr s t fn 1) ∧
      (∀ q v, answers (.queueAssignmentWrite fn d q v) s fun t => FuncErr s t fn 1) ∧
      (∀ a v, answers (.asidOwnerWrite fn d a v) s fun t => FuncErr s t fn 1)) ∧
    (fn = 0 → x.up = true →
      (∀ q v, assigned (s.qrec d q) q v = none → answers (.queueAssignmentWrite fn d q v) s fun t => FuncErr s t fn 2) ∧
      (∀ q v r, assigned (s.qrec d q) q v = some r → answers (.queueAssignmentWrite fn d q v) s fun t => OnlyQueue s t d q r false) ∧
      (∀ (off : BitVec 12) (v : BitVec 8), let o := off.toNat
        ((o < 0x10 ∨ (0x100 ≤ o ∧ o < 0x200) ∨ (0xA00 ≤ o ∧ o < 0xD18)) → 16 < v.toNat → v ≠ 0xFF →
          answers (.tenancyTableWrite fn d off v) s fun t => FuncErr s t fn 2) ∧
        (((0x10 ≤ o ∧ o < 0x100) ∨ 0xD18 ≤ o) → answers (.tenancyTableWrite fn d off v) s fun t => FuncErr s t fn 1) ∧
        (v.toNat ≤ 16 ∨ v = 0xFF →
          (o < 0x10 → (x.clusterOwner.getD o 0xFF = v ∨ s.clusterBusy d o = false) →
            exec (.tenancyTableWrite fn d off v) s = .next (s.setDie d { x with clusterOwner := x.clusterOwner.setIfInBounds o v })) ∧
          (o < 0x10 → x.clusterOwner.getD o 0xFF ≠ v → s.clusterBusy d o = true →
            answers (.tenancyTableWrite fn d off v) s fun t => FuncErr s t fn 2) ∧
          (0x100 ≤ o → o < 0x200 → exec (.tenancyTableWrite fn d off v) s =
            .next (s.setDie d { x with slotNext := some ((x.slotNext.getD x.slotOwner).setIfInBounds (o - 0x100) v) })) ∧
          (0xA00 ≤ o → o < 0xB00 → exec (.tenancyTableWrite fn d off v) s =
            .next (s.setDie d { x with ctrOwner := x.ctrOwner.setIfInBounds (o - 0xA00) v })) ∧
          (0xB00 ≤ o → o < 0xD00 → exec (.tenancyTableWrite fn d off v) s =
            .next (s.setDie d { x with frankOwner := x.frankOwner.setIfInBounds (o - 0xB00) v })) ∧
          (0xD00 ≤ o → o < 0xD18 → exec (.tenancyTableWrite fn d off v) s =
            .next (s.setDie d { x with chanOwner := x.chanOwner.setIfInBounds (o - 0xD00) v }))) ∧
        (0x200 ≤ o → o < 0xA00 →
          let q : BitVec 8 := BitVec.ofNat 8 ((o - 0x200) / 8)
          let w := ((s.qrec d q).word &&& ~~~(0xFF#64 <<< (8 * (o % 8)))) ||| (v.setWidth 64 <<< (8 * (o % 8)))
          (assigned (s.qrec d q) q w = none → answers (.tenancyTableWrite fn d off v) s fun t => FuncErr s t fn 2) ∧
          (∀ r, assigned (s.qrec d q) q w = some r → answers (.tenancyTableWrite fn d off v) s fun t => OnlyQueue s t d q r false))) ∧
      (∀ (a : BitVec 12) (v : BitVec 8), v.toNat ≤ 16 ∨ v = 0xFF →
        (x.asidOwner.getD a.toNat 0xFF = v → exec (.asidOwnerWrite fn d a v) s = .next s) ∧
        (x.asidOwner.getD a.toNat 0xFF ≠ v → s.memOk → answers (.asidOwnerWrite fn d a v) s fun t =>
          (t.die d).asidOwner = x.asidOwner.setIfInBounds a.toNat v ∧
          ((t.die d).roots.find? fun r => r.1 == a.toNat) = (if v = 0xFF then none else some (a.toNat, rootAt a)) ∧
          (∀ z, readByte t.mem z = if beyond z (hbmKey d (rootAt a)) 16384 then readByte s.mem z else 0) ∧
          (∀ e, e ≠ d → t.die e = s.die e) ∧ t.fns = s.fns ∧ t.cores = s.cores)))

/-- 11 R294, 17 R389, R391, 18 R414, 19 R424, R426: KILL sets its queue draining and asks its streams for a pre-emption
or kills them; the reset of a function kills every stream of its tenant, disables its queues, disarms its entries and
zeroes its counters; an uncorrectable error in a context's registers kills its stream with reason 8; the RESET of the
management port kills every stream and begins a start, and the steps that a start under way has not reached are journalled as
skipped; a die shut down for temperature is down, every queue of it DISABLED, and raises the vectors of its queues. The model's own
choices: that FUNCRESET of a function that does not exist answers 2 and a RESET during an update 3 (log entry 51), and that a
shutdown raises one vector for each queue whose IRQEN is set and that has an owner (log entry 52). -/
def Obligations.KillsAndResetsEndStreams : Prop :=
  ∀ (s : State), (s.streams.map (·.key)).Nodup →
    (∀ fn d q, let r := s.qrec d q
      s.hostOpen fn = true → r.owner = fn.setWidth 8 → (s.die d).up = true → (r.state = .enabled ∨ r.state = .draining) →
      answers (.queueKill fn d q) s fun t =>
        (t.qrec d q).state = .draining ∧ (t.qrec d q).killing = true ∧ (t.qrec d q).resume = [] ∧ (t.qrec d q).resv = none ∧
        (∀ st ∈ t.streams, st.die = d → st.q = q → st.out = false → st.kill ≠ none ∨ st.preempt ≠ none) ∧ s.KeepsData t) ∧
    (∀ fn : BitVec 5, fn.toNat < 17 → answers (.functionReset fn) s fun t => WasReset s t (resetBy fn.toNat)) ∧
    (∀ fn : BitVec 5, 17 ≤ fn.toNat → exec (.functionReset fn) s = .next s) ∧
    (∀ f : BitVec 8, f.toNat < 17 → answers (.funcreset f) s fun t => WasReset s t (resetBy f.toNat) ∧ ∃ l, t.outbox = l ++ [.mgmt 0]) ∧
    (∀ f : BitVec 8, 17 ≤ f.toNat → exec (.funcreset f) s = .next { s with outbox := s.outbox ++ [.mgmt 2] }) ∧
    (∀ x : CtxRef, let k := s.ctx (coreOf x) x.ctx
      k.life ≠ .free → (s.streams.any fun y => y.key == k.stream) = true → (s.stream k.stream).kill = none →
      answers (.uncorrectableOnchipError (.registers x)) s fun t =>
        (t.stream k.stream).kill = some 8 ∧ (t.stream k.stream).preempt = none ∧
        (CoresListed s → (t.ctx (coreOf x) x.ctx).life = .leaving) ∧ s.KeepsData t) ∧
    (s.island.updating = none → answers .reset s fun t =>
      (∀ st ∈ t.streams, st.kill ≠ none) ∧ (∀ d, (t.die d).up = false) ∧ s.KeepsData t ∧
      ({ t.island with journal := s.island.journal } : Island) =
        { s.island with step := 1, hold := false, recovery := false, booted := false } ∧
      (s.island.step < 2 → t.island.journal = s.island.journal) ∧
      (∀ k u, 2 ≤ s.island.step → s.island.step ≤ k → k ≤ 8 → u < stepUnits k → ∃ e ∈ t.island.journal,
        e.start = s.island.starts ∧ e.step.toNat = k ∧ e.unit.toNat = u ∧ e.outcome = 2) ∧
      t.outbox = s.outbox ++ (List.range 17).map (fun f => .linkLost (BitVec.ofNat 5 f)) ++ [.mgmt 0]) ∧
    (s.island.updating ≠ none → exec .reset s = .next { s with outbox := s.outbox ++ [.mgmt 3] }) ∧
    (∀ d, (s.die d).up = true → (∀ st ∈ s.streams, st.die ≠ d) → (s.die d).qcmds = [] →
      (∀ p ∈ s.packets, p.die = d → p.phase ≠ .sent) → answers (.thermalShutdown d) s fun t =>
      (t.die d).up = false ∧ (∀ q, (t.qrec d q).state = .disabled ∧ (t.qrec d q).resume = []) ∧
      t.island = { s.island with hotDies := s.island.hotDies ||| (1#4 <<< d.toNat) } ∧
      t.outbox = s.outbox ++ (((List.range 256).map fun n => s.qrec d (BitVec.ofNat 8 n)).filter fun r =>
        r.ctl.getLsbD 14 && r.owner != 0xFF).map (fun r => .msix r.owner (r.ctl.extractLsb' 8 6)) ++ [.pldm 1 d.toNat] ∧
      t.mem = s.mem ∧ t.streams = s.streams ∧ t.cores = s.cores ∧ ∀ e, e ≠ d → t.die e = s.die e) ∧
    (∀ d, (s.die d).up = false → exec (.thermalShutdown d) s = .next s)

/-- 19 R423, 18 R399, R401, R403, R405, R408, 20 R431, 19 R417, R418, 20 R434: the mailbox commands that set a field of a
die, extend MR7, or return journal entries or counters, those of the die and then three of each ASID; each answers 1 for a function
that may not give it, 2 for an operand out of range, 3 where the stack that SPLIT names quiesces already, else 0. The model's own
choices: that SPLIT names a split by its read lanes, that JOURNAL and TAGPOOL out of range answer 2, and that LEASE stretches the wait
of a page-table command (log entry 50); the numbers of the counters of an ASID (log entry 53). -/
def Obligations.MailboxCommandsSetTheirFields : Prop :=
  ∀ (s : State) (fn : BitVec 5) (d : BitVec 2) (l : List Word), s.hostOpen fn = true → (s.die d).up = true →
    let a := fun (i : Nat) => (l.getD i 0).toNat
    let x := s.die d
    Setting s (.lease fn d l) fn d (decide (700 ≤ a 0 ∧ a 0 ≤ 700000)) (fun y => y = { x with lease := a 0, qcmds := x.qcmds.map (stretched (a 0)) }) ∧
    Setting s (.hwin fn d l) fn d (decide (a 0 ≤ 255)) (fun y => y = { x with hwin := a 0 }) ∧
    Setting s (.tagpool fn d l) fn d (!s.anyTagged d && decide (a 0 + 2048 * a 1 ≤ hbmSize))
      (fun y => y = { x with tagBase := a 0, tagBlocks := a 1 }) ∧
    (fn = 0 → (x.quiesce.getD (a 0) none).isSome = true → answers (.split fn d l) s fun t => OnlyAnswer s t fn 3 []) ∧
    ((x.quiesce.getD (a 0) none).isSome = false → Setting s (.split fn d l) fn d (decide (a 0 ≤ 1 ∧ (a 1 = 16 ∨ a 1 = 20 ∨ a 1 = 24 ∨ a 1 = 28)))
      (fun y => y.split = x.split.setIfInBounds (a 0) (BitVec.ofNat 8 (a 1)) ∧ (∃ n, s.time ≤ n ∧ y.quiesce = x.quiesce.setIfInBounds (a 0) (some n)) ∧
        ({ y with split := x.split, quiesce := x.quiesce } : Die) = x)) ∧
    Setting s (.faultring fn d l) fn d (decide (a 0 % 4096 = 0 ∧ 4 ≤ a 1 ∧ a 1 ≤ 12))
      (fun y => y = { x with faultBase := l.getD 0 0, faultLog := a 1, faultHead := 0 }) ∧
    Setting s (.faultwait fn d l) fn d (decide (700 ≤ a 0 ∧ a 0 ≤ 70000000)) (fun y => y = { x with faultWait := a 0 }) ∧
    Setting s (.linkto fn d l) fn d (decide (7000 ≤ a 0 ∧ a 0 ≤ 7000000)) (fun y => y = { x with linkto := a 0 }) ∧
    (fn ≠ 0 → answers (.extend fn d l) s fun t => OnlyAnswer s t fn 1 []) ∧
    (fn = 0 → answers (.extend fn d l) s fun t =>
      measuredBy s.island t.island 7 (l.getD 3 0 ++ l.getD 2 0 ++ l.getD 1 0 ++ l.getD 0 0) ∧ t.fn fn = answered (s.fn fn) 0 [] ∧ OtherFns s t fn ∧
      ({ t with fns := s.fns, island := s.island } : State) = s) ∧
    (let e := s.island.journal.filter (fun e => e.start.toNat == a 0);
      (e = [] → answers (.journal fn d l) s fun t => OnlyAnswer s t fn 2 []) ∧
      (e ≠ [] → answers (.journal fn d l) s fun t => OnlyAnswer s t fn 0 (((e.drop (a 1)).take 14).flatMap JournalEntry.words))) ∧
    ((1 ≤ a 1 ∧ a 1 ≤ 28 ∧ a 0 + a 1 ≤ 30 + 3 * 4096) → answers (.telem fn d l) s fun t =>
      OnlyAnswer s t fn 0 ((List.range (a 1)).map fun i => telemetry x (a 0 + i))) ∧
    (¬ (1 ≤ a 1 ∧ a 1 ≤ 28 ∧ a 0 + a 1 ≤ 30 + 3 * 4096) → answers (.telem fn d l) s fun t => OnlyAnswer s t fn 2 [])

/-- 18 R403, R404, 20 R430: MIGRATE enters the fault queue of its die, once. A fault slot answers it when the page is where it
should be; one that may move becomes migrating, with its data copied to its new place; a pinned page, or one in its window, is refused
with 4; one that is migrating, or that no frame is there for, stands. ROUTESET takes its image; the request stands until the table is
switched. The model's own choices: how MIGRATE codes its direction, and the answer 2 for a page that cannot move (log entry 50); the
frame, the first of the reserve (log entry 17); the host page, which is free (log entry 1); and the ASID in which the image is
translated (log entry 16). -/
def Obligations.PagesAndRoutesChangeOnRequest : Prop :=
  ∀ (s : State) (fn : BitVec 5) (d : BitVec 2) (l : List Word), s.hostOpen fn = true → (s.die d).up = true →
    (let asid : BitVec 12 := (l.getD 0 0).setWidth 12
      let va := l.getD 1 0
      let out : Bool := l.getD 2 0 == 1
      (l.getD 0 0).toNat < 4096 → (s.die d).asidOwner.getD asid.toNat 0xFF = fn.setWidth 8 → (l.getD 2 0).toNat ≤ 1 → va.toNat % 65536 = 0 →
      localForm s va = true → va.getLsbD 63 = false → vaDie va = d →
      ((∀ h ∈ (s.die d).hostMigr, h.fn ≠ fn) → answers (.migrate fn d l) s fun t =>
        t.die d = { s.die d with hostMigr := (s.die d).hostMigr ++ [⟨fn, s.nextId, asid, va, out⟩] } ∧ (∀ e, e ≠ d → t.die e = s.die e) ∧
        ({ t with dies := s.dies, nextId := s.nextId } : State) = s) ∧
      ((∃ h ∈ (s.die d).hostMigr, h.fn = fn) → exec (.migrate fn d l) s = .next s)) ∧
    (∀ h e, (s.die d).hostMigr = [h] → heldAt s d = [] → s.slotDue d 2 = true → s.devStill d = true → h.turn < s.nextId → h.fn.toNat < 17 →
      s.walk d h.asid (vaOff h.va) = some e →
      let ends := fun (n : Nat) => answers (.mtuFaultSlot d) s fun t => t.fn h.fn = answered (s.fn h.fn) n [] ∧ OtherFns s t h.fn ∧
        ({ t with fns := s.fns, dies := s.dies } : State) = s ∧ t.die d = { (begun s d).die d with hostMigr := [] } ∧ ∀ x, x ≠ d → t.die x = s.die x
      let mayGo := e.pte.kind = (if h.out then 2 else 3) ∧ e.big = false ∧ e.pte.pin = false ∧ inWindow s d e.pte = false
      (e.pte.kind = (if h.out then 3 else 2) → ends 0) ∧
      (e.pte.kind = (if h.out then 2 else 3) → e.big = false → (e.pte.pin = true ∨ inWindow s d e.pte = true) → ends 4) ∧
      (e.pte.kind = 2 → h.out = true → e.big = false → s.framePinned d (Pte.addr e.pte) = true → ends 4) ∧
      (e.pte.kind = 4 → ends 2) ∧
      (e.pte.kind = 5 → exec (.mtuFaultSlot d) s = .next (begun s d)) ∧
      (mayGo → h.out = false → (s.die d).reserve = [] → exec (.mtuFaultSlot d) s = .next (begun s d)) ∧
      (∀ f rest, mayGo → h.out = false → (s.die d).reserve = f :: rest → s.memOk → f + 65536 ≤ hbmSize → e.at_ + 16 ≤ hbmSize →
        (e.at_ + 16 ≤ f ∨ f + 65536 ≤ e.at_) → e.pte.addr + 65536 ≤ 2 ^ 64 → answers (.mtuFaultSlot d) s fun t =>
          (∀ j, j < 65536 → readByte t.mem (hbmKey d (f + j)) = readByte s.mem (hostKey (e.pte.addr + j))) ∧
          readNat t.mem (hbmKey d e.at_) 16 = (e.pte.withKind 5 0).toNat ∧ (t.die d).reserve = rest ∧ (t.die d).hostMigr = [h] ∧
          (t.die d).migr = (s.die d).migr ++ [⟨h.asid, vaOff h.va / 65536, true, e.pte, f⟩] ∧ t.fns = s.fns ∧ t.cores = s.cores) ∧
      (mayGo → h.out = true → s.framePinned d (Pte.addr e.pte) = false → s.memOk → e.pte.addr + 65536 ≤ hbmSize → e.at_ + 16 ≤ hbmSize →
        answers (.mtuFaultSlot d) s fun t => ∃ k, k % 65536 = 0 ∧
          (∀ j, j < 65536 → readByte t.mem (hostKey (k + j)) = readByte s.mem (hbmKey d (e.pte.addr + j))) ∧
          readNat t.mem (hbmKey d e.at_) 16 = (e.pte.withKind 5 0).toNat ∧ (t.die d).reserve = (s.die d).reserve ∧ (t.die d).hostMigr = [h] ∧
          (t.die d).migr = (s.die d).migr ++ [⟨h.asid, vaOff h.va / 65536, false, e.pte, k⟩] ∧ t.fns = s.fns ∧ t.cores = s.cores)) ∧
    (∀ asid, (l.getD 0 0).toNat < 4096 → (l.getD 0 0).setWidth 12 = asid → (s.die d).asidOwner.getD asid.toNat 0xFF ≠ fn.setWidth 8 →
      answers (.migrate fn d l) s fun t => OnlyAnswer s t fn 1 []) ∧
    (fn ≠ 0 → answers (.routeset fn d l) s fun t => OnlyAnswer s t fn 1 []) ∧
    (∀ a p, fn = 0 → (s.die d).routeNext = none → (l.getD 0 0).toNat % 65536 = 0 → s.windowAsid 0 = some a →
      s.span a (l.getD 0 0) 65536 true false false = .ok p → onDie d p = true → s.still p = true → (s.spanRead p).length = 65536 →
      (∀ i, i < 32768 → ((s.spanRead p).getD (2 * i) 0).toNat < 16 ∧ (s.spanRead p).getD (2 * i + 1) 0 = 0) →
      answers (.routeset fn d l) s fun t => OnlyDie s t d ∧ (t.die d).routeGen = l.getD 1 0 ∧ (t.die d).routes = (s.die d).routes ∧
        ∃ n, (t.die d).routeNext = some n ∧ ∀ i, i < 32768 → (n.getD i 0).toNat = ((s.spanRead p).getD (2 * i) 0).toNat)

namespace Sys2Proof.Claims
open Sys2Proof.Machine

/-- The packets without one. -/
def without (s : State) (p : Packet) : State := { s with packets := s.packets.filter fun (x : Packet) => x.id != p.id }
/-- The packets with one changed. -/
def withPacket (s : State) (y : Packet) : State := { s with packets := s.packets.map fun (x : Packet) => if x.id == y.id then y else x }

/-- 20 R432: the access of a packet is not performed, with a KIND: a posted write is dropped and counted; a request of a running
context ends with its trap to come; an agent that asks for its own packet learns it when it looks. -/
def RefusedAt (s t : State) (p : Packet) (kind : Nat) : Prop :=
  match p.who with
  | .posted => t = (without s p).count p.die 7 1
  | .transit => t = without s p
  | .req id => ∀ r, s.req? id = some r → (s.ctx r.core r.ctx).life = .running →
      t.packets = (without s p).packets ∧ t.req? id = none ∧ t.mem = s.mem ∧
      ∃ y, (t.ctx r.core r.ctx).reports = (s.ctx r.core r.ctx).reports ++ [y] ∧ y.cause.code = 0x112 ∧ y.cause.addr = p.va ∧
        y.cause.info = BitVec.ofNat 64 (kind * 65536)
  | .elem id e => ∀ r, s.req? id = some r → (s.ctx r.core r.ctx).life = .running →
      (∀ x ∈ t.packets, x.id ≠ p.id) ∧ t.mem = s.mem ∧ (reqWrites r = false → t.req? id = none) ∧
      ((∀ x ∈ (s.ctx r.core r.ctx).reports, x.id ≠ r.id) →
        ∃ y, (t.ctx r.core r.ctx).reports = (s.ctx r.core r.ctx).reports ++ [y] ∧ y.cause.code = 0x112 ∧ y.cause.addr = p.va ∧ y.elem = e ∧
          y.cause.info = BitVec.ofNat 64 (kind * 65536))
  | _ => t = withPacket s { p with phase := .refused kind }

/-- 20 R428, 18 R393: a packet is delivered here: its agent makes the access itself. -/
def DeliveredHere (s t : State) (p : Packet) : Prop :=
  match p.who with
  | .req id => t = { without s p with reqs := mapReqs s.reqs id fun r => { r with phase := .issued } }
  | .elem id _ => t.reqs = mapReqs s.reqs id (fun r => { r with phase := .issued }) ∧ (∀ x ∈ t.packets, x.id ≠ p.id) ∧ t.mem = s.mem
  | .posted => ∀ q, let n := p.data.length - 8
      s.rangeAt p.die p.asid p.va n false true false = .ok [(q, n)] → n ≤ 256 → s.memOk →
      ∀ a, readByte t.mem a = if beyond a q.key n then readByte s.mem a else p.data.getD (a - q.key) 0
  | .transit => let va := p.va &&& localBits
      (∀ q, p.wr = true → s.rangeAt p.die p.asid va p.data.length false true false = .ok [(q, p.data.length)] → p.data.length ≤ 256 → s.memOk →
        t.packets = (without s p).packets ∧
        ∀ a, readByte t.mem a = if beyond a q.key p.data.length then readByte s.mem a else p.data.getD (a - q.key) 0) ∧
      (∀ l, p.wr = false → s.rangeAt p.die p.asid (va / 64 * 64) 64 true false false = .ok l →
        t = { without s p with outbox := s.outbox ++ [.reply p (s.spanRead l)] })
  | _ => t = without s p

end Sys2Proof.Claims

open Sys2Proof Sys2Proof.Machine Sys2Proof.Claims

/-- 20 R428 to R432, 18 R393, 09 R225, R238: a packet goes the way that the route entry of its destination names: out of
a port that has credit, in the ordinary pool or the detour pool as the entry says; across the package; to its agent here; or nowhere,
when its access has KIND 6; one that a route change holds back waits, for 700,000 cycles at most. Packets of one die, destination and
virtual channel leave in their order. One that has left is answered, refused, or lost. A packet of another package enters on a die
that is up and goes on from there. A port on which no flit has passed for LINKTO cycles, or 16 retries have failed, goes down, stays
down until a start after it has been cleared, and is journalled as failed. A link packet takes the next slot of its channel. Which
credit there is, and what becomes of a packet that has left, are free (log entry 1). -/
def Obligations.PacketsFollowTheRouteTable : Prop :=
  ∀ (s : State),
    (∀ id p, (s.packets.find? fun p => p.id == id) = some p → (p.phase = .waiting ∨ p.phase.isHeld = true) →
      (s.packetWanted p = false → exec (.packetHop id) s = .next (without s p)) ∧
      (s.packetWanted p = true → s.packetTurn p = false → exec (.packetHop id) s = .next s) ∧
      (s.packetWanted p = true → s.packetTurn p = true →
        (∀ e q, s.torusExit p.die p.dest = .port e q →
          let y : Packet := { p with
            die := e, phase := .sent, port := q, detour := ((s.die p.die).routes.getD p.dest.toNat 0).getLsbD 3 }
          (s.hasCredit e q p.vc y.detour = true → p.who ≠ .transit →
            exec (.packetHop id) s = .next { withPacket s y with outbox := s.outbox ++ [.packet e q y] }) ∧
          (s.hasCredit e q p.vc y.detour = true → p.who = .transit →
            exec (.packetHop id) s = .next { without s p with outbox := s.outbox ++ [.packet e q y] }) ∧
          (s.hasCredit e q p.vc y.detour = false → exec (.packetHop id) s = .next (withPacket s { p with phase := .waiting }))) ∧
        (s.torusExit p.die p.dest = .here → answers (.packetHop id) s fun t => DeliveredHere s t p) ∧
        (s.torusExit p.die p.dest = .unreachable → answers (.packetHop id) s fun t => RefusedAt s t p 6) ∧
        (s.torusExit p.die p.dest = .held →
          (p.phase = .waiting → exec (.packetHop id) s = .next (withPacket s { p with phase := .held s.time })) ∧
          (p.phase ≠ .waiting → exec (.packetHop id) s = .next s)))) ∧
    (∀ id p, (s.packets.find? fun p => p.id == id) = some p → p.phase = .sent →
      (s.lostOnWay = true → answers (.packetHop id) s fun t => RefusedAt s t p 6) ∧
      (s.lostOnWay = false →
        (p.who = .posted ∨ s.packetWanted p = false → exec (.packetHop id) s = .next (without s p)) ∧
        (p.who ≠ .posted → s.packetWanted p = true →
          exec (.packetHop id) s = .next (withPacket s { p with phase := .answered }) ∨
          ∃ kind, (kind = 1 ∨ kind = 2 ∨ kind = 5 ∨ kind = 6) ∧ answers (.packetHop id) s fun t => RefusedAt s t p kind))) ∧
    (∀ id p, (∀ x ∈ s.packets, x.id ≠ id) → (s.torusIn.find? fun p => p.id == id) = some p →
      ((s.die p.die).up = true → exec (.packetHop id) s = .next { s with
        torusIn := s.torusIn.filter fun y => y.id != p.id, nextId := s.nextId + 1
        packets := s.packets ++ [{ p with id := s.nextId, who := .transit, phase := .waiting }] }) ∧
      ((s.die p.die).up = false → exec (.packetHop id) s = .next s)) ∧
    (∀ id p n, (s.packets.find? fun p => p.id == id) = some p → p.phase = .held n →
      (n + 700000 < s.time → answers (.routeHoldExpiry id) s fun t => RefusedAt s t p 6) ∧
      (s.time ≤ n + 700000 → exec (.routeHoldExpiry id) s = .next s)) ∧
    (∀ (d : BitVec 2) (port : BitVec 3) (idle retries : Nat), (s.die d).up = true → port.toNat < 6 →
      (s.die d).portUp.getLsbD port.toNat = true →
      let u := 6 * d.toNat + port.toNat
      (idle < (s.die d).linkto → retries < 16 → exec (.linkDown d ⟨port, idle, retries⟩) s = .next s) ∧
      ((s.die d).linkto ≤ idle ∨ 16 ≤ retries → (∀ p ∈ s.packets, p.die = d → p.port = port → p.phase ≠ .sent) →
        answers (.linkDown d ⟨port, idle, retries⟩) s fun t =>
          (t.die d).portUp = (s.die d).portUp &&& ~~~(1#6 <<< port.toNat) ∧
          t.island.leftPorts = s.island.leftPorts ||| (1#24 <<< u) ∧
          (∃ e ∈ t.island.journal, e.start = s.island.starts ∧ e.step = 5 ∧ e.unit.toNat = u ∧ e.outcome = 1) ∧
          ({ t.island with journal := s.island.journal, leftPorts := s.island.leftPorts } : Island) = s.island ∧
          t.outbox = s.outbox ++ [.pldm 2 u] ∧ t.packets = s.packets ∧ (∀ e, e ≠ d → t.die e = s.die e) ∧
          t.mem = s.mem ∧ t.cores = s.cores)) ∧
    (∀ (d : BitVec 2) (port : BitVec 3) (vc : BitVec 2) (p : LinkPacket), (s.die d).up = true → port.toNat < 6 →
      (s.die d).portUp.getLsbD port.toNat = true → s.chanRoom d (4 * port.toNat + vc.toNat) = true → p.tagw = false →
      answers (.linkPacketArrive d port vc p) s fun t =>
        ((t.die d).links.getD (4 * port.toNat + vc.toNat) LinkChan.reset).ents =
          ((s.die d).links.getD (4 * port.toNat + vc.toNat) LinkChan.reset).ents ++ [⟨p.data, p.poison, false⟩] ∧
        t.mem = s.mem ∧ t.cores = s.cores ∧ OnlyDie s t d)

/-- 19 R415 to R418, R420, R424: a start goes through its eight steps in order, and extends the measurement register of
each: the first start derives the identity key from the fuses' secret and stores its certificate; the island firmware
verified, and the boot ROM's own test passed, else recovery; a slot verified, the one that BOOTSEL, an update or the journal names
first; stacks trained; the schedule table installed, tag pools and buckets cleared; ports trained; PCI Express; the summary; then the
good dies come up and the regions open. An activation raises the rollback value. A BOOTSEL holds for one start. A start in which a die
was shut down for temperature is journalled as failed. A HOLD keeps the next step from running. The model's own choices: the
derivation of the key and the certificate, and the values that a step measures, are functions without a value, and a signature is
what was signed and by whom (log entry 9); the order inside a step (log entry 20); which slot comes first (log entry 21). -/
def Obligations.AStartTakesItsEightSteps : Prop :=
  ∀ (s : State),
    let i := s.island
    (∀ m, i.verifies m = true ↔
      sha3 m.content = m.digest ∧ sha3 m.key = i.aroftKey ∧ m.signature = ⟨m.key, m.digest, m.svn⟩ ∧ i.rollback ≤ m.svn) ∧
    i.firstSlot = (match i.sel, i.activated with | some k, _ => k | none, some k => k | none, none => i.prefer) ∧
    (i.hold = true → exec .bootStart s = .next s) ∧
    (i.hold = false →
      (i.step = 1 → answers .bootStart s fun t =>
        t.mem = s.mem ∧ t.time = s.time ∧ t.streams = [] ∧ t.cores = [] ∧ t.reqs = [] ∧
        (∀ d, t.die d = { Die.reset with tagBase := (s.die d).tagBase, tagBlocks := (s.die d).tagBlocks }) ∧
        t.island.starts = i.starts + 1 ∧ t.island.booted = false ∧ t.island.mr.getD 0 0 = extendMr 0 (Config.measure 0 0) ∧
        t.island.key = some (i.key.getD (Config.identityKey i.secret)) ∧
        t.island.certificate = (if i.key = none then some (Config.certificate (Config.identityKey i.secret)) else i.certificate) ∧
        t.island.sel = i.bootsel ∧ t.island.bootsel = none ∧ t.island.hotDies = 0 ∧
        (i.hotDies ≠ 0 → ∃ e ∈ t.island.journal, e.start = i.starts ∧ e.step = 8 ∧ e.unit = 0 ∧ e.outcome = 1) ∧
        (i.romGood = true → i.verifies i.island = true → t.island.step = 2 ∧ t.island.mr.getD 1 0 = extendMr 0 i.island.digest ∧
          t.island.rollback = (if i.renewed then max i.rollback i.island.setsRollback else i.rollback)) ∧
        (i.romGood = false ∨ i.verifies i.island = false →
          t.island.step = 0 ∧ t.island.recovery = true ∧ t.island.mr.getD 1 0 = 0 ∧ t.island.rollback = i.rollback ∧
          (∃ e ∈ t.island.journal, e.start = i.starts + 1 ∧ e.step = 1 ∧ e.outcome = 1) ∧
          ∀ k u, 2 ≤ k → k ≤ 8 → u < stepUnits k →
            ∃ e ∈ t.island.journal, e.start = i.starts + 1 ∧ e.step.toNat = k ∧ e.unit.toNat = u ∧ e.outcome = 2)) ∧
      (i.step = 2 → answers .bootStart s fun t =>
        ({ t with island := s.island } : State) = s ∧
        let a := i.firstSlot
        let taken := fun (k : BitVec 1) => t.island.step = 3 ∧ t.island.running = k ∧ measuredBy i t.island 2 (i.slot k).digest ∧
          t.island.rollback = (if i.activated = some k then max i.rollback (i.slot k).setsRollback else i.rollback) ∧
          (i.activated = some k → t.island.activated = none)
        (i.verifies (i.slot a) = true → taken a ∧ t.island.prefer = (if i.sel = none then a else i.prefer)) ∧
        (i.verifies (i.slot a) = false → i.verifies (i.slot (~~~a)) = true → taken (~~~a) ∧ t.island.prefer = ~~~a) ∧
        (i.verifies (i.slot a) = false → i.verifies (i.slot (~~~a)) = false →
          t.island.step = 0 ∧ t.island.recovery = true ∧ t.island.mr = i.mr)) ∧
      (i.step = 3 → answers .bootStart s fun t =>
        ({ t with island := s.island } : State) = s ∧ t.island.step = 4 ∧ (∃ x, measuredBy i t.island 4 x) ∧
        (∀ u, u < 8 → i.leftStacks.getLsbD u = true → t.island.leftStacks.getLsbD u = true) ∧
        (∀ u, u < 8 → ∃ e ∈ t.island.journal, e.start = i.starts ∧ e.step = 3 ∧ e.unit.toNat = u ∧ e.choice = (if i.trainsFull u then 1 else 0) ∧
          e.outcome = (if i.leftStacks.getLsbD u then 3
            else if (if i.trainsFull u then i.stackFull else i.stackCached).getLsbD u then 0 else 1))) ∧
      (i.step = 4 → answers .bootStart s fun t =>
        ({ t with island := s.island, mem := s.mem, poison := s.poison } : State) = s ∧ t.island.step = 5 ∧
        measuredBy i t.island 3 (sha3 schedDefault.toList) ∧ (s.memOk → ∀ a, readByte t.mem a =
          if bucketByte a = true ∨ ∃ d : BitVec 2, ¬beyond a (hbmKey d (s.die d).tagBase) (2048 * (s.die d).tagBlocks) then 0
          else readByte s.mem a)) ∧
      (i.step = 5 → answers .bootStart s fun t =>
        ({ t with island := s.island } : State) = s ∧ t.island.step = 6 ∧ measuredBy i t.island 5 (Config.measure 5 i.portsUp.toNat) ∧
        (∀ u, u < 24 → t.island.leftPorts.getLsbD u = (i.leftPorts.getLsbD u || !i.portGood.getLsbD u))) ∧
      (i.step = 6 → answers .bootStart s fun t =>
        ({ t with island := s.island } : State) = s ∧ t.island.step = 7 ∧ t.island.mr = i.mr) ∧
      (i.step = 7 → answers .bootStart s fun t =>
        ({ t with island := s.island } : State) = s ∧ t.island.step = 8 ∧ measuredBy i t.island 6 i.summary) ∧
      (i.step = 8 → answers .bootStart s fun t =>
        t.island.step = 0 ∧ t.island.booted = true ∧ t.island.hotDies = i.hotDies ∧ t.island.mr = i.mr ∧ t.mem = s.mem ∧ t.time = s.time ∧
        ∀ d : BitVec 2, (t.die d).up = i.dieGood d.toNat ∧ (t.die d).lease = 35000 ∧ (t.die d).hwin = 22 ∧ (t.die d).sched = schedDefault ∧
          (t.die d).counters = Vector.replicate 256 0 ∧ (t.die d).clusterOwner = Vector.replicate 16 0xFF))

/-- 19 R421, R424, 18 R414: the answers of SPDM over the measurement registers, signed with the identity key (R420), or an
ERROR where a signature is asked and no start has derived the key (the model's choice of log entry 9), to requests over MCTP, and over
the DOE of a function while PCI Express is up (who asks is an input, log entry 3); the controls of the management port, their answers being the model's choice (log entry
51), and an update, which writes the slot that does not run, or the island firmware in a recovery that it has caused; an
uncorrectable error in a scratchpad or in HBM poisons its unit or its line. -/
def Obligations.TheIslandAnswersAndControls : Prop :=
  ∀ (s : State),
    let i := s.island
    let reply := fun (n : Nat) (j : Island) =>
      (.next { s with island := j, outbox := s.outbox ++ [.mgmt n] } : Host.Outcome State Fault Refusal)
    let blocks := i.mr.toList ++ [i.summary]
    let heard : Island := { i with askers := i.askers.drop 1 }
    let tells := fun (m : Sent) => (.next { s with island := heard, outbox := s.outbox ++ [m] } : Host.Outcome State Fault Refusal)
    let open_ := i.pcieGood && !i.recovery && (i.booted || decide (7 ≤ i.step))
    (∀ fn l, i.askers = .doe fn :: l → (open_ = false ∨ 17 ≤ fn.toNat) → ∀ a b c n,
      (∀ m ∈ [Instr.spdmGetVersion, .spdmNegotiateAlgorithms a b, .spdmGetMeasurements c n], exec m s = .next { s with island := heard })) ∧
    (∀ who, i.askers.headD .mctp = who → (who = .mctp ∨ ∃ fn : BitVec 5, who = .doe fn ∧ open_ = true ∧ fn.toNat < 17) →
      exec .spdmGetVersion s = tells (.spdm who [0x14] []) ∧
      (i.spdmOnlyVersion = true → ∀ a b c n, exec (.spdmNegotiateAlgorithms a b) s = tells (.spdmError who) ∧
        exec (.spdmGetMeasurements c n) s = tells (.spdmError who)) ∧
      (i.spdmOnlyVersion = false →
        exec (.spdmNegotiateAlgorithms false false) s =
          .next { s with island := { heard with spdmOnlyVersion := true }, outbox := s.outbox ++ [.spdmError who] } ∧
        (∀ a b, a = true ∨ b = true → exec (.spdmNegotiateAlgorithms a b) s = tells (.spdm who [a.toNat, b.toNat] [])) ∧
        (∀ n, exec (.spdmGetMeasurements false n) s = tells (.spdm who blocks [])) ∧
        (∀ n k, i.key = some k → exec (.spdmGetMeasurements true n) s =
          tells (.spdm who blocks (Config.signature k ((blocks ++ [n]).flatMap fun x => bytesOfNat x.toNat 32)))) ∧
        (∀ n, i.key = none → exec (.spdmGetMeasurements true n) s = tells (.spdmError who)))) ∧
    exec .mgmtHold s = reply 0 { i with hold := true } ∧
    (∀ k, i.updating = none → exec (.bootsel k) s = reply 0 { i with bootsel := some k }) ∧
    (∀ k, i.updating ≠ none → exec (.bootsel k) s = reply 3 i) ∧
    (∀ u : BitVec 8, (u.toNat < 8 → exec (.clear 0 u) s = reply 0 { i with leftStacks := i.leftStacks &&& ~~~(1#8 <<< u.toNat) }) ∧
      (u.toNat < 24 → exec (.clear 1 u) s = reply 0 { i with
        leftPorts := i.leftPorts &&& ~~~(1#24 <<< u.toNat) })) ∧
    (∀ k u : BitVec 8, ((k = 0 ∧ 8 ≤ u.toNat) ∨ (k = 1 ∧ 24 ≤ u.toNat) ∨ 2 ≤ k.toNat) → exec (.clear k u) s = reply 2 i) ∧
    (∀ w : BitVec 16, (600 ≤ w.toNat ∧ w.toNat ≤ 2200 → exec (.powercap w) s = reply 0 { i with powercap := w }) ∧
      (w.toNat < 600 ∨ 2200 < w.toNat → exec (.powercap w) s = reply 2 i)) ∧
    (∀ b g v (k : ImageTrust),
      (i.updating = none → exec (.pldmFirmwareUpdate b g v k) s =
        reply 0 { i with updating := some ⟨b, g, v, k.signature, k.setsRollback, k.key⟩ }) ∧
      (∀ m, i.updating = some m → i.recovery = true → i.verifies i.island = false → exec (.pldmFirmwareUpdate b g v k) s =
        reply 0 { i with island := m, updating := none, renewed := true }) ∧
      (∀ m, i.updating = some m → i.recovery = false ∨ i.verifies i.island = true → i.running = 0 → exec (.pldmFirmwareUpdate b g v k) s =
        reply 0 { i with slotB := m, updating := none, activated := some 1 }) ∧
      (∀ m, i.updating = some m → i.recovery = false ∨ i.verifies i.island = true → i.running = 1 → exec (.pldmFirmwareUpdate b g v k) s =
        reply 0 { i with slotA := m, updating := none, activated := some 0 })) ∧
    (∀ c u, 8 * u + 8 ≤ 0xC0000 → answers (.uncorrectableOnchipError (.scratch c u)) s fun t =>
      isPoisoned t.poison (spadKey c.die c.core (8 * u)) 8 = true ∧ ({ t with poison := s.poison } : State) = s) ∧
    (∀ d g, 32 * g + 32 ≤ hbmSize → answers (.uncorrectableOnchipError (.msc d g)) s fun t =>
      (let k := hbmKey d (32 * g) / 64 * 64; isPoisoned t.poison k 32 = true ∧ isPoisoned t.poison (k + 32) 32 = true) ∧ (∀ r ∈ t.races, r.line ≠ hbmKey d (32 * g) / 64 * 64) ∧ t.mem = s.mem ∧
      t.cores = s.cores ∧ t.reqs = s.reqs)

namespace Sys2Proof.Claims
open Sys2Proof.Machine

/-! ### Encoding, the step and reset -/

/-- 05 R114, R116, R118, R120 to R122: the opcodes that are reserved in each opcode space. -/
def reservedOpcode : SlotCls → Nat → Bool
  | .s, n => (0x1C ≤ n && n ≤ 0x20) || n == 0x36 || n == 0x37 || (0x3C ≤ n && n ≤ 0x3F) || (0x43 ≤ n && n ≤ 0x47) ||
      (0x4C ≤ n && n ≤ 0x4F) || (0x58 ≤ n && n ≤ 0x7F) || (0x85 ≤ n && n ≤ 0x87) || (0x8D ≤ n && n ≤ 0xBF) || 0xCA ≤ n
  | .v, n => (0xD ≤ n && n ≤ 0xF) || (0x19 ≤ n && n ≤ 0x1F) || (0x26 ≤ n && n ≤ 0x2F) || (0x39 ≤ n && n ≤ 0x3F) || 0x44 ≤ n
  | .m, n => (9 ≤ n && n ≤ 0xF) || 0x16 ≤ n
  | .l, n => 0xC ≤ n
  | .w, n => 0xA ≤ n
  | .c, n => (8 ≤ n && n ≤ 0xF) || (0x15 ≤ n && n ≤ 0x17) || 0x1B ≤ n
  | .y, n => (0xE ≤ n && n ≤ 0x1F) || 0x22 ≤ n

/-- The bundle with one slot word and nothing else (04 R89). -/
def oneSlot (k : Nat) (w : SlotWord) : Bundle := w.setWidth 512 <<< (32 + 60 * k)

/-- A head without guard, iteration bits or modifier. -/
def plainHead (k : BitVec 3) : Head := ⟨k, 0, 0, 0, 0, none⟩

/-- The state in which the one operation of a bundle executes: the bundle is being issued, with nothing left of it. -/
def launched (w v : State) : State :=
  { w with cur := v.cur, issue := some { Issue.fresh v.cur with ops := [], runX := true, runA := false } }

/-- An operation executed, and what the rest of a bundle does: at most 15 more operations, and its retirement. -/
def thenDrain (i : Instr) (s : State) : Host.Outcome State Fault Refusal :=
  match exec i s with
  | .next t => drain 15 t
  | .fault f => .fault f
  | .refused r => .refused r

end Sys2Proof.Claims

open Sys2Proof Sys2Proof.Machine Sys2Proof.Claims

/-- 04 R88 to R95, 05 R112 to R123: for every well-formed slot operation, with every operand, guard, iteration bit and
modifier that its encoding admits, decoding the bundle that holds it alone gives it back, and nothing else. -/
def Obligations.EncodingAnOperationAndDecodingItGivesItBack : Prop :=
  ∀ i : Instr, i.isSlotOp = true → i.wf = true → decodeBundle (encode i) = .ops [i]

/-- 04 R89 to R95, 05 R112, R124: words that the spec works out, one or more for each opcode space, decode to the operations
they stand for; an unlisted opcode makes the bundle illegal with reason 1, in whichever slot it stands. -/
def Obligations.WordsDecodeToTheOperationsTheyStandFor : Prop :=
  decodeBundle 0 = .ops [.nop] ∧
  decodeBundle (oneSlot 0 0x0108040BFFFFFFFD) = .ops [.addi (plainHead 0) ⟨4, 2, 0x3FFFFFFFD⟩] ∧
  decodeBundle (oneSlot 0 0x0248021CE0000032) = .ops [.cmpi (plainHead 0) ⟨2, 7, 0xE0000032⟩] ∧
  decodeBundle (oneSlot 0 0x0440000000000001) = .ops [.loop (plainHead 0) ⟨0, 1⟩] ∧
  decodeBundle (oneSlot 1 0x0020041461E50200) = .ops [.vfma (plainHead 1) ⟨4, 5, 6, 7, 9, 2, 0, 1⟩] ∧
  decodeBundle (oneSlot 4 0x00102124C0000400) = .ops [.ldv (plainHead 4) ⟨33, 9, 0, 1, 8, 0, 0, 1024⟩] ∧
  decodeBundle (oneSlot 4 0x004807313A200008) = .ops [.ldc (plainHead 4) ⟨7, 12, 0, 2, 7, 4, 1, 8⟩] ∧
  decodeBundle (oneSlot 7 0x0008001402010300) = .ops [.fwait (plainHead 7) ⟨0, 5, 0, 4, 0, 1, 3, 0⟩] ∧
  decodeBundle (oneSlot 7 0x0100051142550040) = .ops [.amo (plainHead 7) ⟨5, 4, 0, 2, 8, 4, 2, 0x150040⟩] ∧
  decodeBundle (oneSlot 6 0x0008060001910040) = .ops [.cp (plainHead 6) ⟨6, 0, 0, 3, 1, 1, 0, 0x40⟩] ∧
  decodeBundle (0x3000000000000000#64 ++ 0#256 ++ 0xCC10#64 ++ 0xA00200000108040B#64 ++ 0xFFFFFFFD00008000#64) =
    .ops [.addi (plainHead 0) ⟨4, 2, 0x3FFFFFFFD⟩,
      .vadd ⟨1, 0, 0, 1, 3, some ⟨true, 0, false, false, 0, 0, 0⟩⟩ ⟨1, 2, 32, 0, 8, 0, 0, 0⟩] ∧
  (∀ k : Fin 8, decodeBundle (oneSlot k.val (0x1FF#9 ++ 0#51)) = .illegal k.val 1)

/-- 05 R112: an opcode that is reserved in the space of its slot makes the bundle illegal with reason 1, unless a lower slot
has a defect; every other opcode but 0 is an instruction there; a slot whose MODF bit is set holds no operation. -/
def Obligations.ReservedOpcodesAreIllegalInTheirSlot : Prop :=
  (∀ (b : Bundle) (k : Nat), k < 8 → (rawSlot b k).modf = 0 → (∀ j, j < k → slotDefects b j = []) →
    reservedOpcode (slotCls k) (rawSlot b k).opc = true → decodeBundle b = .illegal k 1) ∧
  (∀ (b : Bundle) (k : Nat), k < 8 → (rawSlot b k).modf = 0 → (rawSlot b k).opc ≠ 0 →
    reservedOpcode (slotCls k) (rawSlot b k).opc = false → (opAt b k).isSome = true) ∧
  (∀ (b : Bundle) (k : Nat), (rawSlot b k).modf = 1 → opAt b k = none)

/-- 01 R20, R21, 04 R88, R89, R105: when nothing is due and a core is chosen to issue, the bundle at the next pc of its
selected context is fetched from the 64 bytes there and, if it decodes to one operation that nothing holds back, the step
executes that operation, retires the bundle, and package time goes on. What is due by the clock comes first and takes no
time; with nothing to do, time alone goes on (the model's choices of log entries 2 and 3). -/
def Obligations.AStepExecutesTheDecodedOperation : Prop :=
  ∀ (s : State),
    (∀ c x b i v, s.issue = none → s.dueEvents = [] → s.pick = some (.bundleIssue c) →
      let k := s.ctx c x
      let e := presented s c x
      (s.core c).freeze = none → (s.core c).sel = x → (s.core c).quantum < 4096 → s.eligible c x = true →
      k.decoupled = false → s.sliceBlocked c x false = false → k.waitA = .none → (atBundle s c x).fetch = .bundle b →
      decodeBundle b = .ops [i] → nestBad e i = false → e.presentOps b [i] = (v, .ready [i]) →
      ∃ w, exec (.bundleIssue c) s = .next w ∧ (∀ f, w.core f = v.core f) ∧ w.cur = s.cur ∧ (∀ p ∈ w.packets, p ∈ v.packets) ∧
        (∀ f, OnlySeen (v.die f) (w.die f)) ∧
        ({ w with cores := v.cores, issue := v.issue, cur := v.cur, dies := v.dies, packets := v.packets } : State) = v ∧
        step s = andThen (thenDrain i (launched w v)) State.tick) ∧
    (∀ (c : CoreRef) (x d : BitVec 2) a l, let k := s.ctx c x
      let pc := codeAddr (k.nextPc false)
      k.codeBase.toNat ≤ pc.toNat → pc.toNat < k.codeLimit.toNat →
      s.placeAt c.die (s.stream k.stream).asid pc false false false = .dev d a l →
      s.leaf (vaDie pc) (s.stream k.stream).asid (vaOff pc) = some l → s.devStill d = true → l.pte.x = true → s.poison = [] → (atBundle s c x).fetch = .bundle (bundleOfBytes (readBytes s.mem (hbmKey d a) 64))) ∧
    (∀ i l, s.issue = none → s.dueEvents = i :: l → step s = andThen (run i s) State.spent) ∧
    (∀ i t, s.issue = none → s.dueEvents = [] → s.pick = some i → exec i (s.dropInput i) = .next t → t.issue = none → step s = .next t.tick) ∧
    (s.issue = none → s.dueEvents = [] → s.pick = none → step s = .next { s.tick with inputs := s.inputs.drop 1 }) ∧
    s.time < s.tick.time ∧ s.spent.time = s.time

/-- The rules of 01, 02, 17, 18, 19 and 20 that state a value after reset. The model's own choices: package time 0, and the postmark
counters at 0 (log entry 6); the owners of counters and address spaces, which are nobody's, 0xFF (log entry 8). -/
def Obligations.ResetLeavesTheStatedValues : Prop :=
  State.reset.time = 0 ∧ State.reset.streams = [] ∧ State.reset.reqs = [] ∧ State.reset.races = [] ∧ State.reset.issue = none ∧
  State.reset.island.step = 1 ∧ State.reset.island.booted = false ∧ State.reset.island.powercap = 2200 ∧
  (∀ fn : BitVec 5, State.reset.hostOpen fn = false ∧ (State.reset.fn fn).funcerr = 0 ∧ (State.reset.fn fn).busy = false) ∧
  (∀ c x, (State.reset.ctx c x).life = .free) ∧
  ∀ d : BitVec 2, let x := State.reset.die d
    x.up = false ∧ x.sched = schedDefault ∧ x.lease = 35000 ∧ x.hwin = 22 ∧ x.faultWait = 7000000 ∧ x.linkto = 70000 ∧ x.tablegen = 0 ∧
    x.telem = Vector.replicate 30 0 ∧ x.counters = Vector.replicate 256 0 ∧
    (∀ i, i < 4096 → x.asidOwner.getD i 0 = 0xFF) ∧ (∀ i, i < 256 → x.slotOwner.getD i 0 = 0xFF ∧ x.ctrOwner.getD i 0 = 0xFF) ∧
    (State.reset.qrec d 0).word = 0x10F00 ∧ (State.reset.qrec d 0).state = .disabled ∧
    ∀ q, q ≠ 0 → (State.reset.qrec d q).owner = 0xFF ∧ (State.reset.qrec d q).state = .free

/-- The memory of the model, a list of cells, is in its canonical form at reset: addresses strictly rising, no entry that
holds what an unlisted address reads as. The form is the model's own; 18 R392 gives the addresses. -/
def Obligations.ResetMemoryIsCanonical : Prop := State.reset.memOk

/-- Every step keeps the memory's canonical form: addresses strictly rising, no entry that holds what an unlisted address
reads as. -/
def Obligations.EveryStepKeepsMemoryCanonical : Prop := ∀ s t : State, s.memOk → step s = .next t → t.memOk
end

