-- ==== Sys2Proof/Laws/Memory.lean ====
section
/-! SUPPORT. Memory: what is read after a write, and that every operation keeps the canonical form. -/
namespace Sys2Proof.Machine

theorem wfFrom_mono {m : Memory} {lo lo' : Nat} (h : Memory.wfFrom lo m = true) (hl : lo' ≤ lo) :
    Memory.wfFrom lo' m = true := by
  cases m with
  | nil => rfl
  | cons x r =>
    obtain ⟨k, v⟩ := x
    simp only [Memory.wfFrom, Bool.and_eq_true, decide_eq_true_eq] at h ⊢
    exact ⟨⟨by omega, h.1.2⟩, h.2⟩

theorem readByte_below {m : Memory} {lo a : Nat} (h : Memory.wfFrom lo m = true) (ha : a < lo) :
    readByte m a = unlisted := by
  induction m generalizing lo with
  | nil => rfl
  | cons x r ih =>
    obtain ⟨k, v⟩ := x
    simp only [Memory.wfFrom, Bool.and_eq_true, decide_eq_true_eq] at h
    have hne : (a == k) = false := by simp; omega
    simp only [readByte, hne, Bool.false_eq_true, if_false]
    exact ih h.2 (by omega)

theorem writeByte_wfFrom {m : Memory} {lo a : Nat} {b : Byte} (h : Memory.wfFrom lo m = true) (ha : lo ≤ a) :
    Memory.wfFrom lo (writeByte m a b) = true := by
  induction m generalizing lo with
  | nil =>
    by_cases hb : b = unlisted <;> simp [writeByte, hb, Memory.wfFrom, ha]
  | cons x r ih =>
    obtain ⟨k, v⟩ := x
    have h' := h
    simp only [Memory.wfFrom, Bool.and_eq_true, decide_eq_true_eq] at h
    by_cases h1 : a < k
    · by_cases hb : b = unlisted
      · simp [writeByte, h1, hb, h']
      · have hk : a + 1 ≤ k := h1
        simp [writeByte, h1, hb, Memory.wfFrom, ha, hk, h.1.2, h.2]
    · by_cases h2 : a = k
      · subst h2
        by_cases hb : b = unlisted
        · simpa [writeByte, hb] using wfFrom_mono h.2 (Nat.le_succ_of_le ha)
        · simp [writeByte, hb, Memory.wfFrom, ha, h.2]
      · have hk : k + 1 ≤ a := by omega
        simp only [writeByte, h1, if_false, beq_iff_eq, h2, Memory.wfFrom, Bool.and_eq_true, decide_eq_true_eq]
        exact ⟨h.1, ih h.2 hk⟩

theorem writeByte_wf {m : Memory} (a : Nat) (b : Byte) (h : m.wf = true) : Memory.wf (writeByte m a b) = true :=
  writeByte_wfFrom h (Nat.zero_le a)

theorem readByte_writeByte_from {m : Memory} {lo : Nat} (a x : Nat) (b : Byte) (h : Memory.wfFrom lo m = true) :
    readByte (writeByte m a b) x = if x = a then b else readByte m x := by
  induction m generalizing lo with
  | nil => by_cases hb : b = unlisted <;> by_cases hx : x = a <;> simp [writeByte, hb, hx, readByte]
  | cons y r ih =>
    obtain ⟨k, v⟩ := y
    have h' := h
    simp only [Memory.wfFrom, Bool.and_eq_true, decide_eq_true_eq] at h
    by_cases h1 : a < k
    · by_cases hb : b = unlisted
      · by_cases hx : x = a
        · subst hx
          have hne : x ≠ k := by omega
          simp [writeByte, h1, hb, readByte, hne, readByte_below h.2 (Nat.lt_succ_of_lt h1)]
        · simp [writeByte, h1, hb, hx]
      · by_cases hx : x = a <;> simp [writeByte, h1, hb, hx, readByte]
    · by_cases h2 : a = k
      · subst h2
        by_cases hb : b = unlisted
        · by_cases hx : x = a
          · subst hx
            simp [writeByte, hb, readByte_below h.2 (Nat.lt_succ_self x)]
          · simp [writeByte, hb, hx, readByte]
        · by_cases hx : x = a <;> simp [writeByte, hb, hx, readByte]
      · have step := ih h.2
        simp only [writeByte, h1, if_false, beq_iff_eq, h2, readByte, step]
        by_cases hx : x = k
        · subst hx
          have : x ≠ a := fun e => h2 e.symm
          simp [this]
        · simp [hx]

/-- A byte reads as last written, and every other byte as before. -/
theorem readByte_writeByte {m : Memory} (h : m.wf = true) (a x : Nat) (b : Byte) :
    readByte (writeByte m a b) x = if x = a then b else readByte m x :=
  readByte_writeByte_from a x b h

theorem writeBytes_wf {m : Memory} (a : Nat) (l : List Byte) (h : m.wf = true) : Memory.wf (writeBytes m a l) = true := by
  induction l generalizing m a with
  | nil => exact h
  | cons b r ih => exact ih (a + 1) (writeByte_wf a b h)

theorem writeNat_wf {m : Memory} (a n x : Nat) (h : m.wf = true) : Memory.wf (writeNat m a n x) = true :=
  writeBytes_wf a _ h

/-- What a byte reads as after a list of bytes has been stored. -/
theorem readByte_writeBytes {m : Memory} (h : m.wf = true) (a x : Nat) (l : List Byte) :
    readByte (writeBytes m a l) x = if a ≤ x ∧ x < a + l.length then l.getD (x - a) 0 else readByte m x := by
  induction l generalizing m a with
  | nil => simp [writeBytes]
  | cons b r ih =>
    rw [writeBytes, ih (writeByte_wf a b h), readByte_writeByte h]
    by_cases hx : x = a
    · subst hx; simp
    · by_cases h1 : a + 1 ≤ x ∧ x < a + 1 + r.length
      · have h2 : a ≤ x ∧ x < a + (b :: r).length := by simp; omega
        have h3 : x - a = (x - (a + 1)) + 1 := by omega
        rw [if_pos h1, if_pos h2, h3, List.getD_cons_succ]
      · have h2 : ¬ (a ≤ x ∧ x < a + (b :: r).length) := by simp at h1 ⊢; omega
        rw [if_neg h1, if_neg h2, if_neg hx]

theorem filter_wfFrom {m : Memory} {lo : Nat} (p : Host.Cell → Bool) (h : Memory.wfFrom lo m = true) :
    Memory.wfFrom lo (m.filter p) = true := by
  induction m generalizing lo with
  | nil => rfl
  | cons x r ih =>
    obtain ⟨k, v⟩ := x
    simp only [Memory.wfFrom, Bool.and_eq_true, decide_eq_true_eq] at h
    by_cases hp : p (k, v) = true
    · simp only [List.filter, hp, Memory.wfFrom, Bool.and_eq_true, decide_eq_true_eq]
      exact ⟨h.1, ih h.2⟩
    · simp only [List.filter, hp]
      exact wfFrom_mono (ih h.2) (by omega)

theorem clearBytes_wf {m : Memory} (a n : Nat) (h : m.wf = true) : Memory.wf (clearBytes m a n) = true :=
  filter_wfFrom _ h

theorem readByte_clearBytes_from {m : Memory} {lo : Nat} (a n x : Nat) (h : Memory.wfFrom lo m = true) :
    readByte (clearBytes m a n) x = if a ≤ x ∧ x < a + n then unlisted else readByte m x := by
  induction m generalizing lo with
  | nil => simp [clearBytes, readByte]
  | cons y r ih =>
    obtain ⟨k, v⟩ := y
    simp only [Memory.wfFrom, Bool.and_eq_true, decide_eq_true_eq] at h
    have ih' := ih h.2
    by_cases hk : a ≤ k ∧ k < a + n
    · have : clearBytes ((k, v) :: r) a n = clearBytes r a n := by simp [clearBytes, hk]
      rw [this, ih']
      by_cases hx : a ≤ x ∧ x < a + n
      · simp [hx]
      · have : x ≠ k := fun e => hx (e ▸ hk)
        simp [hx, readByte, this]
    · have : clearBytes ((k, v) :: r) a n = (k, v) :: clearBytes r a n := by
        simp only [clearBytes]
        rw [List.filter_cons_of_pos]
        simp; omega
      rw [this, readByte, ih', readByte]
      by_cases hx : x = k
      · subst hx; simp [hk]
      · simp [hx]

/-- A cleared range reads as memory that nothing has written, and every other byte as before. -/
theorem readByte_clearBytes {m : Memory} (h : m.wf = true) (a n x : Nat) :
    readByte (clearBytes m a n) x = if a ≤ x ∧ x < a + n then unlisted else readByte m x :=
  readByte_clearBytes_from a n x h

theorem foldl_writeByte_wf (f : Host.Cell → Nat) (l : List Host.Cell) {m : Memory} (h : m.wf = true) :
    Memory.wf (l.foldl (fun r c => writeByte r (f c) c.2) m) = true := by
  induction l generalizing m with
  | nil => exact h
  | cons c r ih => exact ih (writeByte_wf _ _ h)

theorem copyBytes_wf {m : Memory} (src dst n : Nat) (h : m.wf = true) : Memory.wf (copyBytes m src dst n) = true :=
  foldl_writeByte_wf _ _ (clearBytes_wf dst n h)

theorem length_readBytes (m : Memory) (a n : Nat) : (readBytes m a n).length = n := by
  induction n generalizing a with
  | zero => rfl
  | succ n ih => simp [readBytes, ih]

theorem getD_readBytes (m : Memory) (a n i : Nat) (hi : i < n) : (readBytes m a n).getD i 0 = readByte m (a + i) := by
  induction n generalizing a i with
  | zero => omega
  | succ n ih =>
    cases i with
    | zero => rfl
    | succ i =>
      have h := ih (a + 1) i (by omega)
      simpa [readBytes, Nat.add_assoc, Nat.add_comm 1 i] using h

/-- A list of bytes reads back as it was stored. -/
theorem readBytes_writeBytes {m : Memory} (h : m.wf = true) (a : Nat) (l : List Byte) :
    readBytes (writeBytes m a l) a l.length = l := by
  apply List.ext_getElem
  · exact length_readBytes _ _ _
  · intro i h1 h2
    have := getD_readBytes (writeBytes m a l) a l.length i h2
    rw [readByte_writeBytes h, if_pos ⟨by omega, by omega⟩] at this
    have e : a + i - a = i := by omega
    rw [e] at this
    simpa [List.getD_eq_getElem?_getD, h1, h2] using this

theorem length_bytesOfNat (x n : Nat) : (bytesOfNat x n).length = n := by
  induction n generalizing x with
  | zero => rfl
  | succ n ih => simp [bytesOfNat, ih]

theorem natOfBytes_bytesOfNat (x n : Nat) : natOfBytes (bytesOfNat x n) = x % 256 ^ n := by
  induction n generalizing x with
  | zero => simp [bytesOfNat, natOfBytes, Nat.mod_one]
  | succ n ih =>
    simp only [bytesOfNat, natOfBytes, ih, BitVec.toNat_ofNat]
    rw [show (2 : Nat) ^ 8 = 256 from rfl, Nat.pow_succ, Nat.mul_comm (256 ^ n), Nat.mod_mul]

end Sys2Proof.Machine
end

