-- ==== Sys2Proof/Laws/State.lean ====
section
/-! SUPPORT. What each named update of the state leaves unchanged, field by field, and what reading a part of the state
gives after the same part, or another one, has been set. -/
namespace Sys2Proof.Machine

@[simp] theorem State.setCore_time (s : State) (c : CoreRef) (x : Core) : (s.setCore c x).time = s.time := rfl
@[simp] theorem State.setCore_coord (s : State) (c : CoreRef) (x : Core) : (s.setCore c x).coord = s.coord := rfl
@[simp] theorem State.setCore_mem (s : State) (c : CoreRef) (x : Core) : (s.setCore c x).mem = s.mem := rfl
@[simp] theorem State.setCore_poison (s : State) (c : CoreRef) (x : Core) : (s.setCore c x).poison = s.poison := rfl
@[simp] theorem State.setCore_free (s : State) (c : CoreRef) (x : Core) : (s.setCore c x).free = s.free := rfl
@[simp] theorem State.setCore_inputs (s : State) (c : CoreRef) (x : Core) : (s.setCore c x).inputs = s.inputs := rfl
@[simp] theorem State.setCore_cur (s : State) (c : CoreRef) (x : Core) : (s.setCore c x).cur = s.cur := rfl
@[simp] theorem State.setCore_issue (s : State) (c : CoreRef) (x : Core) : (s.setCore c x).issue = s.issue := rfl
@[simp] theorem State.setCore_reqs (s : State) (c : CoreRef) (x : Core) : (s.setCore c x).reqs = s.reqs := rfl
@[simp] theorem State.setCore_nextId (s : State) (c : CoreRef) (x : Core) : (s.setCore c x).nextId = s.nextId := rfl
@[simp] theorem State.setCore_races (s : State) (c : CoreRef) (x : Core) : (s.setCore c x).races = s.races := rfl
@[simp] theorem State.setCore_arrivals (s : State) (c : CoreRef) (x : Core) : (s.setCore c x).arrivals = s.arrivals := rfl
@[simp] theorem State.setCore_streams (s : State) (c : CoreRef) (x : Core) : (s.setCore c x).streams = s.streams := rfl
@[simp] theorem State.setCore_packets (s : State) (c : CoreRef) (x : Core) : (s.setCore c x).packets = s.packets := rfl
@[simp] theorem State.setCore_outbox (s : State) (c : CoreRef) (x : Core) : (s.setCore c x).outbox = s.outbox := rfl
@[simp] theorem State.setCore_torusIn (s : State) (c : CoreRef) (x : Core) : (s.setCore c x).torusIn = s.torusIn := rfl
@[simp] theorem State.setCore_mgmt (s : State) (c : CoreRef) (x : Core) : (s.setCore c x).mgmt = s.mgmt := rfl
@[simp] theorem State.setCore_dies (s : State) (c : CoreRef) (x : Core) : (s.setCore c x).dies = s.dies := rfl
@[simp] theorem State.setCore_fns (s : State) (c : CoreRef) (x : Core) : (s.setCore c x).fns = s.fns := rfl
@[simp] theorem State.setCore_island (s : State) (c : CoreRef) (x : Core) : (s.setCore c x).island = s.island := rfl

@[simp] theorem State.modCore_time (s : State) (c : CoreRef) (f : Core → Core) : (s.modCore c f).time = s.time := rfl
@[simp] theorem State.modCore_coord (s : State) (c : CoreRef) (f : Core → Core) : (s.modCore c f).coord = s.coord := rfl
@[simp] theorem State.modCore_mem (s : State) (c : CoreRef) (f : Core → Core) : (s.modCore c f).mem = s.mem := rfl
@[simp] theorem State.modCore_poison (s : State) (c : CoreRef) (f : Core → Core) : (s.modCore c f).poison = s.poison := rfl
@[simp] theorem State.modCore_free (s : State) (c : CoreRef) (f : Core → Core) : (s.modCore c f).free = s.free := rfl
@[simp] theorem State.modCore_inputs (s : State) (c : CoreRef) (f : Core → Core) : (s.modCore c f).inputs = s.inputs := rfl
@[simp] theorem State.modCore_cur (s : State) (c : CoreRef) (f : Core → Core) : (s.modCore c f).cur = s.cur := rfl
@[simp] theorem State.modCore_issue (s : State) (c : CoreRef) (f : Core → Core) : (s.modCore c f).issue = s.issue := rfl
@[simp] theorem State.modCore_reqs (s : State) (c : CoreRef) (f : Core → Core) : (s.modCore c f).reqs = s.reqs := rfl
@[simp] theorem State.modCore_nextId (s : State) (c : CoreRef) (f : Core → Core) : (s.modCore c f).nextId = s.nextId := rfl
@[simp] theorem State.modCore_races (s : State) (c : CoreRef) (f : Core → Core) : (s.modCore c f).races = s.races := rfl
@[simp] theorem State.modCore_arrivals (s : State) (c : CoreRef) (f : Core → Core) : (s.modCore c f).arrivals = s.arrivals := rfl
@[simp] theorem State.modCore_streams (s : State) (c : CoreRef) (f : Core → Core) : (s.modCore c f).streams = s.streams := rfl
@[simp] theorem State.modCore_packets (s : State) (c : CoreRef) (f : Core → Core) : (s.modCore c f).packets = s.packets := rfl
@[simp] theorem State.modCore_outbox (s : State) (c : CoreRef) (f : Core → Core) : (s.modCore c f).outbox = s.outbox := rfl
@[simp] theorem State.modCore_torusIn (s : State) (c : CoreRef) (f : Core → Core) : (s.modCore c f).torusIn = s.torusIn := rfl
@[simp] theorem State.modCore_mgmt (s : State) (c : CoreRef) (f : Core → Core) : (s.modCore c f).mgmt = s.mgmt := rfl
@[simp] theorem State.modCore_dies (s : State) (c : CoreRef) (f : Core → Core) : (s.modCore c f).dies = s.dies := rfl
@[simp] theorem State.modCore_fns (s : State) (c : CoreRef) (f : Core → Core) : (s.modCore c f).fns = s.fns := rfl
@[simp] theorem State.modCore_island (s : State) (c : CoreRef) (f : Core → Core) : (s.modCore c f).island = s.island := rfl

@[simp] theorem State.setCtx_time (s : State) (c : CoreRef) (x : BitVec 2) (v : Ctx) : (s.setCtx c x v).time = s.time := rfl
@[simp] theorem State.setCtx_coord (s : State) (c : CoreRef) (x : BitVec 2) (v : Ctx) : (s.setCtx c x v).coord = s.coord := rfl
@[simp] theorem State.setCtx_mem (s : State) (c : CoreRef) (x : BitVec 2) (v : Ctx) : (s.setCtx c x v).mem = s.mem := rfl
@[simp] theorem State.setCtx_poison (s : State) (c : CoreRef) (x : BitVec 2) (v : Ctx) : (s.setCtx c x v).poison = s.poison := rfl
@[simp] theorem State.setCtx_free (s : State) (c : CoreRef) (x : BitVec 2) (v : Ctx) : (s.setCtx c x v).free = s.free := rfl
@[simp] theorem State.setCtx_inputs (s : State) (c : CoreRef) (x : BitVec 2) (v : Ctx) : (s.setCtx c x v).inputs = s.inputs := rfl
@[simp] theorem State.setCtx_cur (s : State) (c : CoreRef) (x : BitVec 2) (v : Ctx) : (s.setCtx c x v).cur = s.cur := rfl
@[simp] theorem State.setCtx_issue (s : State) (c : CoreRef) (x : BitVec 2) (v : Ctx) : (s.setCtx c x v).issue = s.issue := rfl
@[simp] theorem State.setCtx_reqs (s : State) (c : CoreRef) (x : BitVec 2) (v : Ctx) : (s.setCtx c x v).reqs = s.reqs := rfl
@[simp] theorem State.setCtx_nextId (s : State) (c : CoreRef) (x : BitVec 2) (v : Ctx) : (s.setCtx c x v).nextId = s.nextId := rfl
@[simp] theorem State.setCtx_races (s : State) (c : CoreRef) (x : BitVec 2) (v : Ctx) : (s.setCtx c x v).races = s.races := rfl
@[simp] theorem State.setCtx_arrivals (s : State) (c : CoreRef) (x : BitVec 2) (v : Ctx) : (s.setCtx c x v).arrivals = s.arrivals := rfl
@[simp] theorem State.setCtx_streams (s : State) (c : CoreRef) (x : BitVec 2) (v : Ctx) : (s.setCtx c x v).streams = s.streams := rfl
@[simp] theorem State.setCtx_packets (s : State) (c : CoreRef) (x : BitVec 2) (v : Ctx) : (s.setCtx c x v).packets = s.packets := rfl
@[simp] theorem State.setCtx_outbox (s : State) (c : CoreRef) (x : BitVec 2) (v : Ctx) : (s.setCtx c x v).outbox = s.outbox := rfl
@[simp] theorem State.setCtx_torusIn (s : State) (c : CoreRef) (x : BitVec 2) (v : Ctx) : (s.setCtx c x v).torusIn = s.torusIn := rfl
@[simp] theorem State.setCtx_mgmt (s : State) (c : CoreRef) (x : BitVec 2) (v : Ctx) : (s.setCtx c x v).mgmt = s.mgmt := rfl
@[simp] theorem State.setCtx_dies (s : State) (c : CoreRef) (x : BitVec 2) (v : Ctx) : (s.setCtx c x v).dies = s.dies := rfl
@[simp] theorem State.setCtx_fns (s : State) (c : CoreRef) (x : BitVec 2) (v : Ctx) : (s.setCtx c x v).fns = s.fns := rfl
@[simp] theorem State.setCtx_island (s : State) (c : CoreRef) (x : BitVec 2) (v : Ctx) : (s.setCtx c x v).island = s.island := rfl

@[simp] theorem State.modCtx_time (s : State) (c : CoreRef) (x : BitVec 2) (f : Ctx → Ctx) : (s.modCtx c x f).time = s.time := rfl
@[simp] theorem State.modCtx_coord (s : State) (c : CoreRef) (x : BitVec 2) (f : Ctx → Ctx) : (s.modCtx c x f).coord = s.coord := rfl
@[simp] theorem State.modCtx_mem (s : State) (c : CoreRef) (x : BitVec 2) (f : Ctx → Ctx) : (s.modCtx c x f).mem = s.mem := rfl
@[simp] theorem State.modCtx_poison (s : State) (c : CoreRef) (x : BitVec 2) (f : Ctx → Ctx) : (s.modCtx c x f).poison = s.poison := rfl
@[simp] theorem State.modCtx_free (s : State) (c : CoreRef) (x : BitVec 2) (f : Ctx → Ctx) : (s.modCtx c x f).free = s.free := rfl
@[simp] theorem State.modCtx_inputs (s : State) (c : CoreRef) (x : BitVec 2) (f : Ctx → Ctx) : (s.modCtx c x f).inputs = s.inputs := rfl
@[simp] theorem State.modCtx_cur (s : State) (c : CoreRef) (x : BitVec 2) (f : Ctx → Ctx) : (s.modCtx c x f).cur = s.cur := rfl
@[simp] theorem State.modCtx_issue (s : State) (c : CoreRef) (x : BitVec 2) (f : Ctx → Ctx) : (s.modCtx c x f).issue = s.issue := rfl
@[simp] theorem State.modCtx_reqs (s : State) (c : CoreRef) (x : BitVec 2) (f : Ctx → Ctx) : (s.modCtx c x f).reqs = s.reqs := rfl
@[simp] theorem State.modCtx_nextId (s : State) (c : CoreRef) (x : BitVec 2) (f : Ctx → Ctx) : (s.modCtx c x f).nextId = s.nextId := rfl
@[simp] theorem State.modCtx_races (s : State) (c : CoreRef) (x : BitVec 2) (f : Ctx → Ctx) : (s.modCtx c x f).races = s.races := rfl
@[simp] theorem State.modCtx_arrivals (s : State) (c : CoreRef) (x : BitVec 2) (f : Ctx → Ctx) : (s.modCtx c x f).arrivals = s.arrivals := rfl
@[simp] theorem State.modCtx_streams (s : State) (c : CoreRef) (x : BitVec 2) (f : Ctx → Ctx) : (s.modCtx c x f).streams = s.streams := rfl
@[simp] theorem State.modCtx_packets (s : State) (c : CoreRef) (x : BitVec 2) (f : Ctx → Ctx) : (s.modCtx c x f).packets = s.packets := rfl
@[simp] theorem State.modCtx_outbox (s : State) (c : CoreRef) (x : BitVec 2) (f : Ctx → Ctx) : (s.modCtx c x f).outbox = s.outbox := rfl
@[simp] theorem State.modCtx_torusIn (s : State) (c : CoreRef) (x : BitVec 2) (f : Ctx → Ctx) : (s.modCtx c x f).torusIn = s.torusIn := rfl
@[simp] theorem State.modCtx_mgmt (s : State) (c : CoreRef) (x : BitVec 2) (f : Ctx → Ctx) : (s.modCtx c x f).mgmt = s.mgmt := rfl
@[simp] theorem State.modCtx_dies (s : State) (c : CoreRef) (x : BitVec 2) (f : Ctx → Ctx) : (s.modCtx c x f).dies = s.dies := rfl
@[simp] theorem State.modCtx_fns (s : State) (c : CoreRef) (x : BitVec 2) (f : Ctx → Ctx) : (s.modCtx c x f).fns = s.fns := rfl
@[simp] theorem State.modCtx_island (s : State) (c : CoreRef) (x : BitVec 2) (f : Ctx → Ctx) : (s.modCtx c x f).island = s.island := rfl

@[simp] theorem State.modCx_time (s : State) (f : Ctx → Ctx) : (s.modCx f).time = s.time := rfl
@[simp] theorem State.modCx_coord (s : State) (f : Ctx → Ctx) : (s.modCx f).coord = s.coord := rfl
@[simp] theorem State.modCx_mem (s : State) (f : Ctx → Ctx) : (s.modCx f).mem = s.mem := rfl
@[simp] theorem State.modCx_poison (s : State) (f : Ctx → Ctx) : (s.modCx f).poison = s.poison := rfl
@[simp] theorem State.modCx_free (s : State) (f : Ctx → Ctx) : (s.modCx f).free = s.free := rfl
@[simp] theorem State.modCx_inputs (s : State) (f : Ctx → Ctx) : (s.modCx f).inputs = s.inputs := rfl
@[simp] theorem State.modCx_cur (s : State) (f : Ctx → Ctx) : (s.modCx f).cur = s.cur := rfl
@[simp] theorem State.modCx_issue (s : State) (f : Ctx → Ctx) : (s.modCx f).issue = s.issue := rfl
@[simp] theorem State.modCx_reqs (s : State) (f : Ctx → Ctx) : (s.modCx f).reqs = s.reqs := rfl
@[simp] theorem State.modCx_nextId (s : State) (f : Ctx → Ctx) : (s.modCx f).nextId = s.nextId := rfl
@[simp] theorem State.modCx_races (s : State) (f : Ctx → Ctx) : (s.modCx f).races = s.races := rfl
@[simp] theorem State.modCx_arrivals (s : State) (f : Ctx → Ctx) : (s.modCx f).arrivals = s.arrivals := rfl
@[simp] theorem State.modCx_streams (s : State) (f : Ctx → Ctx) : (s.modCx f).streams = s.streams := rfl
@[simp] theorem State.modCx_packets (s : State) (f : Ctx → Ctx) : (s.modCx f).packets = s.packets := rfl
@[simp] theorem State.modCx_outbox (s : State) (f : Ctx → Ctx) : (s.modCx f).outbox = s.outbox := rfl
@[simp] theorem State.modCx_torusIn (s : State) (f : Ctx → Ctx) : (s.modCx f).torusIn = s.torusIn := rfl
@[simp] theorem State.modCx_mgmt (s : State) (f : Ctx → Ctx) : (s.modCx f).mgmt = s.mgmt := rfl
@[simp] theorem State.modCx_dies (s : State) (f : Ctx → Ctx) : (s.modCx f).dies = s.dies := rfl
@[simp] theorem State.modCx_fns (s : State) (f : Ctx → Ctx) : (s.modCx f).fns = s.fns := rfl
@[simp] theorem State.modCx_island (s : State) (f : Ctx → Ctx) : (s.modCx f).island = s.island := rfl

@[simp] theorem State.modCc_time (s : State) (f : Core → Core) : (s.modCc f).time = s.time := rfl
@[simp] theorem State.modCc_coord (s : State) (f : Core → Core) : (s.modCc f).coord = s.coord := rfl
@[simp] theorem State.modCc_mem (s : State) (f : Core → Core) : (s.modCc f).mem = s.mem := rfl
@[simp] theorem State.modCc_poison (s : State) (f : Core → Core) : (s.modCc f).poison = s.poison := rfl
@[simp] theorem State.modCc_free (s : State) (f : Core → Core) : (s.modCc f).free = s.free := rfl
@[simp] theorem State.modCc_inputs (s : State) (f : Core → Core) : (s.modCc f).inputs = s.inputs := rfl
@[simp] theorem State.modCc_cur (s : State) (f : Core → Core) : (s.modCc f).cur = s.cur := rfl
@[simp] theorem State.modCc_issue (s : State) (f : Core → Core) : (s.modCc f).issue = s.issue := rfl
@[simp] theorem State.modCc_reqs (s : State) (f : Core → Core) : (s.modCc f).reqs = s.reqs := rfl
@[simp] theorem State.modCc_nextId (s : State) (f : Core → Core) : (s.modCc f).nextId = s.nextId := rfl
@[simp] theorem State.modCc_races (s : State) (f : Core → Core) : (s.modCc f).races = s.races := rfl
@[simp] theorem State.modCc_arrivals (s : State) (f : Core → Core) : (s.modCc f).arrivals = s.arrivals := rfl
@[simp] theorem State.modCc_streams (s : State) (f : Core → Core) : (s.modCc f).streams = s.streams := rfl
@[simp] theorem State.modCc_packets (s : State) (f : Core → Core) : (s.modCc f).packets = s.packets := rfl
@[simp] theorem State.modCc_outbox (s : State) (f : Core → Core) : (s.modCc f).outbox = s.outbox := rfl
@[simp] theorem State.modCc_torusIn (s : State) (f : Core → Core) : (s.modCc f).torusIn = s.torusIn := rfl
@[simp] theorem State.modCc_mgmt (s : State) (f : Core → Core) : (s.modCc f).mgmt = s.mgmt := rfl
@[simp] theorem State.modCc_dies (s : State) (f : Core → Core) : (s.modCc f).dies = s.dies := rfl
@[simp] theorem State.modCc_fns (s : State) (f : Core → Core) : (s.modCc f).fns = s.fns := rfl
@[simp] theorem State.modCc_island (s : State) (f : Core → Core) : (s.modCc f).island = s.island := rfl

@[simp] theorem State.setDie_time (s : State) (d : BitVec 2) (x : Die) : (s.setDie d x).time = s.time := rfl
@[simp] theorem State.setDie_coord (s : State) (d : BitVec 2) (x : Die) : (s.setDie d x).coord = s.coord := rfl
@[simp] theorem State.setDie_mem (s : State) (d : BitVec 2) (x : Die) : (s.setDie d x).mem = s.mem := rfl
@[simp] theorem State.setDie_poison (s : State) (d : BitVec 2) (x : Die) : (s.setDie d x).poison = s.poison := rfl
@[simp] theorem State.setDie_free (s : State) (d : BitVec 2) (x : Die) : (s.setDie d x).free = s.free := rfl
@[simp] theorem State.setDie_inputs (s : State) (d : BitVec 2) (x : Die) : (s.setDie d x).inputs = s.inputs := rfl
@[simp] theorem State.setDie_cur (s : State) (d : BitVec 2) (x : Die) : (s.setDie d x).cur = s.cur := rfl
@[simp] theorem State.setDie_issue (s : State) (d : BitVec 2) (x : Die) : (s.setDie d x).issue = s.issue := rfl
@[simp] theorem State.setDie_reqs (s : State) (d : BitVec 2) (x : Die) : (s.setDie d x).reqs = s.reqs := rfl
@[simp] theorem State.setDie_nextId (s : State) (d : BitVec 2) (x : Die) : (s.setDie d x).nextId = s.nextId := rfl
@[simp] theorem State.setDie_races (s : State) (d : BitVec 2) (x : Die) : (s.setDie d x).races = s.races := rfl
@[simp] theorem State.setDie_arrivals (s : State) (d : BitVec 2) (x : Die) : (s.setDie d x).arrivals = s.arrivals := rfl
@[simp] theorem State.setDie_streams (s : State) (d : BitVec 2) (x : Die) : (s.setDie d x).streams = s.streams := rfl
@[simp] theorem State.setDie_packets (s : State) (d : BitVec 2) (x : Die) : (s.setDie d x).packets = s.packets := rfl
@[simp] theorem State.setDie_outbox (s : State) (d : BitVec 2) (x : Die) : (s.setDie d x).outbox = s.outbox := rfl
@[simp] theorem State.setDie_torusIn (s : State) (d : BitVec 2) (x : Die) : (s.setDie d x).torusIn = s.torusIn := rfl
@[simp] theorem State.setDie_mgmt (s : State) (d : BitVec 2) (x : Die) : (s.setDie d x).mgmt = s.mgmt := rfl
@[simp] theorem State.setDie_cores (s : State) (d : BitVec 2) (x : Die) : (s.setDie d x).cores = s.cores := rfl
@[simp] theorem State.setDie_fns (s : State) (d : BitVec 2) (x : Die) : (s.setDie d x).fns = s.fns := rfl
@[simp] theorem State.setDie_island (s : State) (d : BitVec 2) (x : Die) : (s.setDie d x).island = s.island := rfl

@[simp] theorem State.modDie_time (s : State) (d : BitVec 2) (f : Die → Die) : (s.modDie d f).time = s.time := rfl
@[simp] theorem State.modDie_coord (s : State) (d : BitVec 2) (f : Die → Die) : (s.modDie d f).coord = s.coord := rfl
@[simp] theorem State.modDie_mem (s : State) (d : BitVec 2) (f : Die → Die) : (s.modDie d f).mem = s.mem := rfl
@[simp] theorem State.modDie_poison (s : State) (d : BitVec 2) (f : Die → Die) : (s.modDie d f).poison = s.poison := rfl
@[simp] theorem State.modDie_free (s : State) (d : BitVec 2) (f : Die → Die) : (s.modDie d f).free = s.free := rfl
@[simp] theorem State.modDie_inputs (s : State) (d : BitVec 2) (f : Die → Die) : (s.modDie d f).inputs = s.inputs := rfl
@[simp] theorem State.modDie_cur (s : State) (d : BitVec 2) (f : Die → Die) : (s.modDie d f).cur = s.cur := rfl
@[simp] theorem State.modDie_issue (s : State) (d : BitVec 2) (f : Die → Die) : (s.modDie d f).issue = s.issue := rfl
@[simp] theorem State.modDie_reqs (s : State) (d : BitVec 2) (f : Die → Die) : (s.modDie d f).reqs = s.reqs := rfl
@[simp] theorem State.modDie_nextId (s : State) (d : BitVec 2) (f : Die → Die) : (s.modDie d f).nextId = s.nextId := rfl
@[simp] theorem State.modDie_races (s : State) (d : BitVec 2) (f : Die → Die) : (s.modDie d f).races = s.races := rfl
@[simp] theorem State.modDie_arrivals (s : State) (d : BitVec 2) (f : Die → Die) : (s.modDie d f).arrivals = s.arrivals := rfl
@[simp] theorem State.modDie_streams (s : State) (d : BitVec 2) (f : Die → Die) : (s.modDie d f).streams = s.streams := rfl
@[simp] theorem State.modDie_packets (s : State) (d : BitVec 2) (f : Die → Die) : (s.modDie d f).packets = s.packets := rfl
@[simp] theorem State.modDie_outbox (s : State) (d : BitVec 2) (f : Die → Die) : (s.modDie d f).outbox = s.outbox := rfl
@[simp] theorem State.modDie_torusIn (s : State) (d : BitVec 2) (f : Die → Die) : (s.modDie d f).torusIn = s.torusIn := rfl
@[simp] theorem State.modDie_mgmt (s : State) (d : BitVec 2) (f : Die → Die) : (s.modDie d f).mgmt = s.mgmt := rfl
@[simp] theorem State.modDie_cores (s : State) (d : BitVec 2) (f : Die → Die) : (s.modDie d f).cores = s.cores := rfl
@[simp] theorem State.modDie_fns (s : State) (d : BitVec 2) (f : Die → Die) : (s.modDie d f).fns = s.fns := rfl
@[simp] theorem State.modDie_island (s : State) (d : BitVec 2) (f : Die → Die) : (s.modDie d f).island = s.island := rfl

@[simp] theorem State.modQ_time (s : State) (d : BitVec 2) (q : BitVec 8) (f : QueueRec → QueueRec) : (s.modQ d q f).time = s.time := rfl
@[simp] theorem State.modQ_coord (s : State) (d : BitVec 2) (q : BitVec 8) (f : QueueRec → QueueRec) : (s.modQ d q f).coord = s.coord := rfl
@[simp] theorem State.modQ_mem (s : State) (d : BitVec 2) (q : BitVec 8) (f : QueueRec → QueueRec) : (s.modQ d q f).mem = s.mem := rfl
@[simp] theorem State.modQ_poison (s : State) (d : BitVec 2) (q : BitVec 8) (f : QueueRec → QueueRec) : (s.modQ d q f).poison = s.poison := rfl
@[simp] theorem State.modQ_free (s : State) (d : BitVec 2) (q : BitVec 8) (f : QueueRec → QueueRec) : (s.modQ d q f).free = s.free := rfl
@[simp] theorem State.modQ_inputs (s : State) (d : BitVec 2) (q : BitVec 8) (f : QueueRec → QueueRec) : (s.modQ d q f).inputs = s.inputs := rfl
@[simp] theorem State.modQ_cur (s : State) (d : BitVec 2) (q : BitVec 8) (f : QueueRec → QueueRec) : (s.modQ d q f).cur = s.cur := rfl
@[simp] theorem State.modQ_issue (s : State) (d : BitVec 2) (q : BitVec 8) (f : QueueRec → QueueRec) : (s.modQ d q f).issue = s.issue := rfl
@[simp] theorem State.modQ_reqs (s : State) (d : BitVec 2) (q : BitVec 8) (f : QueueRec → QueueRec) : (s.modQ d q f).reqs = s.reqs := rfl
@[simp] theorem State.modQ_nextId (s : State) (d : BitVec 2) (q : BitVec 8) (f : QueueRec → QueueRec) : (s.modQ d q f).nextId = s.nextId := rfl
@[simp] theorem State.modQ_races (s : State) (d : BitVec 2) (q : BitVec 8) (f : QueueRec → QueueRec) : (s.modQ d q f).races = s.races := rfl
@[simp] theorem State.modQ_arrivals (s : State) (d : BitVec 2) (q : BitVec 8) (f : QueueRec → QueueRec) : (s.modQ d q f).arrivals = s.arrivals := rfl
@[simp] theorem State.modQ_streams (s : State) (d : BitVec 2) (q : BitVec 8) (f : QueueRec → QueueRec) : (s.modQ d q f).streams = s.streams := rfl
@[simp] theorem State.modQ_packets (s : State) (d : BitVec 2) (q : BitVec 8) (f : QueueRec → QueueRec) : (s.modQ d q f).packets = s.packets := rfl
@[simp] theorem State.modQ_outbox (s : State) (d : BitVec 2) (q : BitVec 8) (f : QueueRec → QueueRec) : (s.modQ d q f).outbox = s.outbox := rfl
@[simp] theorem State.modQ_torusIn (s : State) (d : BitVec 2) (q : BitVec 8) (f : QueueRec → QueueRec) : (s.modQ d q f).torusIn = s.torusIn := rfl
@[simp] theorem State.modQ_mgmt (s : State) (d : BitVec 2) (q : BitVec 8) (f : QueueRec → QueueRec) : (s.modQ d q f).mgmt = s.mgmt := rfl
@[simp] theorem State.modQ_cores (s : State) (d : BitVec 2) (q : BitVec 8) (f : QueueRec → QueueRec) : (s.modQ d q f).cores = s.cores := rfl
@[simp] theorem State.modQ_fns (s : State) (d : BitVec 2) (q : BitVec 8) (f : QueueRec → QueueRec) : (s.modQ d q f).fns = s.fns := rfl
@[simp] theorem State.modQ_island (s : State) (d : BitVec 2) (q : BitVec 8) (f : QueueRec → QueueRec) : (s.modQ d q f).island = s.island := rfl

@[simp] theorem State.count_time (s : State) (d : BitVec 2) (i n : Nat) : (s.count d i n).time = s.time := rfl
@[simp] theorem State.count_coord (s : State) (d : BitVec 2) (i n : Nat) : (s.count d i n).coord = s.coord := rfl
@[simp] theorem State.count_mem (s : State) (d : BitVec 2) (i n : Nat) : (s.count d i n).mem = s.mem := rfl
@[simp] theorem State.count_poison (s : State) (d : BitVec 2) (i n : Nat) : (s.count d i n).poison = s.poison := rfl
@[simp] theorem State.count_free (s : State) (d : BitVec 2) (i n : Nat) : (s.count d i n).free = s.free := rfl
@[simp] theorem State.count_inputs (s : State) (d : BitVec 2) (i n : Nat) : (s.count d i n).inputs = s.inputs := rfl
@[simp] theorem State.count_cur (s : State) (d : BitVec 2) (i n : Nat) : (s.count d i n).cur = s.cur := rfl
@[simp] theorem State.count_issue (s : State) (d : BitVec 2) (i n : Nat) : (s.count d i n).issue = s.issue := rfl
@[simp] theorem State.count_reqs (s : State) (d : BitVec 2) (i n : Nat) : (s.count d i n).reqs = s.reqs := rfl
@[simp] theorem State.count_nextId (s : State) (d : BitVec 2) (i n : Nat) : (s.count d i n).nextId = s.nextId := rfl
@[simp] theorem State.count_races (s : State) (d : BitVec 2) (i n : Nat) : (s.count d i n).races = s.races := rfl
@[simp] theorem State.count_arrivals (s : State) (d : BitVec 2) (i n : Nat) : (s.count d i n).arrivals = s.arrivals := rfl
@[simp] theorem State.count_streams (s : State) (d : BitVec 2) (i n : Nat) : (s.count d i n).streams = s.streams := rfl
@[simp] theorem State.count_packets (s : State) (d : BitVec 2) (i n : Nat) : (s.count d i n).packets = s.packets := rfl
@[simp] theorem State.count_outbox (s : State) (d : BitVec 2) (i n : Nat) : (s.count d i n).outbox = s.outbox := rfl
@[simp] theorem State.count_torusIn (s : State) (d : BitVec 2) (i n : Nat) : (s.count d i n).torusIn = s.torusIn := rfl
@[simp] theorem State.count_mgmt (s : State) (d : BitVec 2) (i n : Nat) : (s.count d i n).mgmt = s.mgmt := rfl
@[simp] theorem State.count_cores (s : State) (d : BitVec 2) (i n : Nat) : (s.count d i n).cores = s.cores := rfl
@[simp] theorem State.count_fns (s : State) (d : BitVec 2) (i n : Nat) : (s.count d i n).fns = s.fns := rfl
@[simp] theorem State.count_island (s : State) (d : BitVec 2) (i n : Nat) : (s.count d i n).island = s.island := rfl

@[simp] theorem State.modStream_time (s : State) (k : Nat) (f : Stream → Stream) : (s.modStream k f).time = s.time := rfl
@[simp] theorem State.modStream_coord (s : State) (k : Nat) (f : Stream → Stream) : (s.modStream k f).coord = s.coord := rfl
@[simp] theorem State.modStream_mem (s : State) (k : Nat) (f : Stream → Stream) : (s.modStream k f).mem = s.mem := rfl
@[simp] theorem State.modStream_poison (s : State) (k : Nat) (f : Stream → Stream) : (s.modStream k f).poison = s.poison := rfl
@[simp] theorem State.modStream_free (s : State) (k : Nat) (f : Stream → Stream) : (s.modStream k f).free = s.free := rfl
@[simp] theorem State.modStream_inputs (s : State) (k : Nat) (f : Stream → Stream) : (s.modStream k f).inputs = s.inputs := rfl
@[simp] theorem State.modStream_cur (s : State) (k : Nat) (f : Stream → Stream) : (s.modStream k f).cur = s.cur := rfl
@[simp] theorem State.modStream_issue (s : State) (k : Nat) (f : Stream → Stream) : (s.modStream k f).issue = s.issue := rfl
@[simp] theorem State.modStream_reqs (s : State) (k : Nat) (f : Stream → Stream) : (s.modStream k f).reqs = s.reqs := rfl
@[simp] theorem State.modStream_nextId (s : State) (k : Nat) (f : Stream → Stream) : (s.modStream k f).nextId = s.nextId := rfl
@[simp] theorem State.modStream_races (s : State) (k : Nat) (f : Stream → Stream) : (s.modStream k f).races = s.races := rfl
@[simp] theorem State.modStream_arrivals (s : State) (k : Nat) (f : Stream → Stream) : (s.modStream k f).arrivals = s.arrivals := rfl
@[simp] theorem State.modStream_packets (s : State) (k : Nat) (f : Stream → Stream) : (s.modStream k f).packets = s.packets := rfl
@[simp] theorem State.modStream_outbox (s : State) (k : Nat) (f : Stream → Stream) : (s.modStream k f).outbox = s.outbox := rfl
@[simp] theorem State.modStream_torusIn (s : State) (k : Nat) (f : Stream → Stream) : (s.modStream k f).torusIn = s.torusIn := rfl
@[simp] theorem State.modStream_mgmt (s : State) (k : Nat) (f : Stream → Stream) : (s.modStream k f).mgmt = s.mgmt := rfl
@[simp] theorem State.modStream_cores (s : State) (k : Nat) (f : Stream → Stream) : (s.modStream k f).cores = s.cores := rfl
@[simp] theorem State.modStream_dies (s : State) (k : Nat) (f : Stream → Stream) : (s.modStream k f).dies = s.dies := rfl
@[simp] theorem State.modStream_fns (s : State) (k : Nat) (f : Stream → Stream) : (s.modStream k f).fns = s.fns := rfl
@[simp] theorem State.modStream_island (s : State) (k : Nat) (f : Stream → Stream) : (s.modStream k f).island = s.island := rfl

@[simp] theorem State.modReq_time (s : State) (id : Nat) (f : Req → Req) : (s.modReq id f).time = s.time := rfl
@[simp] theorem State.modReq_coord (s : State) (id : Nat) (f : Req → Req) : (s.modReq id f).coord = s.coord := rfl
@[simp] theorem State.modReq_mem (s : State) (id : Nat) (f : Req → Req) : (s.modReq id f).mem = s.mem := rfl
@[simp] theorem State.modReq_poison (s : State) (id : Nat) (f : Req → Req) : (s.modReq id f).poison = s.poison := rfl
@[simp] theorem State.modReq_free (s : State) (id : Nat) (f : Req → Req) : (s.modReq id f).free = s.free := rfl
@[simp] theorem State.modReq_inputs (s : State) (id : Nat) (f : Req → Req) : (s.modReq id f).inputs = s.inputs := rfl
@[simp] theorem State.modReq_cur (s : State) (id : Nat) (f : Req → Req) : (s.modReq id f).cur = s.cur := rfl
@[simp] theorem State.modReq_issue (s : State) (id : Nat) (f : Req → Req) : (s.modReq id f).issue = s.issue := rfl
@[simp] theorem State.modReq_nextId (s : State) (id : Nat) (f : Req → Req) : (s.modReq id f).nextId = s.nextId := rfl
@[simp] theorem State.modReq_races (s : State) (id : Nat) (f : Req → Req) : (s.modReq id f).races = s.races := rfl
@[simp] theorem State.modReq_arrivals (s : State) (id : Nat) (f : Req → Req) : (s.modReq id f).arrivals = s.arrivals := rfl
@[simp] theorem State.modReq_streams (s : State) (id : Nat) (f : Req → Req) : (s.modReq id f).streams = s.streams := rfl
@[simp] theorem State.modReq_packets (s : State) (id : Nat) (f : Req → Req) : (s.modReq id f).packets = s.packets := rfl
@[simp] theorem State.modReq_outbox (s : State) (id : Nat) (f : Req → Req) : (s.modReq id f).outbox = s.outbox := rfl
@[simp] theorem State.modReq_torusIn (s : State) (id : Nat) (f : Req → Req) : (s.modReq id f).torusIn = s.torusIn := rfl
@[simp] theorem State.modReq_mgmt (s : State) (id : Nat) (f : Req → Req) : (s.modReq id f).mgmt = s.mgmt := rfl
@[simp] theorem State.modReq_cores (s : State) (id : Nat) (f : Req → Req) : (s.modReq id f).cores = s.cores := rfl
@[simp] theorem State.modReq_dies (s : State) (id : Nat) (f : Req → Req) : (s.modReq id f).dies = s.dies := rfl
@[simp] theorem State.modReq_fns (s : State) (id : Nat) (f : Req → Req) : (s.modReq id f).fns = s.fns := rfl
@[simp] theorem State.modReq_island (s : State) (id : Nat) (f : Req → Req) : (s.modReq id f).island = s.island := rfl

@[simp] theorem State.dropReq_time (s : State) (id : Nat) : (s.dropReq id).time = s.time := rfl
@[simp] theorem State.dropReq_coord (s : State) (id : Nat) : (s.dropReq id).coord = s.coord := rfl
@[simp] theorem State.dropReq_mem (s : State) (id : Nat) : (s.dropReq id).mem = s.mem := rfl
@[simp] theorem State.dropReq_poison (s : State) (id : Nat) : (s.dropReq id).poison = s.poison := rfl
@[simp] theorem State.dropReq_free (s : State) (id : Nat) : (s.dropReq id).free = s.free := rfl
@[simp] theorem State.dropReq_inputs (s : State) (id : Nat) : (s.dropReq id).inputs = s.inputs := rfl
@[simp] theorem State.dropReq_cur (s : State) (id : Nat) : (s.dropReq id).cur = s.cur := rfl
@[simp] theorem State.dropReq_issue (s : State) (id : Nat) : (s.dropReq id).issue = s.issue := rfl
@[simp] theorem State.dropReq_nextId (s : State) (id : Nat) : (s.dropReq id).nextId = s.nextId := rfl
@[simp] theorem State.dropReq_races (s : State) (id : Nat) : (s.dropReq id).races = s.races := rfl
@[simp] theorem State.dropReq_arrivals (s : State) (id : Nat) : (s.dropReq id).arrivals = s.arrivals := rfl
@[simp] theorem State.dropReq_streams (s : State) (id : Nat) : (s.dropReq id).streams = s.streams := rfl
@[simp] theorem State.dropReq_packets (s : State) (id : Nat) : (s.dropReq id).packets = s.packets := rfl
@[simp] theorem State.dropReq_outbox (s : State) (id : Nat) : (s.dropReq id).outbox = s.outbox := rfl
@[simp] theorem State.dropReq_torusIn (s : State) (id : Nat) : (s.dropReq id).torusIn = s.torusIn := rfl
@[simp] theorem State.dropReq_mgmt (s : State) (id : Nat) : (s.dropReq id).mgmt = s.mgmt := rfl
@[simp] theorem State.dropReq_cores (s : State) (id : Nat) : (s.dropReq id).cores = s.cores := rfl
@[simp] theorem State.dropReq_dies (s : State) (id : Nat) : (s.dropReq id).dies = s.dies := rfl
@[simp] theorem State.dropReq_fns (s : State) (id : Nat) : (s.dropReq id).fns = s.fns := rfl
@[simp] theorem State.dropReq_island (s : State) (id : Nat) : (s.dropReq id).island = s.island := rfl

@[simp] theorem State.sends_time (s : State) (x : Sent) : (s.sends x).time = s.time := rfl
@[simp] theorem State.sends_coord (s : State) (x : Sent) : (s.sends x).coord = s.coord := rfl
@[simp] theorem State.sends_mem (s : State) (x : Sent) : (s.sends x).mem = s.mem := rfl
@[simp] theorem State.sends_poison (s : State) (x : Sent) : (s.sends x).poison = s.poison := rfl
@[simp] theorem State.sends_free (s : State) (x : Sent) : (s.sends x).free = s.free := rfl
@[simp] theorem State.sends_inputs (s : State) (x : Sent) : (s.sends x).inputs = s.inputs := rfl
@[simp] theorem State.sends_cur (s : State) (x : Sent) : (s.sends x).cur = s.cur := rfl
@[simp] theorem State.sends_issue (s : State) (x : Sent) : (s.sends x).issue = s.issue := rfl
@[simp] theorem State.sends_reqs (s : State) (x : Sent) : (s.sends x).reqs = s.reqs := rfl
@[simp] theorem State.sends_nextId (s : State) (x : Sent) : (s.sends x).nextId = s.nextId := rfl
@[simp] theorem State.sends_races (s : State) (x : Sent) : (s.sends x).races = s.races := rfl
@[simp] theorem State.sends_arrivals (s : State) (x : Sent) : (s.sends x).arrivals = s.arrivals := rfl
@[simp] theorem State.sends_streams (s : State) (x : Sent) : (s.sends x).streams = s.streams := rfl
@[simp] theorem State.sends_packets (s : State) (x : Sent) : (s.sends x).packets = s.packets := rfl
@[simp] theorem State.sends_cores (s : State) (x : Sent) : (s.sends x).cores = s.cores := rfl
@[simp] theorem State.sends_dies (s : State) (x : Sent) : (s.sends x).dies = s.dies := rfl
@[simp] theorem State.sends_fns (s : State) (x : Sent) : (s.sends x).fns = s.fns := rfl
@[simp] theorem State.sends_island (s : State) (x : Sent) : (s.sends x).island = s.island := rfl

@[simp] theorem State.modIss_time (s : State) (f : Issue → Issue) : (s.modIss f).time = s.time := rfl
@[simp] theorem State.modIss_coord (s : State) (f : Issue → Issue) : (s.modIss f).coord = s.coord := rfl
@[simp] theorem State.modIss_mem (s : State) (f : Issue → Issue) : (s.modIss f).mem = s.mem := rfl
@[simp] theorem State.modIss_poison (s : State) (f : Issue → Issue) : (s.modIss f).poison = s.poison := rfl
@[simp] theorem State.modIss_free (s : State) (f : Issue → Issue) : (s.modIss f).free = s.free := rfl
@[simp] theorem State.modIss_inputs (s : State) (f : Issue → Issue) : (s.modIss f).inputs = s.inputs := rfl
@[simp] theorem State.modIss_cur (s : State) (f : Issue → Issue) : (s.modIss f).cur = s.cur := rfl
@[simp] theorem State.modIss_reqs (s : State) (f : Issue → Issue) : (s.modIss f).reqs = s.reqs := rfl
@[simp] theorem State.modIss_nextId (s : State) (f : Issue → Issue) : (s.modIss f).nextId = s.nextId := rfl
@[simp] theorem State.modIss_races (s : State) (f : Issue → Issue) : (s.modIss f).races = s.races := rfl
@[simp] theorem State.modIss_arrivals (s : State) (f : Issue → Issue) : (s.modIss f).arrivals = s.arrivals := rfl
@[simp] theorem State.modIss_streams (s : State) (f : Issue → Issue) : (s.modIss f).streams = s.streams := rfl
@[simp] theorem State.modIss_packets (s : State) (f : Issue → Issue) : (s.modIss f).packets = s.packets := rfl
@[simp] theorem State.modIss_outbox (s : State) (f : Issue → Issue) : (s.modIss f).outbox = s.outbox := rfl
@[simp] theorem State.modIss_torusIn (s : State) (f : Issue → Issue) : (s.modIss f).torusIn = s.torusIn := rfl
@[simp] theorem State.modIss_mgmt (s : State) (f : Issue → Issue) : (s.modIss f).mgmt = s.mgmt := rfl
@[simp] theorem State.modIss_cores (s : State) (f : Issue → Issue) : (s.modIss f).cores = s.cores := rfl
@[simp] theorem State.modIss_dies (s : State) (f : Issue → Issue) : (s.modIss f).dies = s.dies := rfl
@[simp] theorem State.modIss_fns (s : State) (f : Issue → Issue) : (s.modIss f).fns = s.fns := rfl
@[simp] theorem State.modIss_island (s : State) (f : Issue → Issue) : (s.modIss f).island = s.island := rfl

@[simp] theorem State.result_time (s : State) (r : Reg) (v m : Vec) (n : Nat) (fl : Flags) : (s.result r v m n fl).time = s.time := rfl
@[simp] theorem State.result_coord (s : State) (r : Reg) (v m : Vec) (n : Nat) (fl : Flags) : (s.result r v m n fl).coord = s.coord := rfl
@[simp] theorem State.result_mem (s : State) (r : Reg) (v m : Vec) (n : Nat) (fl : Flags) : (s.result r v m n fl).mem = s.mem := rfl
@[simp] theorem State.result_poison (s : State) (r : Reg) (v m : Vec) (n : Nat) (fl : Flags) : (s.result r v m n fl).poison = s.poison := rfl
@[simp] theorem State.result_free (s : State) (r : Reg) (v m : Vec) (n : Nat) (fl : Flags) : (s.result r v m n fl).free = s.free := rfl
@[simp] theorem State.result_inputs (s : State) (r : Reg) (v m : Vec) (n : Nat) (fl : Flags) : (s.result r v m n fl).inputs = s.inputs := rfl
@[simp] theorem State.result_cur (s : State) (r : Reg) (v m : Vec) (n : Nat) (fl : Flags) : (s.result r v m n fl).cur = s.cur := rfl
@[simp] theorem State.result_issue (s : State) (r : Reg) (v m : Vec) (n : Nat) (fl : Flags) : (s.result r v m n fl).issue = s.issue := rfl
@[simp] theorem State.result_reqs (s : State) (r : Reg) (v m : Vec) (n : Nat) (fl : Flags) : (s.result r v m n fl).reqs = s.reqs := rfl
@[simp] theorem State.result_nextId (s : State) (r : Reg) (v m : Vec) (n : Nat) (fl : Flags) : (s.result r v m n fl).nextId = s.nextId := rfl
@[simp] theorem State.result_races (s : State) (r : Reg) (v m : Vec) (n : Nat) (fl : Flags) : (s.result r v m n fl).races = s.races := rfl
@[simp] theorem State.result_arrivals (s : State) (r : Reg) (v m : Vec) (n : Nat) (fl : Flags) : (s.result r v m n fl).arrivals = s.arrivals := rfl
@[simp] theorem State.result_streams (s : State) (r : Reg) (v m : Vec) (n : Nat) (fl : Flags) : (s.result r v m n fl).streams = s.streams := rfl
@[simp] theorem State.result_packets (s : State) (r : Reg) (v m : Vec) (n : Nat) (fl : Flags) : (s.result r v m n fl).packets = s.packets := rfl
@[simp] theorem State.result_outbox (s : State) (r : Reg) (v m : Vec) (n : Nat) (fl : Flags) : (s.result r v m n fl).outbox = s.outbox := rfl
@[simp] theorem State.result_torusIn (s : State) (r : Reg) (v m : Vec) (n : Nat) (fl : Flags) : (s.result r v m n fl).torusIn = s.torusIn := rfl
@[simp] theorem State.result_mgmt (s : State) (r : Reg) (v m : Vec) (n : Nat) (fl : Flags) : (s.result r v m n fl).mgmt = s.mgmt := rfl
@[simp] theorem State.result_dies (s : State) (r : Reg) (v m : Vec) (n : Nat) (fl : Flags) : (s.result r v m n fl).dies = s.dies := rfl
@[simp] theorem State.result_fns (s : State) (r : Reg) (v m : Vec) (n : Nat) (fl : Flags) : (s.result r v m n fl).fns = s.fns := rfl
@[simp] theorem State.result_island (s : State) (r : Reg) (v m : Vec) (n : Nat) (fl : Flags) : (s.result r v m n fl).island = s.island := rfl

@[simp] theorem State.storeAt_time (s : State) (k : Nat) (l : List Byte) : (s.storeAt k l).time = s.time := rfl
@[simp] theorem State.storeAt_coord (s : State) (k : Nat) (l : List Byte) : (s.storeAt k l).coord = s.coord := rfl
@[simp] theorem State.storeAt_free (s : State) (k : Nat) (l : List Byte) : (s.storeAt k l).free = s.free := rfl
@[simp] theorem State.storeAt_inputs (s : State) (k : Nat) (l : List Byte) : (s.storeAt k l).inputs = s.inputs := rfl
@[simp] theorem State.storeAt_cur (s : State) (k : Nat) (l : List Byte) : (s.storeAt k l).cur = s.cur := rfl
@[simp] theorem State.storeAt_issue (s : State) (k : Nat) (l : List Byte) : (s.storeAt k l).issue = s.issue := rfl
@[simp] theorem State.storeAt_reqs (s : State) (k : Nat) (l : List Byte) : (s.storeAt k l).reqs = s.reqs := rfl
@[simp] theorem State.storeAt_nextId (s : State) (k : Nat) (l : List Byte) : (s.storeAt k l).nextId = s.nextId := rfl
@[simp] theorem State.storeAt_races (s : State) (k : Nat) (l : List Byte) : (s.storeAt k l).races = s.races := rfl
@[simp] theorem State.storeAt_arrivals (s : State) (k : Nat) (l : List Byte) : (s.storeAt k l).arrivals = s.arrivals := rfl
@[simp] theorem State.storeAt_streams (s : State) (k : Nat) (l : List Byte) : (s.storeAt k l).streams = s.streams := rfl
@[simp] theorem State.storeAt_packets (s : State) (k : Nat) (l : List Byte) : (s.storeAt k l).packets = s.packets := rfl
@[simp] theorem State.storeAt_outbox (s : State) (k : Nat) (l : List Byte) : (s.storeAt k l).outbox = s.outbox := rfl
@[simp] theorem State.storeAt_torusIn (s : State) (k : Nat) (l : List Byte) : (s.storeAt k l).torusIn = s.torusIn := rfl
@[simp] theorem State.storeAt_mgmt (s : State) (k : Nat) (l : List Byte) : (s.storeAt k l).mgmt = s.mgmt := rfl
@[simp] theorem State.storeAt_cores (s : State) (k : Nat) (l : List Byte) : (s.storeAt k l).cores = s.cores := rfl
@[simp] theorem State.storeAt_dies (s : State) (k : Nat) (l : List Byte) : (s.storeAt k l).dies = s.dies := rfl
@[simp] theorem State.storeAt_fns (s : State) (k : Nat) (l : List Byte) : (s.storeAt k l).fns = s.fns := rfl
@[simp] theorem State.storeAt_island (s : State) (k : Nat) (l : List Byte) : (s.storeAt k l).island = s.island := rfl

@[simp] theorem State.recordRace_time (s : State) (p : Probe) : (s.recordRace p).time = s.time := rfl
@[simp] theorem State.recordRace_coord (s : State) (p : Probe) : (s.recordRace p).coord = s.coord := rfl
@[simp] theorem State.recordRace_mem (s : State) (p : Probe) : (s.recordRace p).mem = s.mem := rfl
@[simp] theorem State.recordRace_poison (s : State) (p : Probe) : (s.recordRace p).poison = s.poison := rfl
@[simp] theorem State.recordRace_free (s : State) (p : Probe) : (s.recordRace p).free = s.free := rfl
@[simp] theorem State.recordRace_inputs (s : State) (p : Probe) : (s.recordRace p).inputs = s.inputs := rfl
@[simp] theorem State.recordRace_cur (s : State) (p : Probe) : (s.recordRace p).cur = s.cur := rfl
@[simp] theorem State.recordRace_issue (s : State) (p : Probe) : (s.recordRace p).issue = s.issue := rfl
@[simp] theorem State.recordRace_reqs (s : State) (p : Probe) : (s.recordRace p).reqs = s.reqs := rfl
@[simp] theorem State.recordRace_nextId (s : State) (p : Probe) : (s.recordRace p).nextId = s.nextId := rfl
@[simp] theorem State.recordRace_arrivals (s : State) (p : Probe) : (s.recordRace p).arrivals = s.arrivals := rfl
@[simp] theorem State.recordRace_streams (s : State) (p : Probe) : (s.recordRace p).streams = s.streams := rfl
@[simp] theorem State.recordRace_packets (s : State) (p : Probe) : (s.recordRace p).packets = s.packets := rfl
@[simp] theorem State.recordRace_outbox (s : State) (p : Probe) : (s.recordRace p).outbox = s.outbox := rfl
@[simp] theorem State.recordRace_torusIn (s : State) (p : Probe) : (s.recordRace p).torusIn = s.torusIn := rfl
@[simp] theorem State.recordRace_mgmt (s : State) (p : Probe) : (s.recordRace p).mgmt = s.mgmt := rfl
@[simp] theorem State.recordRace_cores (s : State) (p : Probe) : (s.recordRace p).cores = s.cores := rfl
@[simp] theorem State.recordRace_dies (s : State) (p : Probe) : (s.recordRace p).dies = s.dies := rfl
@[simp] theorem State.recordRace_fns (s : State) (p : Probe) : (s.recordRace p).fns = s.fns := rfl
@[simp] theorem State.recordRace_island (s : State) (p : Probe) : (s.recordRace p).island = s.island := rfl
/-! ### Cores, contexts and dies by their references -/

theorem coreKey_inj {c d : CoreRef} : coreKey c = coreKey d ↔ c = d := by
  constructor
  · intro h
    obtain ⟨a, b⟩ := c
    obtain ⟨x, y⟩ := d
    have h1 := b.isLt
    have h2 := y.isLt
    simp only [coreKey] at h
    have e1 : a.toNat = x.toNat := by omega
    have e2 : b.toNat = y.toNat := by omega
    rw [BitVec.eq_of_toNat_eq e1, BitVec.eq_of_toNat_eq e2]
  · rintro rfl; rfl

theorem lookupCore_storeCore_same (l : List (Nat × Core)) (k : Nat) (x : Core) :
    lookupCore (storeCore l k x) k = x := by
  induction l with
  | nil => simp [storeCore, lookupCore]
  | cons y r ih =>
    obtain ⟨i, z⟩ := y
    by_cases h1 : k < i
    · simp [storeCore, h1, lookupCore]
    · by_cases h2 : i = k
      · simp [storeCore, h2, lookupCore]
      · simp [storeCore, h1, h2, lookupCore, ih]

theorem lookupCore_storeCore_ne (l : List (Nat × Core)) {j k : Nat} (x : Core) (h : j ≠ k) :
    lookupCore (storeCore l k x) j = lookupCore l j := by
  induction l with
  | nil => simp [storeCore, lookupCore, Ne.symm h]
  | cons y r ih =>
    obtain ⟨i, z⟩ := y
    by_cases h1 : k < i
    · simp [storeCore, h1, lookupCore, Ne.symm h]
    · by_cases h2 : i = k
      · simp [storeCore, h2, lookupCore, Ne.symm h]
      · simp [storeCore, h1, h2, lookupCore, ih]

@[simp] theorem State.core_setCore (s : State) (c : CoreRef) (x : Core) : (s.setCore c x).core c = x :=
  lookupCore_storeCore_same _ _ _

theorem State.core_setCore_ne (s : State) {c d : CoreRef} (x : Core) (h : d ≠ c) : (s.setCore c x).core d = s.core d :=
  lookupCore_storeCore_ne _ _ fun e => h (coreKey_inj.mp e)

@[simp] theorem State.core_modCore (s : State) (c : CoreRef) (f : Core → Core) : (s.modCore c f).core c = f (s.core c) :=
  s.core_setCore c _

theorem State.core_modCore_ne (s : State) {c d : CoreRef} (f : Core → Core) (h : d ≠ c) :
    (s.modCore c f).core d = s.core d := s.core_setCore_ne _ h

@[simp] theorem Core.getCtx_setCtx (k : Core) (x : BitVec 2) (v : Ctx) : (k.setCtx x v).getCtx x = v := by
  simp [Core.getCtx, Core.setCtx]

theorem Core.getCtx_setCtx_ne (k : Core) {x y : BitVec 2} (v : Ctx) (h : y ≠ x) : (k.setCtx x v).getCtx y = k.getCtx y := by
  have hn : x.toNat ≠ y.toNat := fun e => h (BitVec.eq_of_toNat_eq e).symm
  simp [Core.getCtx, Core.setCtx, hn]

@[simp] theorem Core.setCtx_f (k : Core) (x : BitVec 2) (v : Ctx) : (k.setCtx x v).f = k.f := rfl
@[simp] theorem Core.setCtx_fwaits (k : Core) (x : BitVec 2) (v : Ctx) : (k.setCtx x v).fwaits = k.fwaits := rfl
@[simp] theorem Core.setCtx_mp (k : Core) (x : BitVec 2) (v : Ctx) : (k.setCtx x v).mp = k.mp := rfl
@[simp] theorem Core.setCtx_work (k : Core) (x : BitVec 2) (v : Ctx) : (k.setCtx x v).work = k.work := rfl
@[simp] theorem Core.setCtx_workPoison (k : Core) (x : BitVec 2) (v : Ctx) : (k.setCtx x v).workPoison = k.workPoison := rfl
@[simp] theorem Core.setCtx_tile (k : Core) (x : BitVec 2) (v : Ctx) : (k.setCtx x v).tile = k.tile := rfl
@[simp] theorem Core.setCtx_fs (k : Core) (x : BitVec 2) (v : Ctx) : (k.setCtx x v).fs = k.fs := rfl
@[simp] theorem Core.setCtx_fa (k : Core) (x : BitVec 2) (v : Ctx) : (k.setCtx x v).fa = k.fa := rfl
@[simp] theorem Core.setCtx_fb (k : Core) (x : BitVec 2) (v : Ctx) : (k.setCtx x v).fb = k.fb := rfl
@[simp] theorem Core.setCtx_fc (k : Core) (x : BitVec 2) (v : Ctx) : (k.setCtx x v).fc = k.fc := rfl
@[simp] theorem Core.setCtx_arrayQ (k : Core) (x : BitVec 2) (v : Ctx) : (k.setCtx x v).arrayQ = k.arrayQ := rfl
@[simp] theorem Core.setCtx_owner (k : Core) (x : BitVec 2) (v : Ctx) : (k.setCtx x v).owner = k.owner := rfl
@[simp] theorem Core.setCtx_chain (k : Core) (x : BitVec 2) (v : Ctx) : (k.setCtx x v).chain = k.chain := rfl
@[simp] theorem Core.setCtx_stepDone (k : Core) (x : BitVec 2) (v : Ctx) : (k.setCtx x v).stepDone = k.stepDone := rfl
@[simp] theorem Core.setCtx_cmds (k : Core) (x : BitVec 2) (v : Ctx) : (k.setCtx x v).cmds = k.cmds := rfl
@[simp] theorem Core.setCtx_sel (k : Core) (x : BitVec 2) (v : Ctx) : (k.setCtx x v).sel = k.sel := rfl
@[simp] theorem Core.setCtx_quantum (k : Core) (x : BitVec 2) (v : Ctx) : (k.setCtx x v).quantum = k.quantum := rfl
@[simp] theorem Core.setCtx_freeze (k : Core) (x : BitVec 2) (v : Ctx) : (k.setCtx x v).freeze = k.freeze := rfl

@[simp] theorem State.ctx_modCtx (s : State) (c : CoreRef) (x : BitVec 2) (f : Ctx → Ctx) :
    (s.modCtx c x f).ctx c x = f (s.ctx c x) := by
  simp [State.modCtx, State.setCtx, State.ctx]

theorem State.ctx_modCtx_ne (s : State) {c d : CoreRef} {x y : BitVec 2} (f : Ctx → Ctx) (h : d ≠ c ∨ y ≠ x) :
    (s.modCtx c x f).ctx d y = s.ctx d y := by
  by_cases hd : d = c
  · subst hd
    have hy : y ≠ x := by simpa using h
    simp [State.modCtx, State.setCtx, State.ctx, Core.getCtx_setCtx_ne _ _ hy]
  · simp [State.modCtx, State.setCtx, State.ctx, State.core_modCore_ne _ _ hd]

@[simp] theorem State.cx_modCx (s : State) (f : Ctx → Ctx) : (s.modCx f).cx = f s.cx := by
  simp [State.modCx, State.cx]

@[simp] theorem State.cc_modCc (s : State) (f : Core → Core) : (s.modCc f).cc = f s.cc := by
  simp [State.modCc, State.cc]

theorem State.ctx_modCx_ne (s : State) {d : CoreRef} {y : BitVec 2} (f : Ctx → Ctx)
    (h : d ≠ s.cur.core ∨ y ≠ s.cur.ctx) : (s.modCx f).ctx d y = s.ctx d y := s.ctx_modCtx_ne f h

@[simp] theorem State.die_setDie (s : State) (d : BitVec 2) (x : Die) : (s.setDie d x).die d = x := by
  simp [State.die, State.setDie]

theorem State.die_setDie_ne (s : State) {d e : BitVec 2} (x : Die) (h : e ≠ d) : (s.setDie d x).die e = s.die e := by
  have hn : d.toNat ≠ e.toNat := fun q => h (BitVec.eq_of_toNat_eq q).symm
  simp [State.die, State.setDie, hn]

@[simp] theorem State.die_modDie (s : State) (d : BitVec 2) (f : Die → Die) : (s.modDie d f).die d = f (s.die d) :=
  s.die_setDie d _

theorem State.die_modDie_ne (s : State) {d e : BitVec 2} (f : Die → Die) (h : e ≠ d) : (s.modDie d f).die e = s.die e :=
  s.die_setDie_ne _ h

end Sys2Proof.Machine
end

