-- ==== Sys2Proof/Laws/Ops.lean ====
section
/-! SUPPORT. What each shared operation can do, said once: operations of a slot, results, requests, traps and kills,
stores, the firmware's queue and mailbox operations, and the rest of a step. -/
namespace Sys2Proof.Machine

/-- A property that every step of a fold keeps holds at its end. -/
theorem foldl_keeps {α β : Type} {p : β → Prop} {f : β → α → β} (h : ∀ b a, p b → p (f b a)) :
    ∀ (l : List α) (b : β), p b → p (l.foldl f b)
  | [], _, hb => hb
  | a :: r, b, hb => foldl_keeps h r (f b a) (h b a hb)

/-! ### Operations of a slot -/

theorem slotOp_off {h : Head} {k : State → State} {s : State} (hr : opRuns s h = false) : slotOp h k s = .next s := by
  simp [slotOp, hr]
theorem slotOp_runs {h : Head} {k : State → State} {s : State} (hr : opRuns s h = true) : slotOp h k s = .next (k s) := by
  simp [slotOp, hr]
theorem slotOpC_off {h : Head} {i : Instr} {k : State → State} {s : State} (hr : opRuns s h = false) :
    slotOpC h i k s = .next s := by
  simp [slotOpC, hr]
theorem slotOpC_runs {h : Head} {i : Instr} {k : State → State} {s : State} (hr : opRuns s h = true) (hc : opCause i s = none) :
    slotOpC h i k s = .next (k s) := by
  simp [slotOpC, hr, hc]
theorem slotOpC_traps {h : Head} {i : Instr} {k : State → State} {s : State} {c : Cause} (hr : opRuns s h = true)
    (hc : opCause i s = some c) : slotOpC h i k s = .next (s.takeTrap c s.cur.pc) := by
  simp [slotOpC, hr, hc]

/-! ### The current context -/

/-- A change of the current context changes nothing but the list of cores. -/
theorem State.modCx_rest (s : State) (f : Ctx → Ctx) : ({ s.modCx f with cores := s.cores } : State) = s := rfl
theorem State.result_rest (s : State) (r : Reg) (v m : Vec) (n : Nat) (fl : Flags) :
    ({ s.result r v m n fl with cores := s.cores } : State) = s := rfl
@[simp] theorem State.cx_result (s : State) (r : Reg) (v m : Vec) (n : Nat) (fl : Flags) :
    (s.result r v m n fl).cx = s.cx.addResult s.cur.acc r v m n fl s.nextId := State.cx_modCx _ _
theorem State.ctx_result_ne (s : State) (r : Reg) (v m : Vec) (n : Nat) (fl : Flags) {d : CoreRef} {y : BitVec 2}
    (h : d ≠ s.cur.core ∨ y ≠ s.cur.ctx) : (s.result r v m n fl).ctx d y = s.ctx d y := State.ctx_modCtx_ne _ _ h

/-- A register that discards writes and reads as a constant reads so in every state (02 R45). -/
theorem State.readReg_fixed (s : State) {r : Reg} (h : r.fixed = true) (n : Nat) : s.readReg r n = s.cx.getReg r := by
  simp [State.readReg, h]

/-- A request of the current context is the last of all, and its destinations are pending (04 R101). -/
theorem State.request_reqs (s : State) (slot : BitVec 3) (i : Instr) (path : BitVec 3) (va : Word) (space : BitVec 2)
    (data idx : Vec) (mask aux : Word) (store : Bool) (dests : List Reg) :
    ∃ r, (s.request slot i path va space data idx mask aux store dests).reqs = s.reqs ++ [r] ∧ r.id = s.nextId ∧ r.instr = i ∧
      r.phase = .issued ∧ r.dests = dests ∧ r.va = va ∧ r.core = s.cur.core ∧ r.ctx = s.cur.ctx :=
  ⟨_, rfl, rfl, rfl, rfl, rfl, rfl, rfl, rfl⟩

/-! ### Memory under the operations that store nothing, and under those that store -/

theorem State.KeepsData.refl (s : State) : s.KeepsData s := fun h => ⟨h, fun _ _ => rfl⟩
theorem State.KeepsData.trans {s t u : State} (h : s.KeepsData t) (k : t.KeepsData u) : s.KeepsData u := fun o =>
  ⟨(k (h o).1).1, fun a ha => ((k (h o).1).2 a ha).trans ((h o).2 a ha)⟩
theorem State.KeepsData.of_mem {s t : State} (h : t.mem = s.mem) : s.KeepsData t := fun o =>
  ⟨(congrArg Memory.wf h).trans o, fun a _ => congrArg (readByte · a) h⟩
theorem foldl_keepsData {α : Type} {f : State → α → State} (h : ∀ (s : State) (a : α), s.KeepsData (f s a)) (l : List α) (s : State) :
    s.KeepsData (l.foldl f s) :=
  foldl_keeps (p := fun t => s.KeepsData t) (fun b a hb => hb.trans (h b a)) l s (.refl s)

/-- 18 R407: a bucket that changes is written where the firmware keeps it. -/
theorem State.putBucket_mem (s : State) (d : BitVec 2) (b : Bucket) :
    (s.putBucket d b).mem = writeBytes s.mem (hbmKey d (bucketAt b.idx)) (b.bytes.take 1024) := by
  unfold State.putBucket
  generalize b.bytes.take 1024 = l
  rw [State.modDie_mem]
theorem not_bucketByte {a : Nat} {d : BitVec 2} (h : bucketByte a = false) : ¬ (hbmKey d bucketBase ≤ a ∧ a < hbmKey d bucketBase + bucketRegion) := by
  have hd : d ∈ ([0, 1, 2, 3] : List (BitVec 2)) := by revert d; decide
  rw [bucketByte, List.any_eq_false] at h
  simpa using h d hd
theorem bucket_in_region {a n : Nat} {d : BitVec 2} {b : BitVec 12} (h : ¬ (hbmKey d bucketBase ≤ a ∧ a < hbmKey d bucketBase + bucketRegion)) (hl : n ≤ 1024) :
    ¬ (hbmKey d (bucketAt b) ≤ a ∧ a < hbmKey d (bucketAt b) + n) := by
  have := b.isLt
  simp only [hbmKey, bucketAt, bucketRegion] at h ⊢
  omega
theorem State.putBucket_keeps (s : State) (d : BitVec 2) (b : Bucket) : s.KeepsData (s.putBucket d b) := by
  intro h
  have hm := State.putBucket_mem s d b
  have hl : (b.bytes.take 1024).length ≤ 1024 := List.length_take_le _ _
  generalize b.bytes.take 1024 = l at hm hl
  constructor
  · rw [State.memOk, hm]; exact writeBytes_wf _ _ h
  · intro a ha
    rw [hm, readByte_writeBytes h, if_neg (bucket_in_region (not_bucketByte ha) hl)]
theorem State.removeRecs_keeps (s : State) (d : BitVec 2) (f : ParkRec → Bool) : s.KeepsData (s.removeRecs d f) :=
  foldl_keepsData (fun _ _ => State.putBucket_keeps _ _ _) _ s
theorem State.unpark_keeps (s : State) (c : CoreRef) (x : BitVec 2) : s.KeepsData (s.unpark c x) := by
  have h := foldl_keepsData (f := fun (s : State) d => s.removeRecs d fun r => r.core == c && r.ctx == x)
    (fun s d => State.removeRecs_keeps s d _) ([0, 1, 2, 3] : List (BitVec 2)) s
  have e (t : State) (l : Vector Die 4) : ({ t with dies := l } : State).mem = t.mem := rfl
  unfold State.unpark
  exact h.trans (.of_mem (e _ _))
@[simp] theorem State.reportReq_mem (s : State) (r : Req) (code : Nat) (a i : Word) (e : Nat) (w : Word) :
    (s.reportReq r code a i e w).mem = s.mem := rfl
@[simp] theorem State.failReq_mem (s : State) (r : Req) (code : Nat) (a i : Word) (e : Nat) (w : Word) :
    (s.failReq r code a i e w).mem = s.mem := rfl

theorem foldl_mem {α : Type} {f : State → α → State} (h : ∀ s a, (f s a).mem = s.mem) (l : List α) (s : State) :
    (l.foldl f s).mem = s.mem :=
  foldl_keeps (p := fun t => t.mem = s.mem) (fun b a hb => (h b a).trans hb) l s rfl

@[simp] theorem State.unpin_mem (s : State) (d : BitVec 2) (n : Nat) : (s.unpin d n).mem = s.mem := rfl
@[simp] theorem State.dropPins_mem (s : State) (l : List FifoEntry) : (s.dropPins l).mem = s.mem := by
  unfold State.dropPins
  exact foldl_mem (fun _ _ => State.unpin_mem _ _ _) _ s
@[simp] theorem State.freeLinks_mem (s : State) (c : CoreRef) (f : LinkEntry → Bool) : (s.freeLinks c f).mem = s.mem := by
  unfold State.freeLinks
  exact foldl_mem (fun _ _ => State.modDie_mem _ _ _) _ s
@[simp] theorem State.discardChain_mem (s : State) (c : CoreRef) : (s.discardChain c).mem = s.mem := rfl
@[simp] theorem State.killChain_mem (s : State) (c : CoreRef) : (s.killChain c).mem = s.mem := by
  simp only [State.killChain, State.modCore_mem, State.discardChain_mem]
  split <;> simp only [State.modCore_mem, State.freeLinks_mem, State.dropPins_mem]
theorem State.strike_keeps (s : State) (c : CoreRef) (x : BitVec 2) : s.KeepsData (s.strike c x) := by
  refine (State.unpark_keeps s c x).trans (.of_mem ?_)
  simp only [State.strike, State.modCore_mem]
  split <;> simp only [State.killChain_mem, State.dropPins_mem]

/-- 11 R294: a kill stores nothing: only the records of its parked contexts go. -/
theorem State.killStream_keeps (s : State) (k n : Nat) (w : CoreRef × BitVec 2) : s.KeepsData (s.killStream k n w) := by
  simp only [State.killStream]
  split
  · exact .refl s
  split
  · split <;> exact .of_mem rfl
  · split <;> refine .trans (.trans (.of_mem ?_) (foldl_keepsData ?_ _ _)) (.of_mem (State.count_mem _ _ _ _)) <;>
      first
      | exact (foldl_mem (fun _ _ => State.modDie_mem _ _ _) _ _).trans (State.modStream_mem _ _ _)
      | exact fun _ _ => State.strike_keeps _ _ _

/-- 11 R281: taking a trap outside handler mode stores nothing; in it, it kills. -/
theorem State.takeTrap_mem {s : State} (hm : s.cx.hmode = false) (k : Cause) (pc : Word) : (s.takeTrap k pc).mem = s.mem := by
  simp only [State.takeTrap]
  split
  · exact absurd ‹_› (Bool.eq_false_iff.mp hm)
  split <;> simp only [State.count_mem, State.modCx_mem, State.modCc_mem, State.modIss_mem]
theorem State.takeTrap_keeps (s : State) (k : Cause) (pc : Word) : s.KeepsData (s.takeTrap k pc) := by
  simp only [State.takeTrap]
  split
  · exact .trans (.of_mem (State.modIss_mem _ _)) (State.killStream_keeps _ _ _ _)
  · refine .of_mem ?_
    split <;> simp only [State.count_mem, State.modCx_mem, State.modCc_mem, State.modIss_mem]

theorem State.storeAt_memOk {s : State} (h : s.memOk = true) (k : Nat) (l : List Byte) : (s.storeAt k l).memOk = true :=
  writeBytes_wf k l h
theorem State.spanWrite_memOk : ∀ (l : List (Place × Nat)) (b : List Byte) {s : State}, s.memOk = true → (s.spanWrite l b).memOk = true
  | [], _, _, h => h
  | p :: r, b, _, h => by
    rw [State.spanWrite]
    exact State.spanWrite_memOk r (b.drop p.2) (State.storeAt_memOk h p.1.key (b.take p.2))
theorem State.putPte_memOk {s : State} (h : s.memOk = true) (d : BitVec 2) (a : BitVec 12) (o : Nat) (l : Leaf) (e : Pte) :
    (s.putPte d a o l e).memOk = true := by
  simp only [State.memOk, State.putPte, State.modDie_mem]
  exact writeNat_wf _ 16 _ h

/-! ### Device space, order and the host's windows -/

/-- 18 R393: what an engine may touch at once lies where its range says, needs a turn only for device memory (01 R36), and no stack
there quiesces (18 R409). -/
theorem State.near_ok {s : State} {d : BitVec 2} {n : BitVec 8} {a : BitVec 12} {va : Word} {k : Nat} {rd wr tg : Bool}
    {l : List (Place × Nat)} (h : s.near d n a va k rd wr tg = .ok l) :
    s.rangeAt d a va k rd wr tg = .ok l ∧ ((l.any fun p => p.1.isDev) = false ∨ s.inTurn d n = true) ∧ s.still l = true := by
  simp only [State.near] at h
  split at h
  · split at h
    · cases h; refine ⟨‹_›, ?_⟩; simp_all
    · cases h
  · cases h
  · split at h <;> cases h
  · cases h

/-- 18 R401: the requests in the order of their arrival are the same requests. -/
theorem mem_byArrival (r : Req) (l : List Req) : r ∈ byArrival l ↔ r ∈ l := by
  have step : ∀ (l a : List Req), r ∈ l.foldl (fun a r => (a.takeWhile fun x => decide (x.heldTurn ≤ r.heldTurn)) ++ r ::
      a.dropWhile fun x => decide (x.heldTurn ≤ r.heldTurn)) a ↔ r ∈ a ∨ r ∈ l := by
    intro l
    induction l with
    | nil => simp
    | cons x l ih =>
      intro a
      have h : r ∈ a ↔ r ∈ (a.takeWhile fun y => decide (y.heldTurn ≤ x.heldTurn)) ∨
          r ∈ a.dropWhile fun y => decide (y.heldTurn ≤ x.heldTurn) := by
        rw [← List.mem_append, List.takeWhile_append_dropWhile]
      rw [List.foldl_cons, ih, h]
      simp only [List.mem_append, List.mem_cons]
      tauto
  simpa [byArrival] using step l []

/-- 19 R415: clearing the tag pools keeps memory canonical and changes nothing but memory and its poison. -/
theorem State.clearPools_memOk {s : State} (h : s.memOk = true) : s.clearPools.memOk = true := by
  simp only [State.clearPools]
  refine foldl_keeps (p := fun t : State => t.memOk = true) ?_ _ _ h
  exact fun t d ht => clearBytes_wf _ _ (clearBytes_wf (hbmKey d (t.die d).tagBase) (2048 * (t.die d).tagBlocks) ht)
theorem State.clearPools_rest (s : State) : ({ s.clearPools with mem := s.mem, poison := s.poison } : State) = s := by
  unfold State.clearPools
  refine foldl_keeps (p := fun t : State => ({ t with mem := s.mem, poison := s.poison } : State) = s) ?_ _ _ rfl
  exact fun t d h => h

/-- 17 R363: a window resized changes nothing but its function's size. -/
theorem State.resizeBar2_rest (s : State) (fn : BitVec 5) (n : BitVec 6) :
    ({ s.resizeBar2 fn n with fns := s.fns } : State) = s := rfl

/-- 02 R436: the units of a write to flags or matrix parameters store nothing to memory. -/
theorem State.chipUnit_mem (s : State) (c : CoreRef) (b : Bool) (u : Nat × Word) : (s.chipUnit c b u).1.mem = s.mem := by
  simp only [State.chipUnit]
  repeat (first | split | rfl)
theorem State.chipUnits_mem (c : CoreRef) (b : Bool) : ∀ (l : List (Nat × Word)) (p : State × Bool),
    (l.foldl (fun (p : State × Bool) u => ((p.1.chipUnit c b u).1, p.2 && (p.1.chipUnit c b u).2)) p).1.mem = p.1.mem
  | [], _ => rfl
  | u :: l, p => (State.chipUnits_mem c b l _).trans (State.chipUnit_mem p.1 c b u)

/-- 02 R58: a store through the on-chip map keeps memory canonical. -/
theorem State.chipWrite_memOk {s : State} (h : s.memOk = true) (d : BitVec 2) (al : Bool) (p : ChipPlace) (b : List Byte) :
    (s.chipWrite d al p b).1.memOk = true := by
  cases p with
  | spad c o => exact State.storeAt_memOk h _ _
  | flags c o =>
    simp only [State.chipWrite]
    split
    · exact h
    · exact (congrArg Memory.wf (State.chipUnits_mem c false _ (s, true))).trans h
  | mps c o =>
    simp only [State.chipWrite]
    split
    · exact h
    · exact (congrArg Memory.wf (State.chipUnits_mem c true _ (s, true))).trans h
  | counter o =>
    simp only [State.chipWrite]
    split
    · exact h
    · refine foldl_keeps (p := fun t : State => t.memOk = true) ?_ _ _ h
      exact fun _ _ ht => ht
  | link _ _ => exact h
  | window c x o => simp only [State.chipWrite]; split <;> exact h
  | bank c com o => simp only [State.chipWrite]; split <;> exact h
  | chain c o => simp only [State.chipWrite]; split <;> exact h
theorem State.chipWriteFrom_memOk (d : BitVec 2) (al : Bool) : ∀ (l : List (ChipPlace × Nat)) (b : List Byte) {s : State},
    s.memOk = true → (s.chipWriteFrom d al l b).1.memOk = true
  | [], _, _, h => h
  | p :: r, b, _, h => State.chipWriteFrom_memOk d al r (b.drop p.2) (State.chipWrite_memOk h d al p.1 (b.take p.2))
theorem State.chipWriteAll_memOk {s : State} (h : s.memOk = true) (d : BitVec 2) (l : List (ChipPlace × Nat)) (b : List Byte) :
    (s.chipWriteAll d l b).1.memOk = true := State.chipWriteFrom_memOk d _ l b h

/-! ### The firmware -/

/-- 17 R363: FUNCERR gains a bit, and nothing else changes. -/
theorem State.funcErr_rest (s : State) (fn : BitVec 5) (b : Nat) : ({ s.funcErr fn b with fns := s.fns } : State) = s := rfl
theorem State.fn_modFn (s : State) {fn : BitVec 5} (h : fn.toNat < 17) (f : Fn → Fn) : (s.modFn fn f).fn fn = f (s.fn fn) := by
  simp [State.fn, State.modFn, Vector.getD, h]
theorem State.fn_modFn_ne (s : State) {fn g : BitVec 5} (h : g ≠ fn) (f : Fn → Fn) : (s.modFn fn f).fn g = s.fn g := by
  have hn : fn.toNat ≠ g.toNat := fun e => h (BitVec.eq_of_toNat_eq e.symm)
  simp [State.fn, State.modFn, Vector.getD, hn]
theorem State.answer_rest (s : State) (fn : BitVec 5) (n : Nat) (l : List Word) : ({ s.answer fn n l with fns := s.fns } : State) = s := rfl

@[simp] theorem State.qrec_modQ (s : State) (d : BitVec 2) (q : BitVec 8) (f : QueueRec → QueueRec) :
    (s.modQ d q f).qrec d q = f (s.qrec d q) := by
  simp [State.modQ, State.qrec]
theorem State.qrec_modQ_ne (s : State) {d e : BitVec 2} {q p : BitVec 8} (f : QueueRec → QueueRec) (h : e ≠ d ∨ p ≠ q) :
    (s.modQ d q f).qrec e p = s.qrec e p := by
  by_cases he : e = d
  · subst he
    have hp : p ≠ q := h.resolve_left (fun x => x rfl)
    have hn : q.toNat ≠ p.toNat := fun x => hp (BitVec.eq_of_toNat_eq x.symm)
    simp [State.modQ, State.qrec, hn]
  · simp [State.modQ, State.qrec, State.die_modDie_ne _ _ he]

/-- A slot that is due begins and does its work; one that is not does nothing (17 R377). -/
theorem State.inSlot_due {s : State} {d : BitVec 2} {n : Nat} (h : s.slotDue d n = true) (work : State → State) :
    s.inSlot d n work = work (s.modDie d fun x => { x with slots := x.slots + 1, frankLeft := 0 }) := by
  simp [State.inSlot, h]
theorem State.inSlot_notDue {s : State} {d : BitVec 2} {n : Nat} (h : s.slotDue d n = false) (work : State → State) :
    s.inSlot d n work = s := by
  simp [State.inSlot, h]

/-- 17 R371, R375: what starting the head of a queue comes to. -/
theorem State.startOr_starts {s : State} {d : BitVec 2} {q : BitVec 8} {b : Bundle} {n : Nat} {k : State → State}
    (h : s.mayStart d q b n = true) (ho : commandOk (s.die d) q (s.qrec d q).owner b = true) : s.startOr d q b n k = k s := by
  simp [State.startOr, h, ho]
theorem State.startOr_format {s : State} {d : BitVec 2} {q : BitVec 8} {b : Bundle} {n : Nat} {k : State → State}
    (h : s.mayStart d q b n = true) (ho : commandOk (s.die d) q (s.qrec d q).owner b = false) :
    s.startOr d q b n k = s.takeHead d q b .due 20 := by
  simp [State.startOr, h, ho]

/-- 19 R423: the three outcomes of a command of the physical function. -/
theorem State.physCommand_done (s : State) (k : State → State) : s.physCommand 0 true k = (k s).answer 0 0 [] := rfl
theorem State.physCommand_bad (s : State) (k : State → State) : s.physCommand 0 false k = s.answer 0 2 [] := rfl
theorem State.physCommand_refused {s : State} {fn : BitVec 5} (h : fn ≠ 0) (ok : Bool) (k : State → State) :
    s.physCommand fn ok k = s.answer fn 1 [] := by
  simp only [State.physCommand, bne_iff_ne, ne_eq, if_pos h]

/-! ### The rest of a step -/

/-- What every instruction keeps, the operations of a bundle and its retirement keep. -/
theorem drain_keeps {p : State → Prop} (hx : ∀ i s t, p s → exec i s = .next t → p t)
    (hop : ∀ s i t, p s → s.nextOp = some (i, t) → p t) (hr : ∀ s, p s → p s.retire) :
    ∀ (n : Nat) (s t : State), p s → drain n s = .next t → p t
  | 0, s, t, h, e => by cases e; exact hr s h
  | n + 1, s, t, h, e => by
    unfold drain at e
    split at e
    · cases e; exact hr s h
    · rename_i i u hu
      split at e
      · rename_i w hw
        exact drain_keeps hx hop hr n w t (hx i u w (hop s i u h hu) hw) e
      · cases e
      · cases e

theorem andThen_next {o : Host.Outcome State Fault Refusal} {f : State → State} {t : State} (h : andThen o f = .next t) :
    ∃ u, o = .next u ∧ t = f u := by
  cases o with
  | next u => cases h; exact ⟨u, rfl, rfl⟩
  | fault x => cases h
  | refused r => cases h

theorem nextOp_memOk {s t : State} {i : Instr} (h : s.memOk = true) (e : s.nextOp = some (i, t)) : t.memOk = true := by
  unfold State.nextOp at e
  split at e
  · cases e
  · split at e
    · cases e
    · cases e; exact h

end Sys2Proof.Machine
end

