-- ==== Sys2Proof/Tests/Slice0.lean ====
section
/-! SUPPORT. The model's own tests: decoding of words written out from the encoding tables, ill-formed operations, single
steps, and states that meet the hypotheses of the obligations. -/
namespace Sys2Proof.Tests
open Sys2Proof.Machine Sys2Proof.Claims
set_option Elab.async false

/-! ### Decoding (04 R88 to R98, 05 R112 to R124): for every operation a word written out from the tables of 05 and the formats
of 04 R95, the opcode times 2^51 and each field at its place -/

/-- The word in the slot, and nothing else in the bundle, decodes to the operation. -/
abbrev Reads (l : List (Nat × SlotWord × Instr)) : Prop := ∀ x ∈ l, decodeBundle (oneSlot x.1 x.2.1) = .ops [x.2.2]

theorem test_scalar_words1 :
    Reads [(0, 0x00805A562000000, .add (plainHead 0) ⟨5, 41, 22, 2, 0⟩),
      (0, 0x10805A6ABCDEF01, .addi (plainHead 0) ⟨5, 41, 0x2abcdef01⟩),
      (0, 0x01005A562000000, .sub (plainHead 0) ⟨5, 41, 22, 2, 0⟩),
      (0, 0x11005A6ABCDEF01, .subi (plainHead 0) ⟨5, 41, 0x2abcdef01⟩),
      (0, 0x01805A562000000, .mul (plainHead 0) ⟨5, 41, 22, 2, 0⟩),
      (0, 0x11805A6ABCDEF01, .muli (plainHead 0) ⟨5, 41, 0x2abcdef01⟩),
      (0, 0x02005A563000000, .mulh (plainHead 0) ⟨5, 41, 22, 3, 0⟩),
      (0, 0x12005A6ABCDEF01, .mulhi (plainHead 0) ⟨5, 41, 0x2abcdef01⟩),
      (0, 0x02805A567000000, .mulhn (plainHead 0) ⟨5, 41, 22, 7, 0⟩),
      (0, 0x12805A6ABCDEF01, .mulhni (plainHead 0) ⟨5, 41, 0x2abcdef01⟩),
      (0, 0x03005A562000000, .div (plainHead 0) ⟨5, 41, 22, 2, 0⟩),
      (0, 0x13005A6ABCDEF01, .divi (plainHead 0) ⟨5, 41, 0x2abcdef01⟩),
      (0, 0x03805A567000000, .divn (plainHead 0) ⟨5, 41, 22, 7, 0⟩),
      (0, 0x13805A6ABCDEF01, .divni (plainHead 0) ⟨5, 41, 0x2abcdef01⟩),
      (0, 0x04005A562000000, .rem (plainHead 0) ⟨5, 41, 22, 2, 0⟩),
      (0, 0x14005A6ABCDEF01, .remi (plainHead 0) ⟨5, 41, 0x2abcdef01⟩),
      (0, 0x04805A567000000, .remn (plainHead 0) ⟨5, 41, 22, 7, 0⟩),
      (0, 0x14805A6ABCDEF01, .remni (plainHead 0) ⟨5, 41, 0x2abcdef01⟩),
      (0, 0x05005A562000000, .and (plainHead 0) ⟨5, 41, 22, 2, 0⟩),
      (0, 0x15005A6ABCDEF01, .andi (plainHead 0) ⟨5, 41, 0x2abcdef01⟩),
      (0, 0x05805A562000000, .or (plainHead 0) ⟨5, 41, 22, 2, 0⟩),
      (0, 0x15805A6ABCDEF01, .ori (plainHead 0) ⟨5, 41, 0x2abcdef01⟩)] := by decide +kernel
theorem test_scalar_words2 :
    Reads [(0, 0x06005A562000000, .xor (plainHead 0) ⟨5, 41, 22, 2, 0⟩),
      (0, 0x16005A6ABCDEF01, .xori (plainHead 0) ⟨5, 41, 0x2abcdef01⟩),
      (0, 0x06805A562000000, .andn (plainHead 0) ⟨5, 41, 22, 2, 0⟩),
      (0, 0x16805A6ABCDEF01, .andni (plainHead 0) ⟨5, 41, 0x2abcdef01⟩),
      (0, 0x07005A562000000, .shl (plainHead 0) ⟨5, 41, 22, 2, 0⟩),
      (0, 0x17005A400000021, .shli (plainHead 0) ⟨5, 41, 33⟩),
      (0, 0x07805A562000000, .shr (plainHead 0) ⟨5, 41, 22, 2, 0⟩),
      (0, 0x17805A400000021, .shri (plainHead 0) ⟨5, 41, 33⟩),
      (0, 0x08005A562000000, .sra (plainHead 0) ⟨5, 41, 22, 2, 0⟩),
      (0, 0x18005A400000021, .srai (plainHead 0) ⟨5, 41, 33⟩),
      (0, 0x08805A562000000, .rotl (plainHead 0) ⟨5, 41, 22, 2, 0⟩),
      (0, 0x18805A400000021, .rotli (plainHead 0) ⟨5, 41, 33⟩),
      (0, 0x09005A562000000, .min (plainHead 0) ⟨5, 41, 22, 2, 0⟩),
      (0, 0x19005A6ABCDEF01, .mini (plainHead 0) ⟨5, 41, 0x2abcdef01⟩),
      (0, 0x09805A562000000, .max (plainHead 0) ⟨5, 41, 22, 2, 0⟩),
      (0, 0x19805A6ABCDEF01, .maxi (plainHead 0) ⟨5, 41, 0x2abcdef01⟩),
      (0, 0x0A005A567000000, .minn (plainHead 0) ⟨5, 41, 22, 7, 0⟩),
      (0, 0x1A005A6ABCDEF01, .minni (plainHead 0) ⟨5, 41, 0x2abcdef01⟩),
      (0, 0x0A805A567000000, .maxn (plainHead 0) ⟨5, 41, 22, 7, 0⟩),
      (0, 0x1A805A6ABCDEF01, .maxni (plainHead 0) ⟨5, 41, 0x2abcdef01⟩),
      (0, 0x0B005A402000000, .clz (plainHead 0) ⟨5, 41, 0, 2, 0⟩),
      (0, 0x0B805A402000000, .popc (plainHead 0) ⟨5, 41, 0, 2, 0⟩)] := by decide +kernel
theorem test_scalar_words3 :
    Reads [(0, 0x0C005A562900000, .sel (plainHead 0) ⟨5, 41, 22, 2, 9⟩),
      (0, 0x1C005A6ABCDEF01, .seli (plainHead 0) ⟨5, 41, 0x2abcdef01⟩),
      (0, 0x0C805A567000000, .ext (plainHead 0) ⟨5, 41, 22, 7, 0⟩),
      (0, 0x1C805A400001509, .exti (plainHead 0) ⟨5, 41, 0x1509⟩),
      (0, 0x0D005A560000000, .ins (plainHead 0) ⟨5, 41, 22, 0, 0⟩),
      (0, 0x1D005A400000509, .insi (plainHead 0) ⟨5, 41, 0x509⟩),
      (0, 0x0D805A560500000, .lea (plainHead 0) ⟨5, 41, 22, 0, 5⟩),
      (0, 0x1D805A6ABCDEF01, .leai (plainHead 0) ⟨5, 41, 0x2abcdef01⟩),
      (0, 0x200059ABCDEF012, .movi (plainHead 0) ⟨5, 0x9abcdef012⟩),
      (0, 0x208050000ABCDEF, .movhi (plainHead 0) ⟨5, 0xabcdef⟩),
      (0, 0x21005A400000000, .mov (plainHead 0) ⟨5, 41, 0, 0, 0⟩),
      (0, 0x24005A562481800, .cmp (plainHead 0) ⟨5, 41, 22, 9, 2, 0, 3, 0⟩),
      (0, 0x24805A6642ABCDE, .cmpi (plainHead 0) ⟨5, 41, 0x2642abcde⟩),
      (0, 0x25005A562601800, .fcmp (plainHead 0) ⟨5, 41, 22, 9, 8, 0, 3, 0⟩),
      (0, 0x258052CE0600000, .plog (plainHead 0) ⟨5, 11, 14, 0, 6⟩),
      (0, 0x28005A568000000, .fadd (plainHead 0) ⟨5, 41, 22, 8, 0⟩),
      (0, 0x28805A568000000, .fsub (plainHead 0) ⟨5, 41, 22, 8, 0⟩),
      (0, 0x29005A568000000, .fmul (plainHead 0) ⟨5, 41, 22, 8, 0⟩),
      (0, 0x29805A56EA00000, .fma (plainHead 0) ⟨5, 41, 22, 58, 8, 0, 0, 0⟩),
      (0, 0x2A005A568000000, .fmin (plainHead 0) ⟨5, 41, 22, 8, 0⟩),
      (0, 0x2A805A568000000, .fmax (plainHead 0) ⟨5, 41, 22, 8, 0⟩),
      (0, 0x2B005A568000000, .fdiv (plainHead 0) ⟨5, 41, 22, 8, 0⟩)] := by decide +kernel
theorem test_scalar_words4 :
    Reads [(0, 0x2B805A409800000, .fcvt (plainHead 0) ⟨5, 41, 0, 9, 8⟩),
      (0, 0x4000202ABCDEF01, .pbr (plainHead 0) ⟨2, 0, 0x2abcdef01⟩),
      (0, 0x40802A400000000, .pbri (plainHead 0) ⟨2, 41, 0, 0, 0⟩),
      (0, 0x410000C00000000, .br (plainHead 0) ⟨0, 3, 0, 0, 0⟩),
      (0, 0x418000800000000, .call (plainHead 0) ⟨0, 2, 0, 0, 0⟩),
      (0, 0x420000000000000, .ret (plainHead 0) ⟨0, 0, 0, 0, 0⟩),
      (0, 0x4400000000002D1, .loop (plainHead 0) ⟨0, 0x2d1⟩),
      (0, 0x448000000000000, .loopbrk (plainHead 0) ⟨0, 0, 0, 0, 0⟩),
      (0, 0x45004A6ABCDEF01, .setlc (plainHead 0) ⟨4, 41, 0x2abcdef01⟩),
      (0, 0x45806A400400000, .setg (plainHead 0) ⟨6, 41, 0, 0, 4⟩),
      (0, 0x460051800400000, .getg (plainHead 0) ⟨5, 6, 0, 0, 4⟩),
      (0, 0x600050000000045, .getsr (plainHead 0) ⟨5, 0, 69⟩),
      (0, 0x60800A400000045, .setsr (plainHead 0) ⟨0, 41, 69⟩),
      (0, 0x610000000000DBB, .setfmt (plainHead 0) ⟨0, 0xdbb⟩),
      (0, 0x61803A560000000, .setx (plainHead 0) ⟨3, 41, 22, 0, 0⟩),
      (0, 0x620000000000000, .safept (plainHead 0) ⟨0, 0, 0, 0, 0⟩),
      (0, 0x6280002ABCDEF01, .trap (plainHead 0) ⟨0, 0, 0x2abcdef01⟩),
      (0, 0x630000000000000, .rft (plainHead 0) ⟨0, 0, 0, 0, 0⟩),
      (0, 0x638000000000000, .halt (plainHead 0) ⟨0, 0, 0, 0, 0⟩),
      (0, 0x640000000000000, .yield (plainHead 0) ⟨0, 0, 0, 0, 0⟩),
      (0, 0x648050000000000, .time (plainHead 0) ⟨5, 0, 0, 0, 0⟩)] := by decide +kernel
theorem test_vector_words1 :
    Reads [(1, 0x008051870218400, .vadd (plainHead 1) ⟨5, 6, 7, 0, 8, 3, 0, 2⟩),
      (1, 0x0C0051872718200, .vdot4 (plainHead 1) ⟨5, 6, 7, 9, 12, 3, 0, 1⟩),
      (1, 0x010051870218400, .vsub (plainHead 1) ⟨5, 6, 7, 0, 8, 3, 0, 2⟩),
      (1, 0x100051800218200, .vexp2 (plainHead 1) ⟨5, 6, 0, 0, 8, 3, 0, 1⟩),
      (1, 0x018051870218400, .vmul (plainHead 1) ⟨5, 6, 7, 0, 8, 3, 0, 2⟩),
      (1, 0x108051800218200, .vlog2 (plainHead 1) ⟨5, 6, 0, 0, 8, 3, 0, 1⟩),
      (1, 0x020051878A18400, .vfma (plainHead 1) ⟨5, 6, 7, 34, 8, 3, 0, 2⟩),
      (1, 0x110051800218200, .vrcp (plainHead 1) ⟨5, 6, 0, 0, 8, 3, 0, 1⟩),
      (1, 0x028051870218000, .vmin (plainHead 1) ⟨5, 6, 7, 0, 8, 3, 0, 0⟩),
      (1, 0x118051800218200, .vrsq (plainHead 1) ⟨5, 6, 0, 0, 8, 3, 0, 1⟩),
      (1, 0x030051870218000, .vmax (plainHead 1) ⟨5, 6, 7, 0, 8, 3, 0, 0⟩),
      (1, 0x120051870218400, .vdiv (plainHead 1) ⟨5, 6, 7, 0, 8, 3, 0, 2⟩),
      (1, 0x038051870218000, .vand (plainHead 1) ⟨5, 6, 7, 0, 8, 3, 0, 0⟩),
      (1, 0x128051800218200, .vsqrt (plainHead 1) ⟨5, 6, 0, 0, 8, 3, 0, 1⟩),
      (1, 0x040051870218000, .vor (plainHead 1) ⟨5, 6, 7, 0, 8, 3, 0, 0⟩),
      (1, 0x180051800219000, .vred (plainHead 1) ⟨5, 6, 0, 0, 8, 3, 2, 0⟩),
      (1, 0x048051870218000, .vxor (plainHead 1) ⟨5, 6, 7, 0, 8, 3, 0, 0⟩),
      (1, 0x188051A90218800, .vscan (plainHead 1) ⟨5, 6, 41, 0, 8, 3, 1, 0⟩),
      (1, 0x050051870198000, .vshl (plainHead 1) ⟨5, 6, 7, 0, 6, 3, 0, 0⟩),
      (1, 0x190051800218000, .vamax (plainHead 1) ⟨5, 6, 0, 0, 8, 3, 0, 0⟩),
      (1, 0x058051870198000, .vshr (plainHead 1) ⟨5, 6, 7, 0, 6, 3, 0, 0⟩),
      (1, 0x198051A902D8000, .vquant (plainHead 1) ⟨5, 6, 41, 0, 11, 3, 0, 0⟩)] := by decide +kernel
theorem test_vector_words2 :
    Reads [(1, 0x060051870198000, .vsra (plainHead 1) ⟨5, 6, 7, 0, 6, 3, 0, 0⟩),
      (1, 0x1A00518002C0000, .vcmpr (plainHead 1) ⟨5, 6, 0, 0, 11, 0, 0, 0⟩),
      (1, 0x08005187021A000, .vcmp (plainHead 1) ⟨5, 6, 7, 0, 8, 3, 4, 0⟩),
      (1, 0x1A8041A9AA18000, .vtopk (plainHead 1) ⟨4, 6, 41, 42, 8, 3, 0, 0⟩),
      (1, 0x088051872E18000, .vsel (plainHead 1) ⟨5, 6, 7, 11, 8, 3, 0, 0⟩),
      (1, 0x1B004188A600000, .vmergek (plainHead 1) ⟨4, 6, 8, 41, 8, 0, 0, 0⟩),
      (1, 0x090051800218000, .vmov (plainHead 1) ⟨5, 6, 0, 0, 8, 3, 0, 0⟩),
      (1, 0x1B8051870200800, .vdesc (plainHead 1) ⟨5, 6, 7, 0, 8, 0, 1, 0⟩),
      (1, 0x09805A400218000, .vbcast (plainHead 1) ⟨5, 41, 0, 0, 8, 3, 0, 0⟩),
      (1, 0x1C005A6A01D8000, .vrand (plainHead 1) ⟨5, 41, 42, 0, 7, 3, 0, 0⟩),
      (1, 0x0A005A6A0098000, .viota (plainHead 1) ⟨5, 41, 42, 0, 2, 3, 0, 0⟩),
      (1, 0x200051870004800, .vkop (plainHead 1) ⟨5, 6, 7, 0, 0, 0, 9, 0⟩),
      (1, 0x0A804181025C000, .vcvt (plainHead 1) ⟨4, 6, 1, 0, 9, 3, 8, 0⟩),
      (1, 0x208051800000000, .vkmovAny (plainHead 1) ⟨5, 6, 0, 0, 0, 0, 0, 0⟩),
      (1, 0x208051800000800, .vkmovAll (plainHead 1) ⟨5, 6, 0, 0, 0, 0, 1, 0⟩),
      (1, 0x20805A400001000, .vkmovFroms (plainHead 1) ⟨5, 41, 0, 0, 0, 0, 2, 0⟩),
      (1, 0x208291800001800, .vkmovTos (plainHead 1) ⟨41, 6, 0, 0, 0, 0, 3, 0⟩),
      (1, 0x208051800002000, .vkmovTov (plainHead 1) ⟨5, 6, 0, 0, 0, 0, 4, 0⟩),
      (1, 0x0B0051870218000, .vperm (plainHead 1) ⟨5, 6, 7, 0, 8, 3, 0, 0⟩),
      (1, 0x210291AA0200000, .vgetl (plainHead 1) ⟨41, 6, 42, 0, 8, 0, 0, 0⟩),
      (1, 0x0B805187A618000, .vslide (plainHead 1) ⟨5, 6, 7, 41, 8, 3, 0, 0⟩),
      (1, 0x21806A6A0200000, .vsetl (plainHead 1) ⟨6, 41, 42, 0, 8, 0, 0, 0⟩)] := by decide +kernel
theorem test_matrix_words :
    Reads [(3, 0x008281480000000, .mpset (plainHead 3) ⟨5, 0, 41, 0⟩),
      (3, 0x08002A000000000, .txbind (plainHead 3) ⟨0, 21, 0, 0⟩),
      (3, 0x010280000000001, .mlds (plainHead 3) ⟨5, 0, 0, 1⟩),
      (3, 0x088001480000000, .txstep (plainHead 3) ⟨0, 0, 41, 0⟩),
      (3, 0x0182A8580000001, .mms (plainHead 3) ⟨5, 20, 11, 1⟩),
      (3, 0x090001480000001, .txfin (plainHead 3) ⟨0, 0, 41, 1⟩),
      (3, 0x0202A8500000001, .mmsp (plainHead 3) ⟨5, 20, 10, 1⟩),
      (3, 0x098001480000001, .txsave (plainHead 3) ⟨0, 0, 41, 1⟩),
      (3, 0x02828000000007F, .mmv (plainHead 3) ⟨5, 0, 0, 0x7f⟩),
      (3, 0x0A0001480000001, .txrest (plainHead 3) ⟨0, 0, 41, 1⟩),
      (3, 0x03001348000001A, .accrd (plainHead 3) ⟨0, 9, 41, 26⟩),
      (3, 0x0A8000000000001, .txabort (plainHead 3) ⟨0, 0, 0, 1⟩),
      (3, 0x038000000000000, .accclr (plainHead 3) ⟨0, 0, 0, 0⟩),
      (3, 0x040001480000000, .accscl (plainHead 3) ⟨0, 0, 41, 0⟩)] := by decide +kernel
theorem test_load_words :
    Reads [(4, 0x00805A511BABCDC, .ld (plainHead 4) ⟨5, 41, 0, 2, 2, 3, 1, 0x1abcdc⟩),
      (4, 0x01022A4C01ABCDC, .ldv (plainHead 4) ⟨34, 41, 0, 1, 8, 0, 0, 0x1abcdc⟩),
      (4, 0x01821A4101ABCDC, .ldvs (plainHead 4) ⟨33, 41, 0, 0, 2, 0, 0, 0x1abcdc⟩),
      (4, 0x02006A4305ABCDC, .ldx (plainHead 4) ⟨6, 41, 0, 0, 6, 0, 2, 0x1abcdc⟩),
      (4, 0x028051A101ABCDC, .ldg (plainHead 4) ⟨5, 6, 1, 0, 2, 0, 0, 0x1abcdc⟩),
      (4, 0x030051A101ABCDC, .ldgv (plainHead 4) ⟨5, 6, 1, 0, 2, 0, 0, 0x1abcdc⟩),
      (4, 0x038051A90098000, .gath (plainHead 4) ⟨5, 6, 41, 0, 2, 3, 0, 0⟩),
      (4, 0x04005A5181ABCDC, .ldw (plainHead 4) ⟨5, 41, 0, 2, 3, 0, 0, 0x1abcdc⟩),
      (4, 0x04805A5181ABCDC, .ldc (plainHead 4) ⟨5, 41, 0, 2, 3, 0, 0, 0x1abcdc⟩),
      (4, 0x05006A5181ABCDC, .ldt (plainHead 4) ⟨6, 41, 0, 2, 3, 0, 0, 0x1abcdc⟩),
      (4, 0x058001A90098000, .probe (plainHead 4) ⟨0, 6, 41, 0, 2, 3, 0, 0⟩)] := by decide +kernel
theorem test_store_words :
    Reads [(5, 0x00805A511DABCDC, .st (plainHead 5) ⟨5, 41, 0, 2, 2, 3, 2, 0x1abcdc⟩),
      (5, 0x01022A4C01ABCDC, .stv (plainHead 5) ⟨34, 41, 0, 1, 8, 0, 0, 0x1abcdc⟩),
      (5, 0x01821A4101ABCDC, .stvs (plainHead 5) ⟨33, 41, 0, 0, 2, 0, 0, 0x1abcdc⟩),
      (5, 0x020051A101ABCDC, .stg (plainHead 5) ⟨5, 6, 1, 0, 2, 0, 0, 0x1abcdc⟩),
      (5, 0x028051A101ABCDC, .stgv (plainHead 5) ⟨5, 6, 1, 0, 2, 0, 0, 0x1abcdc⟩),
      (5, 0x030051A90098000, .scat (plainHead 5) ⟨5, 6, 41, 0, 2, 3, 0, 0⟩),
      (5, 0x03805A5181ABCDC, .stf (plainHead 5) ⟨5, 41, 0, 2, 3, 0, 0, 0x1abcdc⟩),
      (5, 0x04005A5181ABCDC, .sts (plainHead 5) ⟨5, 41, 0, 2, 3, 0, 0, 0x1abcdc⟩),
      (5, 0x04800A5001ABCDC, .tage (plainHead 5) ⟨0, 41, 0, 2, 0, 0, 0, 0x1abcdc⟩)] := by decide +kernel
theorem test_engine_words :
    Reads [(6, 0x008050004945A70, .cp (plainHead 6) ⟨5, 0, 0, 9, 1, 4, 90, 0x70⟩),
      (6, 0x08005A564820040, .kvwalk (plainHead 6) ⟨5, 41, 22, 9, 0, 2, 0, 64⟩),
      (6, 0x010050004920040, .cpq (plainHead 6) ⟨5, 0, 0, 9, 1, 2, 0, 64⟩),
      (6, 0x08804A564800040, .kvappend (plainHead 6) ⟨4, 41, 22, 9, 0, 0, 0, 64⟩),
      (6, 0x018050004810040, .wstr (plainHead 6) ⟨5, 0, 0, 9, 0, 1, 0, 64⟩),
      (6, 0x09000A564810040, .kvseal (plainHead 6) ⟨0, 41, 22, 9, 0, 1, 0, 64⟩),
      (6, 0x020050004905A70, .lsend (plainHead 6) ⟨5, 0, 0, 9, 1, 0, 90, 0x70⟩),
      (6, 0x09805A564800040, .kvtrunc (plainHead 6) ⟨5, 41, 22, 9, 0, 0, 0, 64⟩),
      (6, 0x02805A564800041, .pgreq (plainHead 6) ⟨5, 41, 22, 9, 0, 0, 0, 65⟩),
      (6, 0x0A005A564800040, .bmap (plainHead 6) ⟨5, 41, 22, 9, 0, 0, 0, 64⟩),
      (6, 0x03005A404800040, .enq (plainHead 6) ⟨5, 41, 0, 9, 0, 0, 0, 64⟩),
      (6, 0x0C000A560000000, .strmrd (plainHead 6) ⟨0, 41, 22, 0, 0, 0, 0, 0⟩),
      (6, 0x03805A404800040, .frank (plainHead 6) ⟨5, 41, 0, 9, 0, 0, 0, 64⟩),
      (6, 0x0C805A560000B00, .strmcommit (plainHead 6) ⟨5, 41, 22, 0, 0, 0, 11, 0⟩),
      (6, 0x0D000A560000B00, .strmin (plainHead 6) ⟨0, 41, 22, 0, 0, 0, 11, 0⟩)] := by decide +kernel
theorem test_sync_words :
    Reads [(7, 0x00800A404800300, .fwait (plainHead 7) ⟨0, 41, 0, 9, 0, 0, 3, 0⟩),
      (7, 0x01000A404800000, .fpost (plainHead 7) ⟨0, 41, 0, 9, 0, 0, 0, 0⟩),
      (7, 0x01800A560000001, .aarm (plainHead 7) ⟨0, 41, 22, 0, 0, 0, 0, 1⟩),
      (7, 0x02000A560000300, .await (plainHead 7) ⟨0, 41, 22, 0, 0, 0, 3, 0⟩),
      (7, 0x02805A539DABCDC, .barr (plainHead 7) ⟨5, 41, 0, 2, 7, 3, 2, 0x1abcdc⟩),
      (7, 0x03005A539BABCDC, .bwait (plainHead 7) ⟨5, 41, 0, 2, 7, 3, 1, 0x1abcdc⟩),
      (7, 0x03800A400000000, .hbar (plainHead 7) ⟨0, 41, 0, 0, 0⟩),
      (7, 0x040000001E00000, .fence (plainHead 7) ⟨0, 0, 0, 0, 0, 3, 3, 0⟩),
      (7, 0x048000000031500, .fencex (plainHead 7) ⟨0, 0, 0, 0, 0, 3, 21, 0⟩),
      (7, 0x05005A539A47FF8, .park (plainHead 7) ⟨5, 41, 0, 2, 7, 3, 1, 0x47ff8⟩),
      (7, 0x05805A539C2FFF8, .wake (plainHead 7) ⟨5, 41, 0, 2, 7, 3, 2, 0x2fff8⟩),
      (7, 0x060000C00000000, .qeos (plainHead 7) ⟨0, 3, 0, 0, 0⟩),
      (7, 0x068000800000000, .qdrain (plainHead 7) ⟨0, 2, 0, 0, 0⟩),
      (7, 0x10005A54255FFF8, .amo (plainHead 7) ⟨5, 41, 0, 2, 8, 4, 2, 0x15fff8⟩),
      (7, 0x10805A51800FFF8, .cas (plainHead 7) ⟨5, 41, 0, 2, 3, 0, 0, 0xfff8⟩)] := by decide +kernel

/-! ### Ill-formed operations (04 R93, 05 R112, R124), each refused by one check alone -/

def plain3 : F3 := ⟨5, 6, 7, 2, 0⟩
def noMod : ModOp := ⟨true, 0, false, false, 0, 0, 0⟩

theorem smoke_wellformed : (Instr.add (plainHead 0) plain3).wf = true := by decide +kernel
theorem smoke_slot : (Instr.add (plainHead 1) plain3).slotOk = false ∧ (Instr.add (plainHead 1) plain3).fieldsOk = true ∧
    (Instr.add (plainHead 1) plain3).modOk = true := by decide +kernel
theorem smoke_fields : (Instr.add (plainHead 0) { plain3 with ty := 8 }).slotOk = true ∧
    (Instr.add (plainHead 0) { plain3 with ty := 8 }).fieldsOk = false ∧ (Instr.add (plainHead 0) { plain3 with ty := 8 }).modOk = true := by
  decide +kernel
/-- 04 R93: a branch takes no modifier; a bound that the clamp does not use. -/
theorem smoke_modifier :
    (∀ i ∈ [Instr.br { plainHead 0 with md := some noMod } ⟨0, 1, 0, 0, 0⟩,
        .add { plainHead 0 with md := some { noMod with clamp := 2, hi := 4 } } plain3],
      i.slotOk = true ∧ i.fieldsOk = true ∧ i.modOk = false) := by decide +kernel

/-- 04 R107, 05 R119, R124: one word for each reason that a word can have: 2 a V0-only operation in V1, 3 a reserved bit, 4 a
type, 5 a queue specifier, 6 a scope of 12, 8 a NOP word that is not zero; and 7, a modifier at a branch. -/
theorem test_reasons :
    decodeBundle (oneSlot 2 (0x025#9 ++ 0#5 ++ F4.toOps ⟨1, 2, 0, 0, 8, 0, 0, 0⟩)) = .illegal 2 2 ∧
    decodeBundle (oneSlot 0 (0x001#9 ++ 0#5 ++ (F3.toOps plain3 ||| 1))) = .illegal 0 3 ∧
    decodeBundle (oneSlot 0 (0x001#9 ++ 0#5 ++ F3.toOps { plain3 with ty := 8 })) = .illegal 0 4 ∧
    decodeBundle (oneSlot 6 (0x001#9 ++ 0#5 ++ FC.toOps ⟨33, 0, 0, 0, 0, 0, 0, 0⟩)) = .illegal 6 5 ∧
    decodeBundle (oneSlot 4 (0x001#9 ++ 0#5 ++ FM.toOps ⟨5, 6, 0, 2, 2, 12, 0, 0⟩)) = .illegal 4 6 ∧
    decodeBundle (oneSlot 0 (0#9 ++ 0#5 ++ 1#46)) = .illegal 0 8 ∧
    decodeBundle (encode (.br { plainHead 0 with md := some noMod } ⟨0, 1, 0, 0, 0⟩)) = .illegal 7 7 := by decide +kernel

/-! ### States and helpers -/

/-- Context 0 of core 0 of die 0 runs at device address 0, with one page of memory. -/
def live : State := State.reset.stage 0
/-- The same with changes to the context, the core, the die, the page-table entry. -/
def liveCx (f : Ctx → Ctx) : State := live.modCx f
def liveCc (f : Core → Core) : State := live.modCc f
def liveDie (f : Die → Die) : State := live.modDie 0 f
def livePte (e : Nat) : State := { live with mem := writeNat live.mem (hbmKey 0 stageLast) 16 e }
/-- The state after an instruction that answers one. -/
def after (i : Instr) (s : State) : State := match exec i s with | .next t => t | _ => s
def h0 : Head := plainHead 0
def h1 : Head := plainHead 1
def off0 : Head := { plainHead 0 with gneg := 1 }

theorem finds {α : Type} {o : Option α} {p : α → Prop} [DecidablePred p] (h : (o.any fun a => decide (p a)) = true) :
    ∃ a, o = some a ∧ p a := by
  cases o with
  | none => simp at h
  | some a => exact ⟨a, rfl, by simpa using h⟩

/-! ### Registers and control -/

/-- DIV.i64 with a modifier, and ROTLI. -/
theorem witness_IntegerFormsDeliverTheirExactResult :
    (∃ o, intForm live (.div { h0 with md := some noMod } ⟨5, 6, 7, 3, 0⟩) = some o ∧
      ((Instr.div { h0 with md := some noMod } ⟨5, 6, 7, 3, 0⟩).fieldsOk = true ∧ opRuns live o.h = true)) ∧
    (∃ o, immForm live (.rotli h0 ⟨5, 6, 63⟩) = some o ∧ ((Instr.rotli h0 ⟨5, 6, 63⟩).fieldsOk = true ∧ opRuns live o.h = true)) :=
  ⟨finds (by decide +kernel), finds (by decide +kernel)⟩
theorem witness_MovesAndComparesWriteTheirDestinations :
    opRuns live h0 = true ∧ (Instr.movhi h0 ⟨5, 0xFFFFFF⟩).fieldsOk = true ∧ (Instr.movhi h0 ⟨5, 0x1000000⟩).fieldsOk = false ∧
    (Instr.mov h0 ⟨5, 6, 0, 0, 0⟩).fieldsOk = true ∧ (Instr.cmp h0 ⟨5, 6, 7, 5, 2, 0, 6, 0⟩).fieldsOk = true ∧
    (Instr.cmpi h0 ⟨5, 6, 0x3FFFFFFF⟩).fieldsOk = false ∧ (Instr.cmpi h0 ⟨5, 6, 0x37FFFFFF⟩).fieldsOk = true ∧
    (Instr.fcmp h0 ⟨5, 6, 7, 9, 8, 0, 6, 0⟩).fieldsOk = true := by decide +kernel
theorem witness_ScalarFloatingPointFormsRoundOnce :
    ∃ o, fltForm live (.fma h0 ⟨5, 6, 7, 8, 10, 0, 0, 0⟩) = some o ∧
      ((Instr.fma h0 ⟨5, 6, 7, 8, 10, 0, 0, 0⟩).fieldsOk = true ∧ opRuns live o.1 = true) := finds (by decide +kernel)
theorem witness_NaNOperandsGiveTheCanonicalNaN :
    ((8 : Ty) = 8 ∨ (8 : Ty) = 9 ∨ (8 : Ty) = 10) ∧ (decodeF 8 0x7F800001).isNaN = true ∧ (decodeF 9 0xFFFF).isNaN = true ∧
    (decodeF 10 0x7C01).isNaN = true := by decide +kernel
/-- The guard `(!p0)`; and an operation of a bundle outside a nest with the condition `.notlast`. -/
theorem witness_GuardedOffOperationHasNoEffect :
    (∃ v, slotView (.add off0 plain3) = some v ∧ opRuns live v.h = false) ∧ live.cx.iterates live.cur.acc 3 = false ∧
    off0.iter = 0 ∧ off0.gneg = 1 ∧ off0.gpred = 0 := ⟨finds (by decide +kernel), by decide +kernel⟩
/-- An operation that executes and pushes a queue, and one that does not execute. -/
theorem witness_RegisterOperationsKeepEverythingElse :
    (registerOp (.vadd h1 ⟨35, 6, 7, 0, 8, 0, 0, 0⟩) = some (h1, [], [3]) ∧ (Instr.vadd h1 ⟨35, 6, 7, 0, 8, 0, 0, 0⟩).fieldsOk = true ∧
      ∃ t, exec (.vadd h1 ⟨35, 6, 7, 0, 8, 0, 0, 0⟩) live = .next t) ∧
    (registerOp (.add off0 plain3) = some (off0, [.s 5], []) ∧ (Instr.add off0 plain3).fieldsOk = true ∧
      ∃ t, exec (.add off0 plain3) live = .next t) :=
  ⟨⟨rfl, by decide +kernel, _, rfl⟩, rfl, by decide +kernel, _, rfl⟩
/-- FADD's bound of 4, at k = 0, 1, 3 and 4; and s0. -/
theorem witness_ResultsLandAtTheirBoundTheLaterLast :
    Ctx.idle.nest.active = false ∧ (∀ p ∈ Ctx.idle.pend, p.reg ≠ .s 5) ∧ ((0 : BitVec 6) = 0 ∧ (5 : BitVec 6) ≠ 0) ∧
    (0 < 1 ∧ 1 < 4) ∧ (0 < 3 ∧ 3 < 4) ∧ (0 < 4 ∧ 4 ≤ 4) ∧ (∀ e ∈ Ctx.idle.score, e.reg ≠ .s 5) ∧
    ({ Ctx.idle with score := [⟨7, .s 5⟩] }.pend = [] ∧ { Ctx.idle with score := [⟨7, .s 5⟩] }.score = [⟨7, .s 5⟩] ∧ 7 < 8 ∧ 7 ≤ 7) := by
  decide +kernel
theorem witness_BranchOperationsSetTheirTargets :
    opRuns live h0 = true ∧ nestBad live (.br h0 ⟨0, 3, 0, 0, 0⟩) = false ∧ nestBad live (.call h0 ⟨0, 3, 0, 0, 0⟩) = false ∧
    nestBad live (.ret h0 ⟨0, 0, 0, 0, 0⟩) = false := by decide +kernel

/-- A nest of depth 1 and of one bundle, in its first iteration. -/
def oneNest : Nest := { Nest.none with active := true, count := Vector.replicate 6 2, body := 64 }
def fresh : Issue := Issue.fresh live.cur
/-- A nest of depth 2 and of two bundles; decoupled; at a place of its body and a tuple of indices. -/
def twoNest (dec : Bool) (pos i j : Nat) : Nest :=
  { Nest.none with
    active := true, count := Vector.replicate 6 2, body := 64, depth := 1, len := 1, dec := dec, xpos := BitVec.ofNat 6 pos
    apos := BitVec.ofNat 6 pos, xidx := ((Vector.replicate 6 0).set 0 (BitVec.ofNat 32 i)).set 1 (BitVec.ofNat 32 j)
    aidx := ((Vector.replicate 6 0).set 0 (BitVec.ofNat 32 i)).set 1 (BitVec.ofNat 32 j) }
def nested (n : Nest) : Ctx := { live.cx with nest := n }
theorem walks (n : Nest) (i : Vector (BitVec 32) 6) : LastTuple n i ↔ ∀ l, l < n.depth.toNat + 1 → i.getD l 0 + 1 = n.count.getD l 0 := by
  simp [LastTuple]
theorem witness_RetirementGoesWhereTheBundleSays :
    (fresh.stay = false ∧ { fresh with branch := some 640 }.loop = none ∧ { fresh with branch := some 640 }.branch = some 640 ∧
      (nested (twoNest true 0 0 0)).decoupled = true) ∧
    ({ fresh with loopBrk := true }.branch = none ∧ { fresh with loopBrk := true }.loopBrk = true ∧
      ∀ d, (nested (twoNest d 0 0 0)).inNest false = true) ∧
    ({ fresh with loop := some 0x140 }.loop = some 0x140 ∧ (0 < 6 ∧ (issued live.cx).lcnt.getD 0 0 = 0)) ∧
    (((0x140 : BitVec 40).extractLsb' 6 3).toNat ≤ 5 ∧
      ∀ l, l < 6 → (issued { live.cx with lcnt := Vector.replicate 6 1 }).lcnt.getD l 0 ≠ 0) ∧
    (fresh.loop = none ∧ fresh.branch = none ∧ fresh.loopBrk = false ∧ live.cx.inNest false = false) := by
  decide +kernel
/-- In the body, at its end with another tuple to come, and after the last tuple; for both slices of a decoupled nest. -/
theorem witness_NestsAreWalked :
    (twoNest false 0 0 0).xpos ≠ (twoNest false 0 0 0).len ∧ (twoNest true 0 0 0).apos ≠ (twoNest true 0 0 0).len ∧
    (∀ d, (twoNest d 1 1 0).xpos = (twoNest d 1 1 0).len ∧ (twoNest d 1 1 0).apos = (twoNest d 1 1 0).len ∧
      ¬LastTuple (twoNest d 1 1 0) (twoNest d 1 1 0).xidx ∧ ¬LastTuple (twoNest d 1 1 0) (twoNest d 1 1 0).aidx) ∧
    (∀ d, (twoNest d 1 1 1).xpos = (twoNest d 1 1 1).len ∧ (twoNest d 1 1 1).apos = (twoNest d 1 1 1).len ∧
      LastTuple (twoNest d 1 1 1) (twoNest d 1 1 1).xidx ∧ LastTuple (twoNest d 1 1 1) (twoNest d 1 1 1).aidx) ∧
    (∀ d, (twoNest d 1 1 1).depth.toNat ≤ 5 ∧ (nested (twoNest d 1 1 1)).susp = none) ∧
    (twoNest true 0 0 0).dec = true ∧ (nested (twoNest true 0 0 0)).inNest true = true ∧
    (let c := nested { twoNest true 1 1 1 with adone := true, xdone := true }
     c.decoupled = true ∧ c.nest.adone = true ∧ c.nest.xdone = true) := by
  simp only [walks]
  decide +kernel
def handler : State := liveCx fun c => { c with hmode := true }
theorem witness_SystemInstructionsHaveTheirEffect :
    opRuns live h0 = true ∧ opRuns handler h0 = true ∧ live.cx.hmode = false ∧ handler.cx.hmode = true ∧
    (∀ i ∈ [Instr.loop h0 ⟨0, 1⟩, .loopbrk h0 ⟨0, 0, 0, 0, 0⟩, .setsr h0 ⟨0, 6, 0x44⟩, .setsr h0 ⟨0, 6, 0x45⟩, .setfmt h0 ⟨0, 0x0DBB⟩,
        .setx h0 ⟨3, 0, 0, 0, 0⟩, .safept h0 ⟨0, 0, 0, 0, 0⟩, .halt h0 ⟨0, 0, 0, 0, 0⟩], opCause i live = none) ∧
    opCause (.setsr h0 ⟨0, 1, 0x40⟩) (liveCx fun c => { c with s := c.s.set 1 0x0DBB }) = none ∧
    opRuns (liveCx fun c => { c with s := c.s.set 1 0x0DBB }) h0 = true ∧ opCause (.safept h0 ⟨0, 0, 0, 0, 0⟩) handler = none := by
  decide +kernel
/-- 02 R52: the first and last read-only registers, and an RH one. -/
theorem witness_SoftwareAndPrivilegeTrapsAreTaken :
    opRuns live h0 = true ∧ live.cx.hmode = false ∧
    (∀ n ∈ [0, 0xC3], sysListed n = true ∧ n ≠ 0x40 ∧ sysRO n = true) ∧ (sysListed 0x85 = true ∧ sysRH 0x85 = true) := by decide +kernel
theorem witness_TrapsAreTakenOrKillTheStream :
    live.cx.hmode = false ∧ (handler.cx.hmode = true ∧ (handler.streams.any fun x => x.key == handler.cx.stream) = true ∧
      (handler.stream handler.cx.stream).kill = none ∧ (handler.cur.core, handler.cur.ctx) ∈ handler.ctxsOf handler.cx.stream) := by
  decide +kernel
theorem witness_LeavingAHandlerResumesAtTpc :
    (handler.cx.susp = none ∧ handler.cx.nest.active = false) ∧
    ({ handler.cx with susp := some oneNest }.susp = some oneNest ∧ { handler.cx with susp := some oneNest }.dnest = false) ∧
    (let n : Nest := { oneNest with dec := true, len := 63 }
     let c : Ctx := { handler.cx with susp := some n, dnest := true, aslice := true, tpc := 64 + 64 * 63 }
     c.susp = some n ∧ c.dnest = true ∧ n.dec = true ∧ (63 : BitVec 6) ≤ n.len ∧ c.tpc = n.body + 64 * (63 : BitVec 6).setWidth 64 ∧
       c.aslice = true ∧ { c with aslice := false }.aslice = false) := by
  decide +kernel

/-! ### Vectors -/

theorem witness_VectorLanesReceiveTheirResults :
    (∃ o, laneForm live (.vfma h1 ⟨35, 6, 7, 8, 10, 0, 0, 3⟩) = some o ∧
      ((Instr.vfma h1 ⟨35, 6, 7, 8, 10, 0, 0, 3⟩).fieldsOk = true ∧ opRuns live o.h = true)) ∧
    (∃ o, laneForm live (.vsra h1 ⟨5, 6, 7, 0, 0, 7, 0, 0⟩) = some o ∧
      ((Instr.vsra h1 ⟨5, 6, 7, 0, 0, 7, 0, 0⟩).fieldsOk = true ∧ opRuns live o.h = true)) := by
  constructor
  · exact ⟨_, rfl, by decide +kernel, by decide +kernel⟩
  · exact ⟨_, rfl, by decide +kernel, by decide +kernel⟩
/-- A queue with one reserved entry. -/
def oneEntry : OpQueue := ⟨[⟨9, 0, false, false⟩], 0⟩
theorem witness_MaskedChunksKeepTheirValue :
    live.cx.pend = [] ∧ live.cx.score = [] ∧ ((liveCx fun c => { c with q := c.q.set 3 oneEntry }).cx.q[(3 : Fin 4)]).ents = [] ++ [⟨9, 0, false, false⟩] ∧
    (∀ x ∈ ([] : List QEntry), x.id ≠ 9) := by decide +kernel
theorem witness_CrossLaneOperationsDeliverTheirResult :
    opRuns live h1 = true ∧ tyIsFloat 7 = false ∧ tyIsFloat 8 = true := by decide +kernel
theorem witness_ReductionsCoverAndTopListsRankTheirLanes :
    (7 : Ty).toNat < 8 ∧ ((10 : Ty) = 2 ∨ (10 : Ty) = 6 ∨ (10 : Ty) = 8 ∨ (10 : Ty) = 9 ∨ (10 : Ty) = 10) := by decide
theorem witness_MaskAndLaneOperationsDeliverTheirResult :
    opRuns live h1 = true ∧ (Instr.vgetl h1 ⟨5, 6, 7, 0, 14, 0, 0, 0⟩).fieldsOk = true ∧
    (Instr.vsetl h1 ⟨31, 6, 7, 0, 14, 0, 0, 0⟩).fieldsOk = true := by decide +kernel

/-! ### Scratchpad accesses -/

def h4 : Head := plainHead 4
def h5 : Head := plainHead 5
def h7 : Head := plainHead 7
/-- LDV.i8 of the last 256 bytes of the window, and an unaligned extracting load of space 01. -/
def ldvLast : Instr := .ldv h4 ⟨33, 0, 0, 0, 0, 0, 0, 0xBFF00⟩
def ldxPeer : Instr := .ldx h4 ⟨6, 0, 0, 1, 6, 0, 0, 0x21⟩
def stLast : Instr := .st h5 ⟨5, 0, 0, 0, 3, 0, 0, 0xBFFF8⟩
def amoLast : Instr := .amo h7 ⟨5, 0, 0, 0, 3, 0, 0, 0x7FF8⟩
def amoQuiet : Instr := .amo h7 ⟨5, 0, 0, 1, 8, 0, 0, 0x130008⟩

theorem witness_ScratchpadAccessesLieAtTheirEffectiveAddress :
    (∃ o, loadForm live ldvLast = some o ∧ (ldvLast.fieldsOk = true ∧ o.f.space.toNat ≤ 1)) ∧
    (∃ o, loadForm live ldxPeer = some o ∧ (ldxPeer.fieldsOk = true ∧ o.f.space.toNat ≤ 1)) ∧
    (∃ o, storeForm live stLast = some o ∧ (stLast.fieldsOk = true ∧ o.2.1.space.toNat ≤ 1)) ∧
    (∀ u, ∃ o, atomicForm live amoLast u = some o ∧ (amoLast.fieldsOk = true ∧ o.2.1.space.toNat ≤ 1)) := by
  refine ⟨?_, ?_, ?_, fun u => ⟨_, rfl, by decide +kernel⟩⟩
  all_goals exact finds (by decide +kernel)
/-- The unit of the first eight bytes that LDV reads is poisoned. -/
def spoiled : State := { live with poison := [poisonBase (spadKey 0 0 0xBFF00)] }
theorem witness_ScratchpadLoadsAndStoresMoveTheirBytes :
    (∃ o, loadForm live ldvLast = some o ∧ (ldvLast.fieldsOk = true ∧ opRuns live o.h = true ∧ opCause ldvLast live = none ∧
      o.f.space.toNat ≤ 1 ∧ isPoisoned live.poison (spadProbe live (theOp live ldvLast)).key o.bytes = false)) ∧
    (∃ o, loadForm spoiled ldvLast = some o ∧ (ldvLast.fieldsOk = true ∧ opRuns spoiled o.h = true ∧ opCause ldvLast spoiled = none ∧
      o.f.space.toNat ≤ 1 ∧ isPoisoned spoiled.poison (spadProbe spoiled (theOp spoiled ldvLast)).key o.bytes = true)) ∧
    (∃ o, storeForm live stLast = some o ∧ (stLast.fieldsOk = true ∧ opRuns live o.1 = true ∧ opCause stLast live = none ∧
      o.2.1.space.toNat ≤ 1 ∧ live.memOk = true ∧
      live.actsNow stLast [((spadProbe live (theOp live stLast)).key, o.2.2.1)] = true)) := by
  and_intros
  all_goals exact finds (by decide +kernel)
/-- BARR of the own scratchpad for phase 0, with two parties and none, one and both arrived. -/
def barrOwn : Instr := .barr h7 ⟨0, 0, 0, 0, 7, 3, 2, 0x100⟩
theorem witness_BarrierBreaches :
    ¬Breach 0x200000000 0 ∧ ¬Breach 0x200000000 1 ∧ Breach 0x200000000 2 ∧ ¬Breach 0x200000001 0 ∧ Breach 0x200000002 0 ∧
    ¬Breach 0xFFFF000200000000 0 ∧ Breach 0xFFFF000200000000 1 := by
  unfold Breach
  decide
theorem witness_ScratchpadAtomicsReplaceTheirWord :
    (∃ o, atomicForm live barrOwn (live.freeVal 32 2800) = some o ∧ (barrOwn.fieldsOk = true ∧ opRuns live o.1 = true ∧
      opCause barrOwn live = none ∧ live.actsNow barrOwn [((spadProbe live (theOp live barrOwn)).key, o.2.2.1)] = true ∧
      isPoisoned live.poison (spadProbe live (theOp live barrOwn)).key o.2.2.1 = false)) ∧
    (∃ o, atomicForm live amoLast (live.freeVal 32 2800) = some o ∧ (amoLast.fieldsOk = true ∧ opRuns live o.1 = true ∧ opCause amoLast live = none ∧
      o.2.1.space.toNat ≤ 1 ∧ live.memOk = true ∧ (∀ r ∈ live.reqs, r.id < live.nextId) ∧ o.2.2.2.2 ≠ [] ∧
      live.actsNow amoLast [((spadProbe live (theOp live amoLast)).key, o.2.2.1)] = true ∧
      isPoisoned live.poison (spadProbe live (theOp live amoLast)).key o.2.2.1 = false)) ∧
    (∃ o, atomicForm live amoQuiet (live.freeVal 32 2800) = some o ∧ (amoQuiet.fieldsOk = true ∧ opRuns live o.1 = true ∧ opCause amoQuiet live = none ∧
      o.2.1.space.toNat ≤ 1 ∧ o.2.2.2.2 = [] ∧
      live.actsNow amoQuiet [((spadProbe live (theOp live amoQuiet)).key, o.2.2.1)] = true ∧
      isPoisoned live.poison (spadProbe live (theOp live amoQuiet)).key o.2.2.1 = false)) := by
  refine ⟨⟨_, rfl, ?_⟩, ⟨_, rfl, ?_⟩, ⟨_, rfl, ?_⟩⟩ <;> decide +kernel

/-! ### Device memory -/

/-- The last eight bytes of the page, from the base s0; a plain and an acquire form. -/
def ldFar : Instr := .ld h4 ⟨5, 0, 0, 2, 3, 4, 1, 0xFFF8⟩
def ldvFar : Instr := .ldv h4 ⟨33, 0, 0, 2, 0, 0, 0, 0x100⟩
def stFar : Instr := .st h5 ⟨5, 0, 0, 2, 3, 0, 0, 0xFFF8⟩
def amoFar : Instr := .amo h7 ⟨5, 0, 0, 2, 3, 0, 0, 0x100⟩
def barrFar : Instr := .barr h7 ⟨5, 0, 0, 2, 7, 3, 2, 0x100⟩
def gathFar : Instr := .gath h4 ⟨5, 6, 0, 0, 2, 3, 0, 0⟩
def scatFar : Instr := .scat h5 ⟨5, 6, 0, 0, 2, 0, 0, 0⟩

/-- Stores and atomics of a scratchpad, an arming and a post wait behind a load that is an acquire. -/
theorem witness_FarAccessesBecomeRequests :
    (∃ o, askedOf live ldvFar = some o ∧ (ldvFar.fieldsOk = true ∧ opRuns live o.h = true ∧ opCause ldvFar live = none)) ∧
    (∃ o, askedOf live gathFar = some o ∧ (gathFar.fieldsOk = true ∧ opRuns live o.h = true ∧ opCause gathFar live = none)) ∧
    (∀ i ∈ [stLast, amoQuiet, Instr.aarm h7 ⟨0, 0, 0, 0, 0, 0, 0, 1⟩, .fpost h7 ⟨0, 0, 0, 31, 0, 0, 0, 0⟩], ∃ o, askedOf (after ldFar live) i = some o ∧
      (i.fieldsOk = true ∧ opRuns (after ldFar live) o.h = true ∧ opCause i (after ldFar live) = none)) := by
  refine ⟨finds (by decide +kernel), finds (by decide +kernel), fun i hi => ?_⟩
  simp only [List.mem_cons, List.not_mem_nil, or_false] at hi
  rcases hi with rfl | rfl | rfl | rfl <;> exact finds (by decide +kernel)

/-- Where a request's address lies, and the Bool form of Reaches. -/
def placeOf (s : State) (r : Req) : Place := s.placeAt r.core.die r.asid r.va (reqNeeds r).1 (reqNeeds r).2.1 (reqNeeds r).2.2
def reaches (s : State) (r : Req) : Bool :=
  r.space == 2 && (placeOf s r).isDev &&
  s.rangeAt r.core.die r.asid r.va (reqBytes r) (reqNeeds r).1 (reqNeeds r).2.1 (reqNeeds r).2.2 == .ok [(placeOf s r, reqBytes r)] &&
  (s.raceIn r (racedPieces [(placeOf s r, reqBytes r)])).isNone && !isPoisoned s.poison (placeOf s r).key (reqBytes r)
theorem local_of {p : Place} (h : p.isDev = true) : Local p := by
  cases p with
  | dev d a l => exact Or.inl ⟨d, a, l, rfl⟩
  | _ => cases h
theorem reaches_of {s : State} {r : Req} (h : reaches s r = true) : Reaches s r (placeOf s r) := by
  simp only [reaches, Bool.and_eq_true, beq_iff_eq, Option.isNone_iff_eq_none, Bool.not_eq_true'] at h
  exact ⟨h.1.1.1.1, local_of h.1.1.1.2, h.1.1.2, h.1.2, h.2⟩
/-- A request that reaches its bytes and may be made, with a further property. -/
theorem far_of {s : State} {id : Nat} {p : Req → Prop} [DecidablePred p]
    (h : ((s.req? id).any fun r => decide (s.reqReady r = true ∧ reaches s r = true ∧ p r)) = true) :
    ∃ r, s.req? id = some r ∧ s.reqReady r = true ∧ Reaches s r (placeOf s r) ∧ p r := by
  obtain ⟨r, hr, h1, h2, h3⟩ := finds h
  exact ⟨r, hr, h1, reaches_of h2, h3⟩

theorem witness_FarAccessesActOnTheirBytes :
    (∃ s id r p, s.req? id = some r ∧ s.reqReady r = true ∧ Reaches s r p ∧ plainLoad r.instr = true ∧ r.dests ≠ []) ∧
    (∃ s id r p, s.req? id = some r ∧ s.reqReady r = true ∧ Reaches s r p ∧ plainStore r.instr = true ∧ r.dests = [] ∧ s.memOk = true) ∧
    (∃ s id r p, s.req? id = some r ∧ s.reqReady r = true ∧ Reaches s r p ∧ atomicOp r.instr = true ∧ p.isDev = true ∧ s.memOk = true ∧
      r.dests ≠ []) ∧
    (∃ s id r p, s.req? id = some r ∧ s.reqReady r = true ∧ Reaches s r p ∧ atomicOp r.instr = true ∧ p.isDev = true ∧ s.memOk = true ∧
      r.dests = []) := by
  refine ⟨?_, ?_, ?_, ?_⟩
  · obtain ⟨r, h⟩ := far_of (s := after ldFar live) (id := 2) (p := fun r => plainLoad r.instr = true ∧ r.dests ≠ []) (by decide +kernel)
    exact ⟨_, _, r, _, h⟩
  · obtain ⟨r, h⟩ := far_of (s := after stFar live) (id := 2)
      (p := fun r => plainStore r.instr = true ∧ r.dests = [] ∧ (after stFar live).memOk = true) (by decide +kernel)
    exact ⟨_, _, r, _, h⟩
  · obtain ⟨r, h⟩ := far_of (s := after amoFar live) (id := 2) (p := fun r => atomicOp r.instr = true ∧
      (placeOf (after amoFar live) r).isDev = true ∧ (after amoFar live).memOk = true ∧ r.dests ≠ []) (by decide +kernel)
    exact ⟨_, _, r, _, h⟩
  · obtain ⟨r, h⟩ := far_of (s := after barrFar live) (id := 2) (p := fun r => atomicOp r.instr = true ∧
      (placeOf (after barrFar live) r).isDev = true ∧ (after barrFar live).memOk = true ∧ r.dests = []) (by decide +kernel)
    exact ⟨_, _, r, _, h⟩

/-- GATH of the first and the last element, and SCAT of all 64, every element at the base. -/
def gathering : State := after gathFar (liveCx fun c => { c with k := c.k.set 3 0x8000000000000001 })
def scattering : State := after scatFar live
/-- The same GATH, of a page with another entry. -/
def gatherOf (e : Nat) : State := { gathering with mem := (livePte e).mem }
theorem witness_GathersReadAndScattersWriteTheirElements :
    (∃ r, gathering.req? 2 = some r ∧ (gathering.reqReady r = true ∧ r.instr = gathFar ∧ r.dests ≠ [] ∧ r.mask = 0x8000000000000001 ∧
      ∀ e, e < 64 → r.mask.getLsbD e = true → let p := gathering.placeAt r.core.die r.asid (elementAddr r.va r.idx e) true false false
        p.isDev = true ∧ isPoisoned gathering.poison p.key 4 = false ∧ gathering.raceIn r (racedPieces [(p, 4)]) = none)) ∧
    (∃ r, scattering.req? 2 = some r ∧ (scattering.reqReady r = true ∧ r.instr = scatFar ∧ r.dests = [] ∧ scattering.memOk = true ∧
      ∀ e, e < 64 → r.mask.getLsbD e = true → let p := scattering.placeAt r.core.die r.asid (elementAddr r.va r.idx e) false true false
        p.isDev = true ∧ scattering.raceIn r (racedPieces [(p, 4)]) = none)) ∧
    (∃ r, (gatherOf 0x32).req? 2 = some r ∧ ((gatherOf 0x32).reqReady r = true ∧ r.instr = gathFar ∧ r.dests ≠ [] ∧ r.mask.getLsbD 63 = true ∧
      (gatherOf 0x32).placeAt r.core.die r.asid (elementAddr r.va r.idx 63) true false false = .bad 1 ∧
      ((gatherOf 0x32).placeAt r.core.die r.asid (elementAddr r.va r.idx 63) false false false).isDev = true ∧
      ((gatherOf 0x32).ctx r.core r.ctx).life = .running)) ∧
    (∃ r, (gatherOf 0x38).req? 2 = some r ∧
      ((gatherOf 0x3B).placeAt r.core.die r.asid (elementAddr r.va r.idx 0) true false false = .host 0 ∧
        (gatherOf 0x3D).placeAt r.core.die r.asid (elementAddr r.va r.idx 0) true false false = .held .migrating ∧
        (gatherOf 0x38).placeAt r.core.die r.asid (elementAddr r.va r.idx 0) true false false = .bad 6 ∧
        ((gatherOf 0x38).placeAt r.core.die r.asid (elementAddr r.va r.idx 0) false false false).isDev = false)) := by
  and_intros
  all_goals exact finds (by decide +kernel)

/-! ### Full/empty words -/

def tagPte : Nat := 0x3A + 2 ^ 91
/-- The page is tagged, its tag block at 0x20000; the word at 0x108 is full, or not. -/
def tagged (full : Bool) : State :=
  let s : State := { livePte tagPte with dies := (liveDie fun x => { x with tagBase := 0x20000, tagBlocks := 1 }).dies }
  if full then { s with mem := writeByte s.mem (hbmKey 0 0x20008) 4 } else s
/-- The word of a full/empty request of die 0. -/
def wordAt (s : State) (r : Req) : TagWord :=
  match placeOf s r with
  | .dev d a l => ⟨d, a, l⟩
  | _ => ⟨0, 0, ⟨0, false, 0⟩⟩
def reachesWord (s : State) (r : Req) : Bool :=
  let w := wordAt s r
  reaches s r && w.l.pte.tagged && !isPoisoned s.poison (w.tag s r).1 1 && !bucketByte (w.tag s r).1 && (decide ((w.tag s r).1 < w.key) || decide (w.key + 8 ≤ (w.tag s r).1))
theorem reachesWord_of {s : State} {r : Req} (h : reachesWord s r = true) : ReachesWord s r (wordAt s r) := by
  simp only [reachesWord, Bool.and_eq_true, Bool.or_eq_true, decide_eq_true_eq, Bool.not_eq_true'] at h
  obtain ⟨⟨⟨⟨hr, ht⟩, hp⟩, hb⟩, hk⟩ := h
  have hd : (placeOf s r).isDev = true := by
    simp only [reaches, Bool.and_eq_true] at hr
    exact hr.1.1.1.2
  have he : Place.dev (wordAt s r).d (wordAt s r).a (wordAt s r).l = placeOf s r := by
    unfold wordAt
    split
    · rename_i e; exact e.symm
    · rename_i hn; cases hq : placeOf s r with
      | dev d a l => exact absurd hq (hn d a l)
      | _ => rw [hq] at hd; cases hd
  exact ⟨he ▸ reaches_of hr, ht, hp, hb, hk⟩
/-- A full/empty request that makes its first attempt at its word, with a further property. -/
theorem attempt_of {s : State} {id : Nat} {p : Req → Prop} [DecidablePred p]
    (h : ((s.req? id).any fun r => decide (s.reqReady r = true ∧ reachesWord s r = true ∧ p r)) = true) :
    ∃ r w, Attempts s id r (.deviceMemoryRequest id) ∧ s.reqReady r = true ∧ ReachesWord s r w ∧ w = wordAt s r ∧ p r := by
  obtain ⟨r, hr, h1, h2, h3⟩ := finds h
  exact ⟨r, wordAt s r, ⟨hr, Or.inl ⟨rfl, h1⟩⟩, h1, reachesWord_of h2, rfl, h3⟩

def ldw : Instr := .ldw h4 ⟨5, 0, 0, 2, 3, 0, 0, 0x108⟩
def ldt : Instr := .ldt h4 ⟨6, 0, 0, 2, 3, 0, 0, 0x108⟩
def ldc : Instr := .ldc h4 ⟨5, 0, 0, 2, 3, 0, 0, 0x108⟩
def stf : Instr := .stf h5 ⟨5, 0, 0, 2, 3, 0, 0, 0x108⟩
def sts : Instr := .sts h5 ⟨5, 0, 0, 2, 3, 0, 0, 0x108⟩
def tage : Instr := .tage h5 ⟨0, 0, 0, 2, 0, 0, 0, 0x108⟩
/-- PARK.full, and WAKE.full of all records. -/
def parkFull : Instr := .park h7 ⟨5, 0, 0, 2, 7, 3, 1, 0x108⟩
def wakeFull : Instr := .wake h7 ⟨0, 0, 0, 2, 7, 3, 2, 0x108⟩

/-- Each operation on a word that lets it succeed: its first attempt. -/
theorem witness_FullEmptyAttempts :
    (∀ i ∈ [ldw, ldc], ∃ r w, Attempts (after i (tagged true)) 2 r (.deviceMemoryRequest 2) ∧ (after i (tagged true)).reqReady r = true ∧
      ReachesWord (after i (tagged true)) r w ∧ w = wordAt (after i (tagged true)) r ∧
      ((after i (tagged true)).memOk = true ∧ r.instr = i ∧ r.dests ≠ [] ∧ (wordAt (after i (tagged true)) r).full (after i (tagged true)) r = true ∧
        (wordAt (after i (tagged true)) r).waited (after i (tagged true)) r = false ∧
        (after i (tagged true)).reservedByOther (wordAt (after i (tagged true)) r).d r = false)) ∧
    (∀ i ∈ [stf, sts, tage], ∃ r w, Attempts (after i (tagged false)) 2 r (.deviceMemoryRequest 2) ∧ (after i (tagged false)).reqReady r = true ∧
      ReachesWord (after i (tagged false)) r w ∧ w = wordAt (after i (tagged false)) r ∧
      ((after i (tagged false)).memOk = true ∧ r.instr = i ∧ r.dests = [] ∧ (wordAt (after i (tagged false)) r).full (after i (tagged false)) r = false ∧
        (wordAt (after i (tagged false)) r).waited (after i (tagged false)) r = false)) ∧
    (∃ r w, Attempts (after ldt (tagged true)) 2 r (.deviceMemoryRequest 2) ∧ (after ldt (tagged true)).reqReady r = true ∧
      ReachesWord (after ldt (tagged true)) r w ∧ w = wordAt (after ldt (tagged true)) r ∧ (r.instr = ldt ∧ r.dests ≠ [])) := by
  refine ⟨fun i hi => ?_, fun i hi => ?_, attempt_of (by decide +kernel)⟩
  · simp only [List.mem_cons, List.not_mem_nil, or_false] at hi
    rcases hi with rfl | rfl <;> exact attempt_of (by decide +kernel)
  · simp only [List.mem_cons, List.not_mem_nil, or_false] at hi
    rcases hi with rfl | rfl | rfl <;> exact attempt_of (by decide +kernel)

/-- A budget of 1 and one of 0, in the retry that is due 64 cycles later. -/
def retried : State := { after (.deviceMemoryRequest 2) (after ldw (tagged false)) with time := 64 }
def lastTry : State := retried.modReq 2 fun r => { r with budget := 0 }
theorem witness_FullEmptyAttemptsActOrRetry :
    (∃ r w, Attempts (after ldw (tagged false)) 2 r (.deviceMemoryRequest 2) ∧ (after ldw (tagged false)).reqReady r = true ∧
      ReachesWord (after ldw (tagged false)) r w ∧ w = wordAt (after ldw (tagged false)) r ∧
      (r.instr = ldw ∧ (wordAt (after ldw (tagged false)) r).full (after ldw (tagged false)) r = false ∧ r.budget = 256)) ∧
    (∃ r w, Attempts (after stf (tagged true)) 2 r (.deviceMemoryRequest 2) ∧ (after stf (tagged true)).reqReady r = true ∧
      ReachesWord (after stf (tagged true)) r w ∧ w = wordAt (after stf (tagged true)) r ∧
      (r.instr = stf ∧ (wordAt (after stf (tagged true)) r).full (after stf (tagged true)) r = true ∧ 0 < r.budget)) ∧
    (∃ r w, Attempts (after ldc (tagged false)) 2 r (.deviceMemoryRequest 2) ∧ (after ldc (tagged false)).reqReady r = true ∧
      ReachesWord (after ldc (tagged false)) r w ∧ w = wordAt (after ldc (tagged false)) r ∧
      (r.instr = ldc ∧ (wordAt (after ldc (tagged false)) r).full (after ldc (tagged false)) r = false ∧ 0 < r.budget)) ∧
    (∃ r, lastTry.req? 2 = some r ∧ (lastTry.retryDue r = true ∧ reachesWord lastTry r = true ∧ r.instr = ldw ∧
      (wordAt lastTry r).full lastTry r = false ∧ r.budget = 0 ∧ (lastTry.ctx r.core r.ctx).life = .running)) := by
  and_intros
  all_goals first | exact attempt_of (by decide +kernel) | exact finds (by decide +kernel)

/-- A word with one parked reader; a bucket with 63 records. -/
def parked : State := after (.deviceMemoryRequest 2) (after parkFull (tagged false))
def theRec : ParkRec := ⟨0, 0, 0x108, 0, 0, ⟨0, 0⟩, 0, 2⟩
def crowded : State :=
  let s := after parkFull (tagged false)
  s.modDie 0 fun x => { x with buckets := [⟨bucketOf 0 0x108, 63, List.replicate 63 { theRec with word := 0x8000 }⟩] }
theorem witness_ParksLeaveRecords :
    (∃ r w, Attempts (after parkFull (tagged true)) 2 r (.deviceMemoryRequest 2) ∧ (after parkFull (tagged true)).reqReady r = true ∧
      ReachesWord (after parkFull (tagged true)) r w ∧ w = wordAt (after parkFull (tagged true)) r ∧
      (r.instr = parkFull ∧ r.dests ≠ [] ∧ (after parkFull (tagged true)).memOk = true ∧
        (wordAt (after parkFull (tagged true)) r).full (after parkFull (tagged true)) r = true)) ∧
    (∃ r w, Attempts crowded 2 r (.deviceMemoryRequest 2) ∧ crowded.reqReady r = true ∧ ReachesWord crowded r w ∧ w = wordAt crowded r ∧
      (r.instr = parkFull ∧ r.dests ≠ [] ∧ crowded.memOk = true ∧ (wordAt crowded r).full crowded r = false ∧
        63 ≤ ((crowded.die 0).bucket (bucketOf r.asid r.va)).recs.length)) ∧
    (∃ r w, Attempts (after parkFull (tagged false)) 2 r (.deviceMemoryRequest 2) ∧ (after parkFull (tagged false)).reqReady r = true ∧
      ReachesWord (after parkFull (tagged false)) r w ∧ w = wordAt (after parkFull (tagged false)) r ∧
      (r.instr = parkFull ∧ r.dests ≠ [] ∧ (after parkFull (tagged false)).memOk = true ∧
        (wordAt (after parkFull (tagged false)) r).full (after parkFull (tagged false)) r = false ∧
        (((after parkFull (tagged false)).die 0).bucket (bucketOf r.asid r.va)).recs.length < 63 ∧
        (let s := after parkFull (tagged false)
         let w := wordAt s r
         s.raceIn { r with turn := s.nextId } (racedPieces [(.dev w.d w.a w.l, 8)]) = none))) := by
  and_intros
  all_goals exact attempt_of (by decide +kernel)
/-- An access of another context to the word: a PARK is an acquire, and holds its own context's. -/
def waking (i : Instr) : State := (after i parked).modReq 4 fun r => { r with ctx := 1 }
theorem witness_ParksLeaveRecordsThatAreWoken :
    ∀ i ∈ [sts, wakeFull], ∃ r w, Attempts (waking i) 4 r (.deviceMemoryRequest 4) ∧ (waking i).reqReady r = true ∧
      ReachesWord (waking i) r w ∧ w = wordAt (waking i) r ∧
      ((waking i).memOk = true ∧ r.instr = i ∧ r.dests = [] ∧ (wordAt (waking i) r).waited (waking i) r = true ∧
        ((waking i).die 0).recsOf r.asid r.va = [theRec] ∧ theRec.req ≠ 4 ∧ ((waking i).req? theRec.req).isSome = true ∧
        (theRec.kind = 0 ∨ theRec.kind = 1)) := by
  intro i hi
  simp only [List.mem_cons, List.not_mem_nil, or_false] at hi
  rcases hi with rfl | rfl <;> exact attempt_of (by decide +kernel)

def loaded (i : Instr) : State := after (.deviceMemoryRequest 2) (after i live)
def ldvReg : Instr := .ldv h4 ⟨5, 0, 0, 2, 0, 0, 0, 0x100⟩
theorem witness_PerformedResultsLand :
    (∃ r, (loaded ldFar).req? 2 = some r ∧ (r.phase = .performed ∧ landsAfter ((loaded ldFar).ctx r.core r.ctx) r = false ∧ (loaded ldFar).parkedBefore r = false ∧
      (∀ p ∈ ((loaded ldFar).ctx r.core r.ctx).pend, p.reg ∉ r.dests) ∧ r.dests = [.s 5] ∧ (5 : BitVec 6) ≠ 0 ∧ r.instr = ldFar)) ∧
    (∃ r, (after (.deviceMemoryRequest 2) (after ldt (tagged true))).req? 2 = some r ∧ (r.phase = .performed ∧
      landsAfter ((after (.deviceMemoryRequest 2) (after ldt (tagged true))).ctx r.core r.ctx) r = false ∧
      (after (.deviceMemoryRequest 2) (after ldt (tagged true))).parkedBefore r = false ∧ r.dests = [.s 6, .s 7] ∧
      (6 : BitVec 6) + 1 = 7 ∧ r.instr = ldt)) ∧
    (∃ r, (after (.deviceMemoryRequest 2) gathering).req? 2 = some r ∧ (r.phase = .performed ∧
      landsAfter ((after (.deviceMemoryRequest 2) gathering).ctx r.core r.ctx) r = false ∧
      (after (.deviceMemoryRequest 2) gathering).parkedBefore r = false ∧ r.dests = [.v 5, .k 3] ∧ r.instr = gathFar)) ∧
    (∃ r, (after (.deviceMemoryRequest 4) (waking sts)).req? 2 = some r ∧ (r.phase = .performed ∧
      landsAfter ((after (.deviceMemoryRequest 4) (waking sts)).ctx r.core r.ctx) r = false ∧
      (after (.deviceMemoryRequest 4) (waking sts)).parkedBefore r = false ∧ r.dests = [.s 5] ∧ r.instr = parkFull)) ∧
    (∃ r, (loaded ldvReg).req? 2 = some r ∧ (r.phase = .performed ∧ landsAfter ((loaded ldvReg).ctx r.core r.ctx) r = false ∧
      (loaded ldvReg).parkedBefore r = false ∧ r.dests = [.v 5] ∧ r.instr = ldvReg)) := by
  and_intros
  all_goals exact finds (by decide +kernel)

/-- A page without a frame: a load that has waited for one a cycle longer than FAULTWAIT; a migration outward; a quiesce. -/
def starved : State :=
  let s := after (.deviceMemoryRequest 2) (after ldFar (livePte 0x3C))
  { s.modReq 2 fun r => { r with phase := .held (.frames 0) } with time := 7000001 }
theorem witness_ExpiredTimesEndWhatTheyHold :
    ((liveDie fun x => { x with quiesce := x.quiesce.set 1 (some 0) }).die 0).quiesce.getD 1 none = some 0 ∧ 0 ≤ live.time ∧
    (∃ r, starved.req? 2 = some r ∧ (r.phase = .held (.frames 0) ∧ 0 + (starved.die (vaDie r.heldVa)).faultWait < starved.time ∧
      r.instr ≠ .nop ∧ r.office = false ∧ (starved.ctx r.core r.ctx).life = .running)) ∧
    (((liveDie fun x => { x with migr := [⟨0, 0, false, 0x3A, 0⟩] }).die 0).migr.find? fun m => m.asid == 0 && m.page == 0) =
      some ⟨0, 0, false, 0x3A, 0⟩ := by
  and_intros
  all_goals first | exact finds (by decide +kernel) | decide +kernel
def oneArrival : Arrival := ⟨⟨0, 0⟩, 0x10, 64, .ls ⟨0, 0, 0⟩, 0, 0, 0, false, 0⟩
theorem witness_ArrivalWordsCountTheirBytes :
    firstArrival ⟨0, 0⟩ { live with arrivals := [oneArrival] }.arrivals = some oneArrival ∧ oneArrival.err = false ∧ live.memOk = true := by
  decide +kernel

/-! ### Synchronisation -/

theorem noneServed_nil {k : Core} {f : BitVec 5} {v : BitVec 16} (h : k.fwaits = []) : NoneServed k f v := by
  intro w hw
  rw [h] at hw
  cases hw
/-- `s1` holds a word. -/
def s1 (w : Word) : State := liveCx fun c => { c with s := c.s.set 1 w }
/-- The arrival word at 0 with GEN as far ahead as it may be. -/
def genAhead : State := { live with mem := writeNat live.mem (spadKey 0 0 8) 4 0x7FFFFFFF }
theorem witness_FlagsAndArrivalWordsSynchronise :
    opRuns live h7 = true ∧ NoneServed live.cc 31 (flag live.cc 31 + 0) ∧ NoneServed (s1 1).cc 31 (flag (s1 1).cc 31) ∧
    live.actsNow (.fpost h7 ⟨0, 0, 0, 31, 0, 0, 0, 0⟩) [] = true ∧ (∀ r ∈ live.reqs, r.id < live.nextId) ∧
    ((∀ w ∈ live.cc.fwaits, standing live.cur w = false) ∧ ((live.readS h7 0 1).setWidth 16).toNat ≤ (flag live.cc 31).toNat) ∧
    ((flag (s1 1).cc 31).toNat < (((s1 1).readS h7 1 1).setWidth 16).toNat ∧ opRuns (s1 1) h7 = true) ∧
    (opCause (.aarm h7 ⟨0, 0, 0, 0, 0, 0, 0, 1⟩) live = none ∧ live.memOk = true ∧
      live.actsNow (.aarm h7 ⟨0, 0, 0, 0, 0, 0, 0, 1⟩) [(spadKey live.cur.core.die live.cur.core.core (live.readS h7 0 1).toNat, 16)] = true) ∧
    (opCause (.await h7 ⟨0, 0, 0, 0, 0, 0, 0, 0⟩) genAhead = none ∧ isPoisoned genAhead.poison (spadKey 0 0 0) 16 = false ∧
      (BitVec.ofNat 32 (readNat genAhead.mem (spadKey 0 0 8) 4) - (genAhead.readS h7 0 2).setWidth 32).toNat = 2 ^ 31 - 1 ∧ ∀ r ∈ genAhead.reqs, r.id < genAhead.nextId) := by
  and_intros
  all_goals first | exact noneServed_nil (by decide +kernel) | decide +kernel
/-- A store that stands in a replay queue. -/
def replayed : State := (after stFar live).modReq 2 fun r => { r with phase := .held .migrating, replay := true }
/-- Nothing before the fence; a load before it; a SCAT before it; a store that is held. -/
theorem witness_FencesHoldLaterAccesses :
    opRuns live h7 = true ∧ (∀ r ∈ live.reqs, r.id < live.nextId) ∧ lsLoads live = [] ∧ lsReqs live = [] ∧ replaying live = false ∧ pathIds live 0xFF = [] ∧
    opRuns (after ldFar live) h7 = true ∧ (∀ r ∈ (after ldFar live).reqs, r.id < (after ldFar live).nextId) ∧
    lsLoads (after ldFar live) ≠ [] ∧ lsReqs (after ldFar live) ≠ [] ∧ pathIds (after ldFar live) 1 ≠ [] ∧
    opRuns scattering h7 = true ∧ (∀ r ∈ scattering.reqs, r.id < scattering.nextId) ∧ lsLoads scattering = [] ∧ lsReqs scattering = [] ∧
    replaying scattering = false ∧ pathIds scattering 1 = [] ∧ pathIds scattering 16 = [2] ∧
    opRuns replayed h7 = true ∧ lsLoads replayed = [] ∧ replaying replayed = true := by decide +kernel
/-- The barrier word at 0 in its last phase that has passed; the only party of a group; no party, and one too many; a token. -/
def passed : State := { live with mem := writeNat live.mem (spadKey 0 0 0) 8 (32767 * 2 ^ 48) }
def bwait : Instr := .bwait h7 ⟨0, 0, 0, 0, 7, 3, 1, 0⟩
def withToken : State := liveCx fun c => { c with q := c.q.set 3 ⟨[⟨8, 5, false, true⟩, ⟨9, 0, true, true⟩, ⟨10, 6, false, false⟩], 0⟩ }
def hbar1 : Instr := .hbar h7 ⟨0, 1, 0, 0, 0⟩
/-- The context may arrive at a barrier with the word in s1, in a stream of one context, with the arrivals `l` counted. -/
def arriving (w : Word) (l : List (BitVec 3 × Nat × Nat × Nat)) : State := (s1 w).modStream live.cx.stream fun x => { x with hbar := l }
abbrev atHbar (w : Word) (l : List (BitVec 3 × Nat × Nat × Nat)) (e : Option (Nat × Nat)) : Prop :=
  let s := arriving w l
  opRuns s h7 = true ∧ (s.streams.any fun x => x.key == s.cx.stream) = true ∧ s.actsNow hbar1 [] = true ∧
  (((s.stream s.cx.stream).hbar.find? fun e => e.1 == (s.readS h7 1 1).setWidth 3 && e.2.1 == s.cx.hbarPhase.getD ((s.readS h7 1 1).setWidth 3 : BitVec 3).toNat 0).map
    fun e => e.2.2) = e ∧
  (s.stream s.cx.stream).kill = none ∧ s.cx.rowsize = 1 ∧ s.readS h7 1 1 = w
/-- It stands at the barrier of group 0, in a phase that lacks one party, or none. -/
def standingAt (have_ : Nat) : State :=
  (arriving 0x10000 [(0, 0, 1, have_)]).modCx fun c => { c with waitX := .hbar 0 0 }
theorem witness_BarriersPassAndTokensMark :
    (opCause bwait passed = none ∧ isPoisoned passed.poison (spadProbe passed (theOp passed bwait)).key 8 = false ∧
      (BitVec.ofNat 16 (readNat passed.mem (spadProbe passed (theOp passed bwait)).key 8 / 2 ^ 48) - (passed.readS h7 0 1).setWidth 16).toNat = 32767) ∧
    (atHbar 0x10000 [] none ∧ atHbar 0x10000 [(0, 0, 1, 0)] (some (1, 0)) ∧ atHbar 0 [] none ∧ atHbar 0x20000 [] none ∧
      atHbar 0x10000 [(0, 0, 2, 1)] (some (2, 1))) ∧
    (opRuns (after ldFar live) h7 = true ∧ (after ldFar live).actsNow hbar1 [] = false) ∧
    (∀ n, n ≤ 1 → (standingAt n).cx.waitX = .hbar 0 0 ∧ (standingAt n).cx.waitA = .none ∧
      (standingAt n).phaseDone (standingAt n).cx.stream 0 0 = decide (n = 1)) ∧
    ((withToken.cx.q.getD 3 OpQueue.empty).ents = [⟨8, 5, false, true⟩] ++ ⟨9, 0, true, true⟩ :: [⟨10, 6, false, false⟩]) := by decide +kernel

/-! ### Matrices and engines -/

def h3 : Head := plainHead 3
def h6 : Head := plainHead 6
def mms32 : Instr := .mms h3 ⟨0, 0, 31, 1⟩
def txbind : Instr := .txbind h3 ⟨0, 5, 0, 0⟩
/-- `v5` holds a configuration of i8 inputs. -/
def binds : State := liveCx fun c => { c with v := c.v.set 5 (0xBBBB#2048 <<< 64) }
theorem witness_MatrixOperationsEnterTheArrayQueue :
    (opRuns live h3 = true ∧ opCause (.mpset h3 ⟨7, 0, 1, 0⟩) (s1 0x10000000) = none ∧ opRuns (s1 0x10000000) h3 = true) ∧
    (∃ o, arrayForm live mms32 = some o ∧ (mms32.fieldsOk = true ∧ opRuns live o.h = true ∧ opCause mms32 live = none)) ∧
    (∃ o, arrayForm binds txbind = some o ∧ (txbind.fieldsOk = true ∧ opRuns binds o.h = true ∧ opCause txbind binds = none)) := by
  and_intros
  all_goals first | exact finds (by decide +kernel) | decide +kernel

theorem head_of {s : State} {c : CoreRef} {p : ArrayOp → Prop} [DecidablePred p]
    (h : (((s.core c).arrayQ.head?).any fun o =>
      decide ((s.core c).arrayQ = [o] ∧ o.got = [] ∧ o.gotB = [] ∧ o.gotC = [] ∧ s.arrayWaits c o = false ∧ p o)) = true) :
    ∃ o, AtHead s c o [] ∧ p o := by
  obtain ⟨o, -, h1, h2, h3, h4, h5, h6⟩ := finds h
  exact ⟨o, ⟨h1, by simp, h2, h3, h4, h5⟩, h6⟩
def fifo (n : Nat) : List FifoEntry := List.replicate n ⟨0, false, false, 0, 0, []⟩
/-- The operation at the head of the array queue of core 0, with entries in the FIFOs. -/
def atArray (i : Instr) (s : State) (n : Nat) : State := (after i s).modCc fun k => { k with fs := fifo n, fa := fifo n, fb := fifo n, fc := fifo n }
def c0 : CoreRef := ⟨0, 0⟩
theorem witness_PlainArrayOperationsExecute :
    (∃ o, AtHead (atArray (.mlds h3 ⟨0, 0, 0, 1⟩) live 1) c0 o [] ∧ (o.instr = .mlds h3 ⟨0, 0, 0, 1⟩ ∧ (o.mp.extractLsb' 14 6).toNat + 1 ≤ 1)) ∧
    (∃ o, AtHead (atArray mms32 live 32) c0 o [] ∧ (o.instr = mms32 ∧ 31 + 1 ≤ ((atArray mms32 live 32).core c0).fa.length ∧ 0 + 31 ≤ 31 ∧
      (∀ j, j < 32 → markedAt ((atArray mms32 live 32).core c0).fa j = false) ∧ ((atArray mms32 live 32).core c0).tile.poison = 0)) ∧
    (∃ o, AtHead (atArray (.mmv h3 ⟨0, 0, 0, 127⟩) live 128) c0 o [] ∧ (o.instr = .mmv h3 ⟨0, 0, 0, 127⟩ ∧
      128 ≤ ((atArray (.mmv h3 ⟨0, 0, 0, 127⟩) live 128).core c0).fc.length ∧
      128 ≤ ((atArray (.mmv h3 ⟨0, 0, 0, 127⟩) live 128).core c0).fb.length)) ∧
    (∃ o, AtHead (atArray (.accrd h3 ⟨0, 30, 0, 0x1F⟩) live 0) c0 o [] ∧ (o.instr = .accrd h3 ⟨0, 30, 0, 0x1F⟩ ∧ o.fmt.getLsbD 15 = false ∧
      ((atArray (.accrd h3 ⟨0, 30, 0, 0x1F⟩) live 0).core c0).workPoison = 0 ∧
      ((atArray (.accrd h3 ⟨0, 30, 0, 0x1F⟩) live 0).core c0).chain.poison = 0)) ∧
    (∃ o, AtHead (atArray (.accrd h3 ⟨0, 31, 0, 0⟩) (liveCx fun c => { c with fmt := 0x8DBB }) 0) c0 o [] ∧ (o.instr = .accrd h3 ⟨0, 31, 0, 0⟩ ∧
      o.fmt.getLsbD 15 = true)) ∧
    (∃ o, AtHead (atArray (.accclr h3 ⟨0, 0, 0, 0⟩) live 0) c0 o [] ∧ o.instr = .accclr h3 ⟨0, 0, 0, 0⟩) ∧
    (∃ o, AtHead (atArray (.accscl h3 ⟨0, 0, 5, 0⟩) live 0) c0 o [] ∧ o.instr = .accscl h3 ⟨0, 0, 5, 0⟩) := by
  and_intros
  all_goals exact head_of (by decide +kernel)

/-- The context owns the Triptych, with that configuration; `left` blocks are left. -/
def owns (left : Word) : State :=
  liveCc fun k => { k with owner := some 0, chain := { k.chain with cfg := 0xBBBB#1536 <<< 64, left := left } }
def txstep : Instr := .txstep h3 ⟨0, 0, 1, 0⟩
/-- Its image has been saved at 0 of the scratchpad. -/
def savedChain : State := after (.arrayOpExecute c0) (after (.txsave h3 ⟨0, 0, 0, 0⟩) (owns 0))
/-- TXSAVE.dev, whose image lies in the page. -/
def txsaveDev : Instr := .txsave h3 ⟨0, 0, 0, 1⟩
def nearOk (n : Near) : Bool := match n with | .ok _ => true | _ => false
theorem witness_ChainOperationsExecute :
    (∃ o, AtHead (atArray txbind binds 1) c0 o [] ∧ (o.instr = txbind ∧ o.vs.length = 1 ∧
      cfgField (cfgResolve ((o.vs.getD 0 0).setWidth 1536) (o.fmt.extractLsb' 8 4)) 0x10 19 14 + 1 ≤
        ((atArray txbind binds 1).core c0).fs.length)) ∧
    (∃ o, AtHead (after (.txfin h3 ⟨0, 0, 0, 0⟩) (owns 0)) c0 o [] ∧ (o.instr = .txfin h3 ⟨0, 0, 0, 0⟩ ∧
      (after (.txfin h3 ⟨0, 0, 0, 0⟩) (owns 0)).memOk = true)) ∧
    (∃ o, AtHead (after (.txsave h3 ⟨0, 0, 0, 0⟩) (owns 0)) c0 o [] ∧ (o.instr = .txsave h3 ⟨0, 0, 0, 0⟩ ∧
      (after (.txsave h3 ⟨0, 0, 0, 0⟩) (owns 0)).memOk = true)) ∧
    (∃ o, AtHead (after (.txabort h3 ⟨0, 0, 0, 1⟩) (owns 0)) c0 o [] ∧ o.instr = .txabort h3 ⟨0, 0, 0, 1⟩) ∧
    (∃ o, AtHead (after txstep (owns 0)) c0 o [] ∧ (o.instr = txstep ∧ ((after txstep (owns 0)).core c0).chain.left = 0 ∧ (1 : BitVec 6) ≠ 0 ∧
      (((after txstep (owns 0)).ctx c0 o.ctx).score.any fun e => decide (e.id < o.id) && e.reg == .s 1) = false)) ∧
    (∃ o, AtHead (atArray txstep (owns 1) 32) c0 o [] ∧ (o.instr = txstep ∧
      (let s := atArray txstep (owns 1) 32
       let ch := (s.core c0).chain
       cfgField ch.cfg 8 19 18 = 0 ∧ cfgField ch.cfg 8 20 20 = 0 ∧ cfgKChan ch.cfg = none ∧ cfgVChan ch.cfg = none ∧
       cfgField ch.cfg 0 18 18 = 0 ∧ ch.left ≠ 0 ∧ 32 ≤ (s.core c0).fa.length ∧ 32 ≤ (s.core c0).fb.length ∧
       ((s.ctx c0 o.ctx).score.any fun e => decide (e.id < o.id) && e.reg == .s 1) = false ∧
       (s.ctx c0 o.ctx).takable.any (feedError ch.cfg) = false))) ∧
    (∃ o, AtHead (after txsaveDev (owns 0)) c0 o [] ∧ (o.instr = txsaveDev ∧
      nearOk ((after txsaveDev (owns 0)).near 0 ((after txsaveDev (owns 0)).stream ((after txsaveDev (owns 0)).ctx c0 o.ctx).stream).tenant
        ((after txsaveDev (owns 0)).stream ((after txsaveDev (owns 0)).ctx c0 o.ctx).stream).asid o.sA imageBytes false true false) = true)) := by
  and_intros
  all_goals exact head_of (by decide +kernel)

theorem natOfBytes_lt (l : List Byte) : natOfBytes l < 256 ^ l.length := by
  induction l with
  | nil => simp [natOfBytes]
  | cons b r ih =>
    have := b.isLt
    simp only [natOfBytes, List.length_cons, Nat.pow_succ]
    omega
/-- An image of 16-bit inputs is taken when its CH.CFG and its reserved word are legal. -/
theorem image_taken {l : List Byte} {p : BitVec 4} (hw : tyWidth (cfgQTy (BitVec.ofNat 1536 (natAt l 0xC340 192))) = 16)
    (hc : cfgOk (BitVec.ofNat 1536 (natAt l 0xC340 192)) p.toNat = true) (hz : natAt l 0xC330 16 = 0) : ∃ x, chainOfImage l p = some x := by
  have hq : ∀ r k, natAt l (256 * r + 2 * k) 2 < 2 ^ 16 := fun r k =>
    lt_of_lt_of_le (natOfBytes_lt _) (by
      have : ((l.drop (256 * r + 2 * k)).take 2).length ≤ 2 := by simp
      calc 256 ^ _ ≤ 256 ^ 2 := Nat.pow_le_pow_right (by decide) this
        _ = 2 ^ 16 := by decide)
  simp [chainOfImage, hw, hc, hz]
  exact fun r _ k _ => hq r k
theorem natAt_readBytes (m : Memory) (n : Nat) : ∀ (o a k : Nat), o + n ≤ k → natAt (readBytes m a k) o n = readNat m (a + o) n := by
  have ht : ∀ (n a k : Nat), n ≤ k → (readBytes m a k).take n = readBytes m a n := by
    intro n
    induction n with
    | zero => intro a k _; simp [readBytes]
    | succ n ih =>
      intro a k h
      obtain ⟨j, rfl⟩ : ∃ j, k = j + 1 := ⟨k - 1, by omega⟩
      simp only [readBytes, List.take_succ_cons]
      rw [ih (a + 1) _ (by omega)]
  intro o
  induction o with
  | zero => intro a k h; simp [natAt, readNat, ht n a k (by omega)]
  | succ o ih =>
    intro a k h
    obtain ⟨j, rfl⟩ : ∃ j, k = j + 1 := ⟨k - 1, by omega⟩
    have := ih (a + 1) j (by omega)
    simp only [natAt, readBytes, List.drop_succ_cons] at this ⊢
    rw [this, Nat.add_assoc, Nat.add_comm 1 o]
/-- An image of a chain of bf16 inputs at 0 of the scratchpad, and a TXREST of it. -/
def imaged : State := { live with mem := writeNat live.mem (spadKey 0 0 0xC340) 192 (0x9999 * 2 ^ 64) }
def txrest : Instr := .txrest h3 ⟨0, 0, 0, 0⟩
theorem witness_ChainIsRestored :
    ∃ o, AtHead (after txrest imaged) c0 o [] ∧ (o.instr = txrest ∧
      isPoisoned (after txrest imaged).poison (spadKey 0 0 o.sA.toNat) imageBytes = false ∧ o.sA = 0 ∧ o.fmt = live.cx.fmt) :=
  head_of (by decide +kernel)
theorem witness_ImageIsTaken :
    ∃ x, chainOfImage (readBytes (after txrest imaged).mem (spadKey 0 0 0) imageBytes) (live.cx.fmt.extractLsb' 8 4) = some x :=
  image_taken (by rw [natAt_readBytes _ _ _ _ _ (by decide)]; decide +kernel)
    (by rw [natAt_readBytes _ _ _ _ _ (by decide)]; decide +kernel) (by rw [natAt_readBytes _ _ _ _ _ (by decide)]; decide +kernel)

/-- The same image in device memory, and a TXREST.dev of it. -/
def imagedDev : State := { live with mem := writeNat live.mem (hbmKey 0 0xC340) 192 (0x9999 * 2 ^ 64) }
def txrestDev : Instr := .txrest h3 ⟨0, 0, 0, 1⟩
def stageLeaf : Leaf := ⟨0x3A, false, stageLast⟩
theorem witness_ChainIsRestoredFromMemory :
    ∃ o, AtHead (after txrestDev imagedDev) c0 o [] ∧ (o.instr = txrestDev ∧ o.ctx = 0 ∧ o.fmt = live.cx.fmt ∧
      (after txrestDev imagedDev).near 0 ((after txrestDev imagedDev).stream live.cx.stream).tenant
        ((after txrestDev imagedDev).stream live.cx.stream).asid o.sA imageBytes true false false = .ok [(.dev 0 0 stageLeaf, imageBytes)] ∧
      (after txrestDev imagedDev).spanPoisonVa [(.dev 0 0 stageLeaf, imageBytes)] o.sA = none) :=
  head_of (by decide +kernel)
theorem witness_ImageInMemoryIsTaken :
    ∃ x, chainOfImage ((after txrestDev imagedDev).spanRead [(.dev 0 0 stageLeaf, imageBytes)]) (live.cx.fmt.extractLsb' 8 4) = some x := by
  have ht : stageLeaf.pte.tolerant = false := by decide +kernel
  simp only [State.spanRead, List.flatMap_cons, List.flatMap_nil, List.append_nil, State.readDev, ht, Bool.false_and, Bool.false_eq_true,
    if_false, Place.key]
  exact image_taken (by rw [natAt_readBytes _ _ _ _ _ (by decide)]; decide +kernel)
    (by rw [natAt_readBytes _ _ _ _ _ (by decide)]; decide +kernel) (by rw [natAt_readBytes _ _ _ _ _ (by decide)]; decide +kernel)

/-- `v5` describes one element of eight bytes from 0x100 to 0x200 of the own scratchpad. -/
def copies : State :=
  liveCx fun c => { c with v := c.v.set 5 (0x100#2048 ||| 0x200#2048 <<< 64 ||| 0x30#2048 <<< 128 ||| 0x1#2048 <<< 192 ||| 0x1#2048 <<< 224 |||
    0x1#2048 <<< 256 ||| 0x1#2048 <<< 288 ||| 0x1#2048 <<< 320 ||| 0x1#2048 <<< 352) }
def cp : Instr := .cp h6 ⟨5, 0, 0, 31, 1, 0, 0, 0x40⟩
def cpPlain : Instr := .cp h6 ⟨5, 0, 0, 0, 2, 0, 0, 0⟩
theorem witness_EngineOperationsBecomeCommands :
    (∃ o, engineForm cp = some o ∧ (opRuns copies o.h = true ∧ opCause cp copies = none)) ∧
    (∃ o, engineForm (.strmrd h6 ⟨0, 0, 0, 0, 0, 0, 0, 0⟩) = some o ∧ (opRuns live o.h = true ∧
      opCause (.strmrd h6 ⟨0, 0, 0, 0, 0, 0, 0, 0⟩) live = none)) := ⟨finds (by decide +kernel), finds (by decide +kernel)⟩
/-- The copy issued, started, and done. -/
def issued (i : Instr) : State := after i copies
def begunCp (i : Instr) : State := after (.engineCommandStart (.engine c0 2)) (issued i)
def moved : State := after (.engineBurst (.engine c0 2)) (begunCp cp)
theorem witness_EnginesStartMoveAndComplete :
    (∃ m, (issued cp).cmd? c0 2 = some m ∧ (m.id = 2 ∧ (issued cp).cmdMayStart c0 m = true ∧ m.instr = cp)) ∧
    (∃ m, (begunCp cpPlain).cmd? c0 2 = some m ∧ (m.id = 2 ∧ m.instr = cpPlain ∧ m.started = true ∧ m.done = false ∧ m.susp = false ∧
      ((begunCp cpPlain).core c0).freeze = none ∧ m.pos < (copyDesc m.desc).total ∧ (copyDesc m.desc).srcAt m.pos = 0x100 ∧
      (copyDesc m.desc).dstAt m.pos = 0x200 ∧ (0x100 : Word).toNat % min (copyDesc m.desc).esize 8 = 0 ∧
      (0x200 : Word).toNat % min (copyDesc m.desc).esize 8 = 0 ∧ (copyDesc m.desc).ssp = 0 ∧ (copyDesc m.desc).dsp = 0 ∧
      0x200 + (copyDesc m.desc).esize ≤ 0xC0000 ∧ (begunCp cpPlain).memOk = true ∧ (begunCp cpPlain).poison = [])) ∧
    (∃ m, moved.cmd? c0 2 = some m ∧ (m.id = 2 ∧ m.instr = cp ∧ m.done = true ∧ m.err = none ∧ m.outA = [] ∧ m.outB = [] ∧
      (moved.core c0).fwaits = [])) := by
  and_intros
  all_goals exact finds (by decide +kernel)

/-! ### Contexts -/

theorem witness_TheSlotTableAndFreezesFollowTheClock :
    ((({ live with time := 8192 } : State).die 0).rounds + 1) * 8192 ≤ ({ live with time := 8192 } : State).time ∧
    ((live.die 0).turns + 1) * 32 ≤ ({ live with time := 32 } : State).time ∧ ((live.die 0).turns + 1) / 256 ≤ (live.die 0).rounds ∧
    ((liveCc fun k => { k with freeze := some 0 }).core c0).freeze = some 0 ∧ 0 ≤ live.time := by decide +kernel

/-- ADDI s5, s5, 1 at device address 0. -/
def addi1 : Instr := .addi h0 ⟨5, 5, 1⟩
def program : State := State.reset.stage (encode addi1)
theorem ready_of {s v : State} {b : Bundle} {l ops : List Instr} (h : (s.presentOps b l).2 = .ready ops) (hv : v = (s.presentOps b l).1) :
    s.presentOps b l = (v, .ready ops) := Prod.ext hv.symm h
/-- The last cycle of a quantum; and its end, with another context ready. -/
def lastCycle : State := program.modCc fun k => { k with quantum := 4095 }
def quantumOver : State := program.modCc fun k => { k with quantum := 4096, ctx := k.ctx.set 3 (k.getCtx 0) }
def reserved : State := liveCx fun c => { c with life := .reserved }
theorem witness_ContextsStartAndIssue :
    (reserved.cx.life = .reserved ∧ reserved.cx.preempt = false ∧ reserved.cx.startAt ≤ reserved.time) ∧
    (lastCycle.issue = none ∧ (lastCycle.core c0).freeze = none ∧ (lastCycle.core c0).sel = 0 ∧ (lastCycle.core c0).quantum < 4096 ∧
      lastCycle.eligible c0 0 = true ∧ (lastCycle.ctx c0 0).decoupled = false ∧
      lastCycle.sliceBlocked c0 0 false = false ∧ (lastCycle.ctx c0 0).waitA = .none ∧ (atBundle lastCycle c0 0).fetch = .bundle (encode addi1) ∧
      firstDefect (encode addi1) (((bundleOps (encode addi1)).filter (nestBad (presented lastCycle c0 0))).map fun i => ((slotOf i).toNat, 9)) = none) ∧
    (∃ v, (presented lastCycle c0 0).presentOps (encode addi1) (ofSlice (presented lastCycle c0 0).cx false (bundleOps (encode addi1))) = (v, .ready [addi1])) ∧
    (quantumOver.issue = none ∧ 4096 ≤ (quantumOver.core c0).quantum ∧
      ([(quantumOver.core c0).sel + 1, (quantumOver.core c0).sel + 2, (quantumOver.core c0).sel + 3].find? (quantumOver.ready c0)) = some 3) := by
  and_intros
  all_goals first | exact ⟨_, ready_of (by decide +kernel) rfl⟩ | decide +kernel
def aReport : Report := ⟨2, false, 0, 0, false, ⟨0x112, 4, 0x100, 0x10000⟩, 0, 0⟩
def reported : State := liveCx fun c => { c with reports := [aReport] }
def leaving : State := liveCx fun c => { c with life := .leaving }
/-- The stream has been asked for a pre-emption whose deadline has just passed. -/
def overdue : State :=
  { (liveCx fun c => { c with preempt := true, deadline := 5 }).modStream live.cx.stream fun x => { x with preempt := some (5, none) } with time := 6 }
theorem witness_ContextsStartIssueTrapAndLeave :
    (reported.issue = none ∧ reported.cx.life = .running ∧ reported.cx.hmode = false ∧ reported.cx.waitX.stops = false ∧
      reported.cx.waitA.stops = false ∧ pickReport reported.cx.reports = some aReport ∧ reported.cx.decoupled = false) ∧
    (leaving.mayLeave c0 0 = true ∧ (leaving.cores.map (·.1)) = [0] ∧ leaving.ctxsOf leaving.cx.stream = [(c0, 0)] ∧
      (leaving.streams.any fun y => y.key == leaving.cx.stream) = true ∧ (leaving.stream leaving.cx.stream).out = false ∧
      (leaving.stream leaving.cx.stream).kill = none) ∧
    (let key := live.cx.stream
     (overdue.streams.any fun y => y.key == key) = true ∧ (overdue.stream key).preempt = some (5, none) ∧ (overdue.stream key).kill = none ∧
     (c0, 0) ∈ overdue.ctxsOf key) ∧
    (let s : State := { live.modQ 0 0 (fun q => { q with state := .enabled, word := 0x10000 }) with time := 65536 }
     let st := s.stream live.cx.stream
     (s.streams.any fun y => y.key == live.cx.stream) = true ∧ st.out = false ∧ st.lastCharge + 65536 ≤ s.time ∧
     (s.qrec st.die st.q).urgent = false ∧ (s.qrec st.die st.q).state = .enabled) := by decide +kernel
/-- A context late at a pre-emption; and one that has issued HALT and has not left, under a KILL. -/
theorem witness_ContextsAreLate :
    Late overdue (overdue.stream live.cx.stream) (overdue.ctx c0 0) 5 ∧
    (let s : State := { (liveCx fun c => { c with life := .leaving }).modQ 0 0 (fun q => { q with killing := true }) with time := 6 }
     (s.stream live.cx.stream).die = 0 ∧ (s.stream live.cx.stream).q = 0 ∧ Late s (s.stream live.cx.stream) (s.ctx c0 0) 5) := by
  unfold Late
  decide +kernel
theorem witness_CoresListed : CoresListed live := by
  refine ⟨?_, ?_⟩ <;> decide +kernel

/-- Two pages for a save area, at 0x20000 in frames 0x40000 and 0x50000. -/
def areas (s : State) : State :=
  let e := fun (n : Nat) => 0x5A + 2 ^ 92 + n
  { s with mem := writeNat (writeNat s.mem (hbmKey 0 (stageLast + 32)) 16 (e 0x40000)) (hbmKey 0 (stageLast + 48)) 16 (e 0x50000) }
def saving : State := areas (liveCx fun c => { c with life := .saving, saveArea := 0x20000 })
def areaLeaf (n : Nat) : Leaf := ⟨BitVec.ofNat 128 (0x5A + 2 ^ 92 + 0x10000 * n), false, stageLast + 16 * (n - 2)⟩
def area : List (Place × Nat) := [(.dev 0 0x40000 (areaLeaf 4), 65536), (.dev 0 0x50000 (areaLeaf 5), 65536)]
theorem witness_ContextsAreSaved :
    saving.issue = none ∧ saving.cx.life = .saving ∧ (saving.qrec (saving.stream saving.cx.stream).die (saving.stream saving.cx.stream).q).killing = false ∧
    saving.saveCheck (saving.stream saving.cx.stream).asid saving.cx.saveArea = 0 ∧ saving.quiet c0 0 = true ∧
    (saving.reqs.any fun y => y.core == c0 && y.ctx == 0) = false ∧ saving.cx.reports = [] ∧ saving.cx.pend = [] ∧
    saving.span (saving.stream saving.cx.stream).asid saving.cx.saveArea 131072 false true false = .ok area ∧
    saving.areaStill saving.cx.saveArea = true ∧
    hbmKey 0 0x40000 + 65536 ≤ hbmKey 0 0x50000 ∧ saving.memOk = true := by decide +kernel
/-- The same by the owner of a chain. -/
theorem witness_OwnersAreSaved :
    let s : State := { saving with cores := (saving.modCc fun k => { k with owner := some 0 }).cores }
    s.quiet c0 0 = true ∧ ((s.core c0).owner == some 0) = true ∧ s.cx.life = .saving ∧ s.memOk = true ∧
    s.span (s.stream s.cx.stream).asid s.cx.saveArea 131072 false true false = .ok area := by decide +kernel
/-- An area whose image holds nothing but its version. -/
def restoring : State :=
  let s := areas (liveCx fun c => { c with life := .restoring })
  { s.modStream live.cx.stream fun x => { x with saved := [⟨0, 0x20000, Vector.replicate 8 0, 0, 0, []⟩] } with
    mem := writeNat s.mem (hbmKey 0 0x40000) 1 1 }
theorem witness_ContextsAreSavedAndRestored :
    let st := restoring.stream restoring.cx.stream
    (st.saved.find? fun v => v.rank == restoring.cx.rank.toNat) = some ⟨0, 0x20000, Vector.replicate 8 0, 0, 0, []⟩ ∧
    restoring.cx.life = .restoring ∧ restoring.cx.preempt = false ∧ restoring.cx.startAt ≤ restoring.time ∧
    restoring.span st.asid 0x20000 131072 false false false = .ok area ∧ restoring.still area = true ∧ restoring.spanPoison area = false := by decide +kernel
theorem readByte_blank {m : Memory} {a : Nat} (h : ∀ c ∈ m, c.1 ≠ a) : readByte m a = 0#8 := by
  induction m with
  | nil => rfl
  | cons c r ih =>
    have hc := h c (by simp)
    simp only [readByte, beq_iff_eq, Ne.symm hc, if_false]
    exact ih fun x hx => h x (by simp [hx])
theorem readBytes_blank {m : Memory} (n : Nat) : ∀ (a : Nat), (∀ c ∈ m, c.1 < a ∨ a + n ≤ c.1) → readBytes m a n = List.replicate n 0#8 := by
  induction n with
  | zero => intro a _; rfl
  | succ n ih =>
    intro a h
    rw [readBytes, readByte_blank fun c hc => by have := h c hc; omega, ih (a + 1) fun c hc => by have := h c hc; omega,
      List.replicate_succ]
theorem natOfBytes_zeros (n : Nat) : natOfBytes (List.replicate n 0#8) = 0 := by
  induction n with
  | zero => rfl
  | succ n ih => simp [List.replicate_succ, natOfBytes, ih]
theorem natAt_blank (k o n : Nat) : natAt (1#8 :: List.replicate k 0#8) (o + 1) n = 0 := by
  simp [natAt, List.take_replicate, natOfBytes_zeros]
/-- 02 R435: an image that holds nothing but its version passes the check. -/
theorem blank_ok {k : Nat} : imageOk (1#8 :: List.replicate k 0#8) = true := by
  have hz : ∀ o n, 0 < o → natAt (1#8 :: List.replicate k 0#8) o n = 0 := fun o n h => by
    obtain ⟨j, rfl⟩ : ∃ j, o = j + 1 := ⟨o - 1, by omega⟩
    exact natAt_blank _ _ _
  have h0 : natAt (1#8 :: List.replicate k 0#8) 0 8 = 1 := by
    simp [natAt, List.take_replicate, natOfBytes, natOfBytes_zeros]
  simp [imageOk, queueBad, zeroAt, hz, h0]
theorem restoring_image : restoring.spanRead area = 1#8 :: List.replicate 131071 0#8 := by
  have h1 : readBytes restoring.mem (hbmKey 0 0x40000) 65536 = 1#8 :: List.replicate 65535 0#8 := by
    have hb : readByte restoring.mem (hbmKey 0 0x40000) = 1#8 := by decide +kernel
    show readByte restoring.mem (hbmKey 0 0x40000) :: readBytes restoring.mem (hbmKey 0 0x40000 + 1) 65535 = _
    rw [hb, readBytes_blank 65535 _ (by decide +kernel)]
  have h2 : readBytes restoring.mem (hbmKey 0 0x50000) 65536 = List.replicate 65536 0#8 := readBytes_blank 65536 _ (by decide +kernel)
  have e1 : restoring.readDev (.dev 0 0x40000 (areaLeaf 4)) 65536 = readBytes restoring.mem (hbmKey 0 0x40000) 65536 := by
    have ht : (areaLeaf 4).pte.tolerant = false := by decide +kernel
    simp only [State.readDev, ht, Bool.false_and, Bool.false_eq_true, if_false, Place.key]
  have e2 : restoring.readDev (.dev 0 0x50000 (areaLeaf 5)) 65536 = readBytes restoring.mem (hbmKey 0 0x50000) 65536 := by
    have ht : (areaLeaf 5).pte.tolerant = false := by decide +kernel
    simp only [State.readDev, ht, Bool.false_and, Bool.false_eq_true, if_false, Place.key]
  simp only [State.spanRead, area, List.flatMap_cons, List.flatMap_nil, e1, e2, h1, h2, List.append_nil, List.cons_append,
    List.replicate_append_replicate]
theorem witness_ImageIsOk : imageOk (restoring.spanRead area) = true ∧ (natAt (restoring.spanRead area) 0x28 8).testBit 17 = false := by
  rw [restoring_image]
  exact ⟨blank_ok, by rw [natAt_blank 131071 0x27 8]; rfl⟩

theorem natOfBytes_zero {l : List Byte} (h : ∀ b ∈ l, b = 0#8) : natOfBytes l = 0 := by
  rw [List.eq_replicate_of_mem h, natOfBytes_zeros]
theorem natAt_zero {l : List Byte} {o n : Nat} (h : ∀ i, o ≤ i → i < o + n → l.getD i 0 = 0#8) : natAt l o n = 0 := by
  refine natOfBytes_zero fun b hb => ?_
  obtain ⟨i, hi, rfl⟩ := List.mem_iff_getElem.mp hb
  have hl : i < n ∧ o + i < l.length := by simp at hi; omega
  have := h (o + i) (by omega) (by omega)
  simpa [List.getD_eq_getElem?_getD, hl.2] using this
theorem natAt_sub (l : List Byte) {a n o k : Nat} (h : o + k ≤ n) : natAt ((l.drop a).take n) o k = natAt l (a + o) k := by
  simp only [natAt, List.drop_take, List.take_take, List.drop_drop]
  rw [Nat.min_eq_left (by omega)]
/-- The same area with an image that holds a chain of bf16 inputs. -/
def rechaining : State :=
  { restoring with mem := writeNat (writeNat restoring.mem (hbmKey 0 0x4002A) 1 2) (hbmKey 0 0x53348) 2 0x9999 }
/-- The image as one run of bytes. -/
def chained : List Byte := rechaining.spanRead area
theorem chained_pages : chained = readBytes rechaining.mem (hbmKey 0 0x40000) 65536 ++ readBytes rechaining.mem (hbmKey 0 0x50000) 65536 := by
  have e1 : rechaining.readDev (.dev 0 0x40000 (areaLeaf 4)) 65536 = readBytes rechaining.mem (hbmKey 0 0x40000) 65536 := by
    have ht : (areaLeaf 4).pte.tolerant = false := by decide +kernel
    simp only [State.readDev, ht, Bool.false_and, Bool.false_eq_true, if_false, Place.key]
  have e2 : rechaining.readDev (.dev 0 0x50000 (areaLeaf 5)) 65536 = readBytes rechaining.mem (hbmKey 0 0x50000) 65536 := by
    have ht : (areaLeaf 5).pte.tolerant = false := by decide +kernel
    simp only [State.readDev, ht, Bool.false_and, Bool.false_eq_true, if_false, Place.key]
  simp only [chained, State.spanRead, area, List.flatMap_cons, List.flatMap_nil, e1, e2, List.append_nil]
theorem chained_low {o n : Nat} (h : o + n ≤ 65536) : natAt chained o n = readNat rechaining.mem (hbmKey 0 0x40000 + o) n := by
  rw [chained_pages, ← natAt_readBytes _ _ _ _ _ h]
  simp only [natAt, List.drop_append, List.take_append]
  rw [show n - ((readBytes rechaining.mem (hbmKey 0 0x40000) 65536).drop o).length = 0 by
    simp only [List.length_drop, length_readBytes]; omega]
  simp
theorem chained_high {o n : Nat} (h : o + n ≤ 65536) : natAt chained (65536 + o) n = readNat rechaining.mem (hbmKey 0 0x50000 + o) n := by
  rw [chained_pages, ← natAt_readBytes _ _ _ _ _ h]
  simp only [natAt, List.drop_append, length_readBytes]
  rw [List.drop_of_length_le (by simp only [length_readBytes]; omega)]
  simp
theorem chained_blank {i : Nat} (h : i ≠ 0) (h1 : i ≠ 0x2A) (h2 : i < 0x13348 ∨ 0x1334A ≤ i) : chained.getD i 0 = 0#8 := by
  have hm : ∀ c ∈ rechaining.mem, c.1 < hbmKey 0 0x40000 ∨ c.1 = hbmKey 0 0x40000 ∨ c.1 = hbmKey 0 0x4002A ∨ c.1 = hbmKey 0 0x53348 ∨
      c.1 = hbmKey 0 0x53349 ∨ hbmKey 0 0x60000 ≤ c.1 := by decide +kernel
  have hk : ∀ a, hbmKey 0 a = hbmKey 0 0 + a := fun a => by simp only [hbmKey]; omega
  by_cases hl : i < 131072
  · rw [chained_pages]
    by_cases hi : i < 65536
    · rw [List.getD_append _ _ _ _ (by rwa [length_readBytes]), getD_readBytes _ _ _ _ hi]
      refine readByte_blank fun c hc => ?_
      have := hm c hc
      rw [hk 0x40000, hk 0x4002A, hk 0x53348, hk 0x53349, hk 0x60000] at this
      rw [hk 0x40000]
      omega
    · rw [List.getD_append_right _ _ _ _ (by rw [length_readBytes]; omega), length_readBytes, getD_readBytes _ _ _ _ (by omega)]
      refine readByte_blank fun c hc => ?_
      have := hm c hc
      rw [hk 0x40000, hk 0x4002A, hk 0x53348, hk 0x53349, hk 0x60000] at this
      rw [hk 0x50000]
      omega
  · refine List.getD_eq_default _ _ ?_
    rw [chained_pages, List.length_append, length_readBytes, length_readBytes]
    omega
theorem witness_ChainsAreRestored :
    imageOk chained = true ∧ (natAt chained 0x28 8).testBit 17 = true ∧ (rechaining.core c0).owner = none ∧
    rechaining.span (rechaining.stream rechaining.cx.stream).asid 0x20000 131072 false false false = .ok area := by
  have hz : ∀ o n, 0 < o → (o + n ≤ 0x2A ∨ 0x2B ≤ o) → (o + n ≤ 0x13348 ∨ 0x1334A ≤ o) → natAt chained o n = 0 := fun o n h h1 h2 =>
    natAt_zero fun i hi hn => chained_blank (by omega) (by omega) (by omega)
  have h0 : natAt chained 0 8 = 1 := by rw [chained_low (by decide)]; decide +kernel
  have h28 : natAt chained 0x28 8 = 2 ^ 17 := by rw [chained_low (by decide)]; decide +kernel
  obtain ⟨x, hx⟩ : ∃ x, chainOfImage ((chained.drop 0x7000).take imageBytes) (imagePfmt chained) = some x := by
    have hc : natAt ((chained.drop 0x7000).take imageBytes) 0xC340 192 = 0x9999 * 2 ^ 64 := by
      rw [natAt_sub _ (by decide), chained_high (o := 0x3340) (by decide)]; decide +kernel
    refine image_taken (by rw [hc]; decide +kernel) ?_ ?_
    · rw [hc, imagePfmt, chained_low (by decide)]; decide +kernel
    · rw [natAt_sub _ (by decide)]; exact hz _ _ (by decide) (by decide) (by decide)
  refine ⟨?_, by rw [h28]; decide, by decide +kernel, by decide +kernel⟩
  simp [imageOk, queueBad, zeroAt, hz, h0, h28, hx, List.range, List.range.loop]

/-! ### Frames and slots -/

/-- Slot `k` of the second frame may begin on die 0, with changes to the die. -/
def slotAt (k : Nat) (f : Die → Die) : State :=
  { (liveDie fun x => f { x with frames := 2, slots := 128 + k }) with time := 22400 }
/-- A load that is held for a page of the kind in entry `e`. -/
def stalled (why : HeldWhy) : State :=
  (after (.deviceMemoryRequest 2) (after ldFar (livePte 0x3C))).modReq 2 fun r => { r with phase := .held why }
def faultSlot (e : Nat) (f : Die → Die) : State :=
  let s := (stalled .unbacked).modDie 0 fun x => f { x with frames := 2, slots := 129 }
  { s with time := 22400, mem := writeNat s.mem (hbmKey 0 stageLast) 16 e }
/-- A HOLD with CNT that is done: its completion is due. -/
def doneHold : QCmd :=
  { id := 7, q := 0, index := 0, cmd := BitVec.ofNat 512 0x104, pos := 0, status := 0, phase := .due, bce := none, stream := 0, kind := 1, a := 0, b := 0
    regs := Vector.replicate 4 0, pages := [] }
def settled : State := slotAt 2 fun x => { x with qcmds := [doneHold], ctrOwner := x.ctrOwner.set 0 0 }
/-- A fired FLAG action of tenant 0: 5 to flag 2 of core 0. -/
def flagAction : FrankEntry := ⟨Vector.ofFn fun i => if i.val = 1 then 0x2000000 else if i.val = 4 then 0x200 else if i.val = 5 then 5 else 0, 0, 0, true⟩
def asking : State :=
  let s := slotAt 6 fun x => x
  { s with fns := s.fns.set 0 { s.fn 0 with busy := true, req := ((s.fn 0).req.set 0 2).set 1 30 } }
def otherSched : Vector (BitVec 8) 128 := schedDefault.set 0 4
def newFrame (f : Die → Die) : State := { (liveDie f) with time := 11200 }

theorem witness_SlotsBegin :
    (slotAt 0 fun x => { x with sched := x.sched.set 0 0 }).slotDue 0 0 = true ∧ (slotAt 0 id).slotDue 0 1 = true ∧
    ((slotAt 1 id).slotDue 0 2 = true ∧ heldAt (slotAt 1 id) 0 = [] ∧ ((slotAt 1 id).die 0).hostMigr = []) ∧
    ((slotAt 2 id).slotDue 0 3 = true ∧ ((slotAt 2 id).die 0).calls = [] ∧ ((slotAt 2 id).die 0).asks = [] ∧
      (∀ st ∈ (slotAt 2 id).streams, (slotAt 2 id).abandoned st = false) ∧ ∀ m ∈ ((slotAt 2 id).die 0).qcmds, m.phase ≠ .due) ∧
    (settled.slotDue 0 3 = true ∧ ((settled.die 0).qcmds.filter fun m => m.phase == .due) = [doneHold] ∧ doneHold.kind = 1 ∧
      cmdRec doneHold.cmd = false ∧ cmdCnt doneHold.cmd = true ∧ (settled.die 0).calls = [] ∧ (settled.die 0).asks = [] ∧
      (∀ st ∈ settled.streams, settled.abandoned st = false) ∧
      (settled.die 0).ctrOwner.getD (cmdCidx doneHold.cmd) 0xFF = (settled.qrec 0 doneHold.q).owner) ∧
    ((slotAt 4 id).slotDue 0 4 = true ∧ ((slotAt 4 id).die 0).fired = []) ∧
    ((slotAt 6 id).slotDue 0 6 = true ∧ (slotAt 6 id).mailboxes 0 = [] ∧ (slotAt 6 id).mgmt = []) ∧
    (let s : State := { slotAt 6 id with mgmt := [.getEid] }
     s.slotDue 0 6 = true ∧ s.mailboxes 0 = [] ∧ s.mgmt = [.getEid]) ∧ (slotAt 7 id).slotDue 0 5 = true ∧
    (asking.slotDue 0 6 = true ∧ asking.mailboxes 0 = [0] ∧ ((asking.fn 0).req.getD 0 0).extractLsb' 0 8 = 2 ∧
      ((asking.fn 0).req.getD 1 0).toNat ≤ 255) := by decide +kernel
theorem witness_FaultSlots :
    (let s := faultSlot 0x3A id
     s.slotDue 0 2 = true ∧ heldAt s 0 = s.reqs ∧ s.reqs.length = 1 ∧ (s.die 0).hostMigr = [] ∧ s.devStill 0 = true ∧
     ∀ r ∈ s.reqs, (s.walk 0 r.asid (vaOff r.heldVa)).map (·.pte.kind) = some 2 ∧
      (reqNeeds r).2.1 = false) ∧
    (let s := faultSlot 0x3C fun x => { x with reserve := [0x20000] }
     s.slotDue 0 2 = true ∧ heldAt s 0 = s.reqs ∧ s.reqs.length = 1 ∧ (s.die 0).reserve = [0x20000] ∧ s.memOk = true ∧ (s.die 0).hostMigr = [] ∧ s.devStill 0 = true ∧
     ∀ r ∈ s.reqs, (s.walk 0 r.asid (vaOff r.heldVa)).any (fun l => l.pte.kind == 4 && !l.big && !l.pte.tagged && decide (l.at_ + 16 ≤ 0x20000)) =
      true) := by decide +kernel
theorem witness_FramesAndSlotsDoTheirWork :
    (let s := slotAt 4 fun x => { x with fired := [flagAction] }
     s.slotDue 0 4 = true ∧ (s.die 0).fired = [flagAction] ∧ (flagAction.words.getD 1 0).extractLsb' 24 2 = 2 ∧
     partCore (s.die 0) flagAction.tenant ((flagAction.words.getD 4 0).extractLsb' 0 8).toNat = some 0 ∧ (s.core ⟨0, 0⟩).fwaits = []) ∧
    (((newFrame id).die 0).up = true ∧ ((newFrame id).die 0).frames * 11200 ≤ (newFrame id).time ∧
      ((newFrame id).die 0).frames * 128 ≤ ((newFrame id).die 0).slots ∧ ((newFrame id).die 0).schedNext = none) ∧
    ((newFrame fun x => { x with schedNext := some otherSched }).die 0).schedNext = some otherSched ∧
    ((newFrame fun x => { x with routeNext := some (Vector.replicate 32768 0) }).die 0).schedNext = none ∧
    (newFrame fun x => { x with routeNext := some (Vector.replicate 32768 0) }).packets = [] ∧
    (let s := newFrame fun x => { x with routeNext := some (Vector.replicate 32768 0) }
     (s.die 0).routes.getD 5 0 ≠ (Vector.replicate 32768 (0 : BitVec 16)).getD 5 0) := by decide +kernel
theorem witness_RouteSwitch : ((newFrame id).die 0).routeNext = none ∧
    ((newFrame fun x => { x with routeNext := some (Vector.replicate 32768 0) }).die 0).routeNext = some (Vector.replicate 32768 0) := ⟨rfl, rfl⟩

/-! ### Queues -/

/-- An ENABLED queue 1 of tenant 0 with a command that has been handed over; ring at 0x8000, completions at 0x9000. -/
def queueOne : QueueRec :=
  { QueueRec.reset with word := 0x10000, rbase := 0x8000, cbase := 0x9000, ctl := 0x4044, tail := 1, handed := 1, state := .enabled }
def queued (b : Bundle) (f : QueueRec → QueueRec) (g : Die → Die) : State :=
  let s := liveDie fun x => g { x with ctrOwner := x.ctrOwner.set 0 0, frankOwner := x.frankOwner.set 5 0, queues := x.queues.set 1 (f queueOne) }
  { s with mem := writeNat s.mem (hbmKey 0 0x8000) 64 b.toNat }
def cmdOf (w : List Nat) : Bundle := BitVec.ofNat 512 (natOfBytes (wordsBytes 8 w))
/-- COPY of 64 bytes; SIGNAL of 77; HOLD until counter 0 is 0; ARM of entry 5, FLAG on counter 0 at 0; COPY with a reserved bit. -/
def copyCmd : Bundle := cmdOf [2, 0x1000, 0x2000, 64]
def signalCmd : Bundle := cmdOf [3, 0x1008, 77, 0]
def holdCmd : Bundle := cmdOf [4, 0, 0]
def armCmd : Bundle := cmdOf [5, 0x2000005, 0, 1, 0x200, 5]
def badCmd : Bundle := cmdOf [0x802, 0x1000, 0x2000, 64]
/-- A command of queue 1 in a phase. -/
def atWork (b : Bundle) (ph : CmdPhase) : QCmd :=
  { id := 7, q := 1, index := 0, cmd := b, pos := 0, status := 0, phase := ph, bce := none, stream := 0, kind := 1, a := 0, b := 0
    regs := Vector.replicate 4 0, pages := [] }
/-- Every bulk copy engine has 16 copies. -/
def full (x : Die) : Die :=
  { x with qcmds := (List.range 128).map fun i => { atWork copyCmd .queued with id := i, bce := some (BitVec.ofNat 3 i) } }
theorem witness_QueueCommandsStart :
    ((queued badCmd id id).mayStart 0 1 badCmd 2 = true ∧ commandOk ((queued badCmd id id).die 0) 1 ((queued badCmd id id).qrec 0 1).owner badCmd = false) ∧
    ((queued copyCmd id id).mayStart 0 1 copyCmd 2 = true ∧
      commandOk ((queued copyCmd id id).die 0) 1 ((queued copyCmd id id).qrec 0 1).owner copyCmd = true ∧
      ∀ k, (queued copyCmd id id).bulkRoom 0 k = true) ∧
    ((queued copyCmd id full).mayStart 0 1 copyCmd 2 = true ∧ (∀ k, (queued copyCmd id full).bulkRoom 0 k = false) ∧
      commandOk ((queued copyCmd id full).die 0) 1 ((queued copyCmd id full).qrec 0 1).owner copyCmd = true) ∧
    ((queued signalCmd id id).mayStart 0 1 signalCmd 3 = true ∧
      commandOk ((queued signalCmd id id).die 0) 1 ((queued signalCmd id id).qrec 0 1).owner signalCmd = true) ∧
    ((queued holdCmd id id).mayStart 0 1 holdCmd 4 = true ∧
      commandOk ((queued holdCmd id id).die 0) 1 ((queued holdCmd id id).qrec 0 1).owner holdCmd = true) ∧
    ((queued armCmd id id).mayStart 0 1 armCmd 5 = true ∧
      commandOk ((queued armCmd id id).die 0) 1 ((queued armCmd id id).qrec 0 1).owner armCmd = true) := by decide +kernel

/-- A launch of one core, relative core 1, at 0x100, with the descriptor at 0x3000 and parameter 9. -/
def launchCmd : Bundle := cmdOf [1, 0x3000, 9, 3]
def descriptor (row : Nat) : List Nat := [1, 0x100, 0, 0x10000, 0x200, 0, 0, 0, 0, 0, 0, 0, row, 0, 0, 0]
def launching (row : Nat) (f : QueueRec → QueueRec) (g : State → State) : State :=
  let s := queued launchCmd f id
  g { s with mem := writeBytes s.mem (hbmKey 0 0x3000) (wordsBytes 8 (descriptor row)) }
/-- Every context of core 0 is held. -/
def crowd (s : State) : State := s.modCc fun c => { c with ctx := Vector.replicate 4 (c.getCtx 0) }
/-- What the descriptor of a launch comes to, with a property of its bytes. -/
theorem launch_of {s : State} {d : BitVec 2} {q : BitVec 8} {b : Bundle} {p : List Byte → Prop} [DecidablePred p]
    (h : (match s.checkLaunch d q b with | .ok l => decide (p l) | _ => false) = true) : ∃ l, s.checkLaunch d q b = .ok l ∧ p l := by
  cases hc : s.checkLaunch d q b with
  | ok l => rw [hc] at h; exact ⟨l, rfl, by simpa using h⟩
  | _ => rw [hc] at h; cases h
def rowOf (s : State) (l : List Byte) : List (BitVec 8) := (rowList (BitVec.ofNat 256 (natAt l 0x60 32))).filterMap (partCore (s.die 0) 0)
theorem witness_QueueCommandsStartAndLaunchesPlaceStreams :
    (let s := launching 0 id id
     s.mayStart 0 1 launchCmd 1 = true ∧ commandOk (s.die 0) 1 (s.qrec 0 1).owner launchCmd = true ∧ (s.qrec 0 1).owner = 0 ∧
       s.checkLaunch 0 1 launchCmd = .rejected 2) ∧
    (let s := launching 2 id id
     s.mayStart 0 1 launchCmd 1 = true ∧ commandOk (s.die 0) 1 (s.qrec 0 1).owner launchCmd = true ∧ (s.qrec 0 1).owner = 0 ∧
       ∃ l, s.checkLaunch 0 1 launchCmd = .ok l ∧ (rowOf s l = [1] ∧ s.placeable 0 1 (rowOf s l) = true)) ∧
    (let s := launching 1 (fun r => { r with passes := 7 }) crowd
     s.mayStart 0 1 launchCmd 1 = true ∧ commandOk (s.die 0) 1 (s.qrec 0 1).owner launchCmd = true ∧ (s.qrec 0 1).owner = 0 ∧
       (s.qrec 0 1).mayPreempt = false ∧
       ∃ l, s.checkLaunch 0 1 launchCmd = .ok l ∧ (rowOf s l = [0] ∧ s.placeable 0 1 (rowOf s l) = false)) ∧
    (let s := launching 1 (fun r => { r with word := 0x1100 }) crowd
     s.mayStart 0 1 launchCmd 1 = true ∧ commandOk (s.die 0) 1 (s.qrec 0 1).owner launchCmd = true ∧ (s.qrec 0 1).mayPreempt = true ∧
       ∃ l, s.checkLaunch 0 1 launchCmd = .ok l ∧ (rowOf s l = [0] ∧ s.placeable 0 1 (rowOf s l) = false)) := by
  and_intros
  all_goals first | exact launch_of (by decide +kernel) | decide +kernel

theorem fetch_idle {s : State} {d : BitVec 2} {q : BitVec 8} (h : (s.qrec d q).waiting = false) : s.fetchHead d q = s := by
  simp [State.fetchHead, h]
theorem fetch_read {s : State} {d : BitVec 2} {q : BitVec 8} (h : (s.headCmd d q).isSome = true) : s.fetchHead d q = s := by
  simp only [State.headCmd, State.fetchHead] at h ⊢
  split
  · rfl
  · rename_i hw
    rw [if_neg hw] at h
    cases ho : s.officeRead d q (s.qrec d q).asid ((s.qrec d q).cmdAddr (s.qrec d q).head) 64 with
    | ok l x => rfl
    | _ => rw [ho] at h; simp at h
/-- Only queue 1 may have a head, and it can be read. -/
theorem fetches {s : State} {d : BitVec 2} (h1 : (s.headCmd d 1).isSome = true ∨ (s.qrec d 1).waiting = false)
    (h : (((List.range 256).map (BitVec.ofNat 8)).all fun q => q == 1 || !(s.qrec d q).waiting) = true) (q : BitVec 8) : s.fetchHead d q = s := by
  by_cases hq : q = 1
  · subst hq
    rcases h1 with h1 | h1
    · exact fetch_read h1
    · exact fetch_idle h1
  · have := List.all_eq_true.mp h q (List.mem_map.mpr ⟨q.toNat, List.mem_range.mpr q.isLt, by simp⟩)
    simp only [Bool.or_eq_true, beq_iff_eq, Bool.not_eq_true'] at this
    exact fetch_idle (this.resolve_left hq)
def urgentOne : State := queued signalCmd (fun r => { r with word := 0x100 }) id
/-- HOLD until counter 0 is 1. -/
def waitCmd : Bundle := cmdOf [4, 0, 1]
theorem witness_DispatchServesTheNextQueue :
    ((∀ q, live.fetchHead 0 q = live) ∧ (live.die 0).up = true ∧ live.urgentHead 0 = none ∧ live.nextNormal 0 = none) ∧
    ((∀ q, urgentOne.fetchHead 0 q = urgentOne) ∧ (urgentOne.die 0).urgentRun < 8 ∧ urgentOne.urgentHead 0 = some 1 ∧
      (urgentOne.qrec 0 1).resume = [] ∧ urgentOne.headCmd 0 1 = some signalCmd ∧ cmdOpc signalCmd = 3 ∧
      commandOk (urgentOne.die 0) 1 (urgentOne.qrec 0 1).owner signalCmd = true) ∧
    (let s := queued signalCmd (fun r => { r with head := 1 }) id
     (∀ q, s.fetchHead 0 q = s) ∧ s.urgentHead 0 = none ∧ s.nextNormal 0 = some 1 ∧ (s.qrec 0 1).resume = [] ∧
       (s.qrec 0 1).handed = (s.qrec 0 1).head) ∧
    (let s := queued waitCmd id id
     (∀ q, s.fetchHead 0 q = s) ∧ s.urgentHead 0 = none ∧ s.nextNormal 0 = some 1 ∧ (s.qrec 0 1).handed ≠ (s.qrec 0 1).head ∧
       s.queueReady 0 1 = false) ∧
    (let s := queued signalCmd id id
     (∀ q, s.fetchHead 0 q = s) ∧ s.urgentHead 0 = none ∧ s.nextNormal 0 = some 1 ∧ (s.qrec 0 1).resume = [] ∧
       s.headCmd 0 1 = some signalCmd ∧ commandOk (s.die 0) 1 (s.qrec 0 1).owner signalCmd = true ∧
       0 < (s.qrec 0 1).deficit + (s.qrec 0 1).quantum) := by
  and_intros
  all_goals first | exact fetches (by decide +kernel) (by decide +kernel) | decide +kernel

/-- Such a command on a die in a retirement slot. -/
def working (b : Bundle) (ph : CmdPhase) (f : QueueRec → QueueRec) : State :=
  queued 0 f fun x => { x with qcmds := [atWork b ph], slots := 131 }
/-- MAP of page 5 to the frame at 0x60000, with R, W and X. -/
def mapPage : Bundle := cmdOf [7, 0x20000, 0x50000, 0x6003A, 0, 1]
def recCmd : Bundle := cmdOf [0x204, 0, 0]
def draining (f : QueueRec → QueueRec) : State := queued 0 (fun r => f { r with state := .draining }) id
/-- An access of die 0 that lies in one piece. -/
theorem span_of {s : State} {asid : BitVec 12} {va : Word} {n : Nat} {rd wr tags : Bool}
    (h : (match s.span asid va n rd wr tags with | .ok l => (match l with | [(p, m)] => p.isDev && m == n | _ => false) | _ => false) = true) :
    ∃ p, Local p ∧ s.span asid va n rd wr tags = .ok [(p, n)] := by
  cases hs : s.span asid va n rd wr tags with
  | ok l =>
    rw [hs] at h
    match l, h with
    | [(p, m)], h =>
      simp only [Bool.and_eq_true, beq_iff_eq] at h
      exact ⟨p, local_of h.1, by rw [h.2]⟩
  | _ => rw [hs] at h; cases h
theorem witness_QueueCommandsWork :
    (let s := working signalCmd .moving id
     (s.die 0).qcmd? 7 = some (atWork signalCmd .moving) ∧ s.memOk = true ∧ cmdOpc signalCmd = 3 ∧
       (cmdWord signalCmd 3).getLsbD 0 = false ∧ s.inTurn 0 (s.qrec 0 1).owner = true ∧
       ∃ p, Local p ∧ s.span (s.qrec 0 1).asid (cmdWord signalCmd 1) 8 false true false = .ok [(p, 8)]) ∧
    (let s := working mapPage .moving id
     cmdOpc mapPage = 7 ∧ s.mapSlots 0 (s.qrec 0 1).owner (mapCmd mapPage) = some [(0x50000, stageLast + 16 * 5)] ∧
       leavesOf s 0 (mapCmd mapPage).lvl 0x50000 (s.pteAt 0 (stageLast + 16 * 5)) = []) ∧
    (let s := working mapPage (.leases 0) id
     (s.die 0).qcmd? 7 = some (atWork mapPage (.leases 0)) ∧ 0 ≤ s.time ∧ (atWork mapPage (.leases 0)).pages = []) ∧
    (let m : QCmd := { atWork copyCmd .queued with bce := some 7 }
     let s := queued 0 id fun x => { x with qcmds := [m] }
     (s.die 0).qcmd? 7 = some m ∧ (s.die 0).up = true ∧ s.copyMayStart 0 m = true) ∧
    (let s := working copyCmd .moving id
     (s.die 0).qcmd? 7 = some (atWork copyCmd .moving) ∧ cmdOpc copyCmd = 2 ∧ cmdBits copyCmd 3 51 48 = 0 ∧
       (cmdWord copyCmd 3).getLsbD 52 = false ∧ s.inTurn 0 (s.qrec 0 1).owner = true ∧ 0 < cmdBits copyCmd 3 47 0 ∧ s.poison = [] ∧
       (∃ p, Local p ∧ s.span (s.qrec 0 1).asid (cmdWord copyCmd 1 + BitVec.ofNat 64 0) 64 true false false = .ok [(p, 64)]) ∧
       ∃ p, Local p ∧ s.span (s.qrec 0 1).asid (cmdWord copyCmd 2 + BitVec.ofNat 64 0) 64 false true false = .ok [(p, 64)]) := by
  and_intros
  all_goals first | exact span_of (by decide +kernel) | decide +kernel
theorem witness_QueueCommandsWorkCompleteAndDrain :
    (let s := working recCmd .due id
     (s.die 0).qcmd? 7 = some (atWork recCmd .due) ∧ (s.die 0).activity = 3 ∧ cmdRec recCmd = true ∧ cmdCnt recCmd = false ∧ s.memOk = true ∧
       ((s.qrec 0 1).ctail - (s.qrec 0 1).chead).toNat < 2 ^ (s.qrec 0 1).clog ∧
       ∃ p, Local p ∧ s.span (s.qrec 0 1).asid ((s.qrec 0 1).cbase + BitVec.ofNat 64 (64 * ((s.qrec 0 1).ctail.toNat % 2 ^ (s.qrec 0 1).clog)))
         64 false true false = .ok [(p, 64)]) ∧
    (let s := working recCmd .due fun r => { r with ctail := 16 }
     (s.die 0).qcmd? 7 = some (atWork recCmd .due) ∧ (s.die 0).activity = 3 ∧
       2 ^ (s.qrec 0 1).clog ≤ ((s.qrec 0 1).ctail - (s.qrec 0 1).chead).toNat) ∧
    (let s := draining id
     s.drained 0 1 = true ∧ (s.die 0).up = true ∧ s.memOk = true ∧
       ((s.qrec 0 1).ctail - (s.qrec 0 1).chead).toNat < 2 ^ (s.qrec 0 1).clog ∧
       ∃ p, Local p ∧ s.span (s.qrec 0 1).asid ((s.qrec 0 1).cbase + BitVec.ofNat 64 (64 * ((s.qrec 0 1).ctail.toNat % 2 ^ (s.qrec 0 1).clog)))
         64 false true false = .ok [(p, 64)]) ∧
    (let s := draining fun r => { r with ctail := 16 }
     s.drained 0 1 = true ∧ 2 ^ (s.qrec 0 1).clog ≤ ((s.qrec 0 1).ctail - (s.qrec 0 1).chead).toNat) := by
  and_intros
  all_goals first | exact span_of (by decide +kernel) | decide +kernel

/-- An ENQUEUE to queue 1 of the command at 0xA000, which has waited for room. -/
def enqueueAction : FrankEntry := ⟨Vector.ofFn fun i => if i.val = 4 then 1 else if i.val = 5 then 0xA000 else 0, 0, 0, true⟩
def franking : State := queued 0 (fun r => { r with head := 1 }) fun x => { x with fired := [enqueueAction], frankLeft := 1, slots := 133 }
theorem witness_CountersFireFrankingEntries :
    (franking.die 0).up = true ∧ (franking.die 0).activity = 4 ∧ 0 < (franking.die 0).frankLeft ∧ (franking.die 0).fired = [enqueueAction] ∧
    (enqueueAction.words.getD 1 0).extractLsb' 24 2 = 0 ∧ (enqueueAction.words.getD 4 0).setWidth 8 = 1#8 ∧
    (franking.qrec 0 1).owner = enqueueAction.tenant ∧ (franking.qrec 0 1).state = .enabled ∧
    ((franking.qrec 0 1).tail - (franking.qrec 0 1).head).toNat < 2 ^ (franking.qrec 0 1).rlog ∧ franking.memOk = true ∧
    (∃ p, Local p ∧ franking.span enqueueAction.asid (enqueueAction.words.getD 5 0) 64 true false false = .ok [(p, 64)]) ∧
    (∃ p, Local p ∧ franking.span (franking.qrec 0 1).asid ((franking.qrec 0 1).cmdAddr (franking.qrec 0 1).tail) 64 false true false = .ok [(p, 64)]) := by
  and_intros
  all_goals first | exact span_of (by decide +kernel) | decide +kernel

/-! ### The host -/

def disabled (f : QueueRec → QueueRec) : State := queued 0 (fun r => f { r with state := .disabled }) id
theorem witness_HostWritesReachTheirRegisters :
    State.reset.hostOpen 0 = false ∧ live.hostOpen 0 = true ∧ live.hostOpen 16 = true ∧
    (live.qrec 0 2).owner ≠ (0 : BitVec 5).setWidth 8 ∧
    (let s := queued 0 id id
     (s.qrec 0 1).owner = (0 : BitVec 5).setWidth 8 ∧ (s.die 0).up = true ∧ (s.qrec 0 1).state = .enabled ∧
       (((16 : BitVec 32) - (s.qrec 0 1).head).toNat ≤ 2 ^ (s.qrec 0 1).rlog ∧
         ((s.qrec 0 1).tail - (s.qrec 0 1).head).toNat ≤ ((16 : BitVec 32) - (s.qrec 0 1).head).toNat) ∧
       2 ^ (s.qrec 0 1).rlog < ((17 : BitVec 32) - (s.qrec 0 1).head).toNat ∧
       ((0 : BitVec 32) - (s.qrec 0 1).head).toNat < ((s.qrec 0 1).tail - (s.qrec 0 1).head).toNat) ∧
    (((disabled id).qrec 0 1).state = .disabled ∧ enableOk ((disabled id).die 0) ((disabled id).qrec 0 1) = true) ∧
    enableOk ((disabled fun r => { r with ctl := 0x4034 }).die 0) ((disabled fun r => { r with ctl := 0x4034 }).qrec 0 1) = false ∧
    ((0x38080 : BitVec 18).toNat = 0x38080 ∧ (4 : BitVec 18).toNat % 8 ≠ 0 ∧ (0x10 : BitVec 18).toNat = 0x10 ∧ (0xFF8 : BitVec 18).toNat < 0x1000) ∧
    ((0x17F8 : BitVec 18).toNat = 0x1000 * ((0 : BitVec 2).toNat + 1) + 8 * (255 : BitVec 8).toNat ∧
      (0x13FF8 : BitVec 18) = 1#2 ++ 0#2 ++ 255#8 ++ 7#3 ++ 0#3 ∧
      (0x209F8 : BitVec 18).toNat = 0x20200 + 0x1000 * (0 : BitVec 2).toNat + 8 * (255 : BitVec 8).toNat ∧
      (0x30FF8 : BitVec 18).toNat = 0x30000 + 0x1000 * (0 : BitVec 2).toNat + 8 * 511 ∧ (live.die 0).up = true) ∧ (live.fn 0).busy = false ∧ (asking.fn 0).busy = true := by
  decide +kernel
/-- BAR2 offset 0 is device address 0 of die 0. -/
theorem witness_Bar2 :
    let va := bar2Addr (bar2Size (live.fn 0).bar2 30) 0x100
    live.windowAsid ((0 : BitVec 5).setWidth 8) = some 0 ∧ (live.die (vaDie va)).asidOwner.getD 0 0xFF = (0 : BitVec 5).setWidth 8 ∧
    live.memOk = true ∧ live.poison = [] ∧
    (∃ p, Local p ∧ live.span 0 va 4 false true false = .ok [(p, 4)]) ∧ (∃ p, Local p ∧ live.span 0 va 4 true false false = .ok [(p, 4)]) ∧
    live.windowAsid ((1 : BitVec 5).setWidth 8) = none := by
  and_intros
  all_goals first | exact span_of (by decide +kernel) | decide +kernel
/-- Each boundary of the tenancy tables. -/
theorem witness_TenancyTablesAreThePhysicalFunctions :
    live.hostOpen 1 = true ∧ (live.die 0).up = true ∧ assigned (live.qrec 0 0) 0 0 = none ∧ assigned (live.qrec 0 1) 1 0x11 = none ∧
    assigned (live.qrec 0 1) 1 0xFF ≠ none ∧ assigned (live.qrec 0 1) 1 0x10 ≠ none ∧ (0x11 : BitVec 8).toNat = 17 ∧ (0x10 : BitVec 8).toNat ≤ 16 ∧
    ((live.die 0).clusterOwner.getD 0 0xFF = 0 ∧ live.clusterBusy 0 0 = true ∧ live.clusterBusy 0 15 = false) ∧
    (live.die 0).asidOwner.getD 0 0xFF = 0 ∧ (live.die 0).asidOwner.getD 4095 0xFF ≠ 0 ∧ live.memOk = true := by decide +kernel

/-! ### Kills and resets -/

theorem witness_KillsAndResetsEndStreams :
    (live.streams.map (·.key)).Nodup ∧
    (let s := queued 0 id id
     s.hostOpen 0 = true ∧ (s.qrec 0 1).owner = (0 : BitVec 5).setWidth 8 ∧ (s.die 0).up = true ∧ (s.qrec 0 1).state = .enabled) ∧
    ((draining id).qrec 0 1).state = .draining ∧ (16 : BitVec 5).toNat < 17 ∧ 17 ≤ (17 : BitVec 5).toNat ∧ (16 : BitVec 8).toNat < 17 ∧
    (live.cx.life ≠ .free ∧ (live.streams.any fun y => y.key == live.cx.stream) = true ∧ (live.stream live.cx.stream).kill = none) ∧
    live.island.updating = none ∧ ({ live with island := { live.island with updating := some (firstImage 1 0) } } : State).island.updating ≠ none ∧
    (let s : State := { live with streams := [] }
     (s.die 0).up = true ∧ (s.die 0).qcmds = [] ∧ (∀ st ∈ s.streams, st.die ≠ 0) ∧ ∀ p ∈ s.packets, p.die = 0 → p.phase ≠ .sent) ∧
    (live.die 1).up = false := by decide +kernel

/-! ### Mailbox commands -/

/-- Each bound of an operand, from both sides; a die without tables; a journal with one entry. -/
theorem witness_MailboxCommandsSetTheirFields :
    live.hostOpen 0 = true ∧ live.hostOpen 1 = true ∧ (live.die 0).up = true ∧
    decide (700 ≤ 700 ∧ 700 ≤ 700000) = true ∧ decide (700 ≤ 700001 ∧ 700001 ≤ 700000) = false ∧ decide (255 ≤ 255) = true ∧
    decide (256 ≤ 255) = false ∧
    (let s := liveDie fun x => { x with roots := [] }
     s.anyTagged 0 = false ∧ decide (0x20000 + 2048 * 4 ≤ hbmSize) = true ∧ decide (0x20000 + 2048 * hbmSize ≤ hbmSize) = false) ∧
    (let s : State := { live with island := { live.island with journal := [⟨1, 1, 0, 0, 0, 0⟩] } }
     s.island.journal.filter (fun e => e.start.toNat == 1) ≠ [] ∧ s.island.journal.filter (fun e => e.start.toNat == 2) = []) ∧
    ((liveDie fun x => { x with quiesce := x.quiesce.set 0 (some 9) }).die 0).quiesce.getD 0 none = some 9 ∧
    (live.die 0).quiesce.getD 0 none = none ∧ (1 ≤ 28 ∧ 28 ≤ 28 ∧ 12290 + 28 ≤ 30 + 3 * 4096) ∧
    ¬ (1 ≤ 28 ∧ 28 ≤ 28 ∧ 12291 + 28 ≤ 30 + 3 * 4096) := by decide +kernel

/-- MIGRATE of page 0 of ASID 0, outward. -/
def outward : List Word := [0, 0, 1]
/-- A fault slot of die 0 with that migration in its fault queue, and the page's entry. -/
def moving (out : Bool) (e : Nat) (f : Die → Die) : State :=
  { slotAt 1 (fun x => f { x with hostMigr := [⟨0, 1, 0, 0, out⟩], hwin := 0 }) with mem := (livePte e).mem, time := 2 ^ 22 }
abbrev inQueue (s : State) (out : Bool) (kind : BitVec 4) : Prop :=
  (s.die 0).hostMigr = [⟨0, 1, 0, 0, out⟩] ∧ heldAt s 0 = [] ∧ s.slotDue 0 2 = true ∧ s.devStill 0 = true ∧ 1 < s.nextId ∧ s.memOk = true ∧
  ∃ e, s.walk 0 0 0 = some e ∧ (e.pte.kind = kind ∧ e.big = false ∧ e.at_ + 16 ≤ hbmSize ∧ e.pte.addr + 65536 ≤ hbmSize ∧
    (e.at_ + 16 ≤ 0x30000 ∨ 0x30000 + 65536 ≤ e.at_))
abbrev movable (s : State) : Prop := ∃ e, s.walk 0 0 0 = some e ∧ (e.pte.pin = false ∧ inWindow s 0 e.pte = false)
/-- A page at home and away, moved either way; without a frame, and with one. -/
theorem witness_MigrationsMove :
    (live.hostOpen 0 = true ∧ (live.die 0).up = true ∧ (live.die 0).asidOwner.getD 0 0xFF = (0 : BitVec 5).setWidth 8 ∧ localForm live 0 = true ∧
      vaDie 0 = 0 ∧ (outward.getD 2 0).toNat ≤ 1 ∧ (∀ h ∈ (live.die 0).hostMigr, h.fn ≠ 0) ∧ ∃ h ∈ ((moving true 0x3A id).die 0).hostMigr, h.fn = 0) ∧
    (inQueue (moving true 0x3A id) true 2 ∧ movable (moving true 0x3A id) ∧ (moving true 0x3A id).framePinned 0 0 = false) ∧
    (inQueue (moving false 0x4003B id) false 3 ∧ movable (moving false 0x4003B id) ∧ ((moving false 0x4003B id).die 0).reserve = []) ∧
    (inQueue (moving false 0x4003B fun x => { x with reserve := [0x30000] }) false 3 ∧
      ((moving false 0x4003B fun x => { x with reserve := [0x30000] }).die 0).reserve = [0x30000]) ∧
    (inQueue (moving true 0x4003B id) true 3 ∧ inQueue (moving false 0x3A id) false 2 ∧ inQueue (moving true 0x3C id) true 4 ∧
      inQueue (moving false 0x3D id) false 5) ∧
    (inQueue (moving true (0x3A + 2 ^ 92) id) true 2) ∧
    (∃ e, (moving true (0x3A + 2 ^ 92) id).walk 0 0 0 = some e ∧ e.pte.pin = true) ∧
    (live.die 0).asidOwner.getD 4095 0xFF ≠ (0 : BitVec 5).setWidth 8 := by
  and_intros
  all_goals first | exact finds (by decide +kernel) | decide +kernel
/-- A route image of zeros in a page that nothing has been written to, in frame 0x90000. -/
def routeImage : State := { live with mem := writeNat live.mem (hbmKey 0 (stageLast + 16)) 16 0x9003A }
def imageLeaf : Leaf := ⟨0x9003A, false, stageLast + 16⟩
theorem routeImage_span : routeImage.span 0 0x10000 65536 true false false = .ok [(.dev 0 0x90000 imageLeaf, 65536)] := by decide +kernel
theorem routeImage_read : routeImage.spanRead [(.dev 0 0x90000 imageLeaf, 65536)] = List.replicate 65536 0#8 := by
  have ht : imageLeaf.pte.tolerant = false := by decide +kernel
  have e1 : routeImage.readDev (.dev 0 0x90000 imageLeaf) 65536 = readBytes routeImage.mem (hbmKey 0 0x90000) 65536 := by
    simp only [State.readDev, ht, Bool.false_and, Bool.false_eq_true, if_false, Place.key]
  have h : readBytes routeImage.mem (hbmKey 0 0x90000) 65536 = List.replicate 65536 0#8 := readBytes_blank 65536 _ (by decide +kernel)
  simp only [State.spanRead, List.flatMap_cons, List.flatMap_nil, e1, h, List.append_nil]
theorem zeros_getD (n i : Nat) : (List.replicate n 0#8).getD i 0 = 0#8 := by
  rw [List.getD_eq_getElem?_getD, List.getElem?_replicate]
  split <;> rfl
theorem witness_PagesAndRoutesChangeOnRequest :
    routeImage.hostOpen 0 = true ∧ (routeImage.die 0).routeNext = none ∧ (0x10000 : Word).toNat % 65536 = 0 ∧ routeImage.windowAsid 0 = some 0 ∧
    ∃ p, routeImage.span 0 0x10000 65536 true false false = .ok p ∧ onDie 0 p = true ∧ routeImage.still p = true ∧ (routeImage.spanRead p).length = 65536 ∧
      ∀ i, i < 32768 → ((routeImage.spanRead p).getD (2 * i) 0).toNat < 16 ∧ (routeImage.spanRead p).getD (2 * i + 1) 0 = 0 := by
  refine ⟨by decide +kernel, rfl, by decide +kernel, by decide +kernel, _, routeImage_span, by decide +kernel, by decide +kernel, ?_, fun i _ => ?_⟩
  · rw [routeImage_read, List.length_replicate]
  · rw [routeImage_read, zeros_getD, zeros_getD]
    decide

/-! ### The torus -/

/-- A load of a word of package 5, and its packet. -/
def remoteReq (s : State) : State := s.modReq 2 fun r => { r with phase := .remote }
def aPacket : Packet :=
  { id := 9, die := 0, dest := 5, who := .req 2, tenant := 0, asid := 0, va := 0x100, wr := false, vc := 0, data := []
    phase := .waiting, port := 0, detour := false }
/-- Die 0's route to package 5, what a change of routes would make of it, and the packet, with changes. -/
def routed (e : BitVec 16) (next : Option (BitVec 16)) (f : Packet → Packet) : State :=
  let s := remoteReq (after ldFar live)
  { s.modDie 0 fun x => { x with portUp := 1, routes := Vector.replicate 32768 e, routeNext := next.map fun n => Vector.replicate 32768 n } with
    packets := [f aPacket] }
/-- The packet may leave, if its request still wants it and it is the first of its stream of packets. -/
abbrev mayLeave (s : State) (p : Packet) : Prop :=
  (s.packets.find? fun p => p.id == 9) = some p ∧ p.phase = .waiting ∧ s.packetWanted p = true ∧ s.packetTurn p = true
theorem witness_PacketsFollowTheRouteTable :
    (mayLeave (routed 0 none id) aPacket ∧ (routed 0 none id).torusExit 0 5 = .port 0 0) ∧
    (mayLeave (routed 8 none fun p => { p with who := .transit }) { aPacket with who := .transit } ∧
      (routed 8 none fun p => { p with who := .transit }).torusExit 0 5 = .port 0 0) ∧
    (mayLeave (routed 6 none id) aPacket ∧ (routed 6 none id).torusExit 0 5 = .here) ∧
    (mayLeave (routed 7 none id) aPacket ∧ (routed 7 none id).torusExit 0 5 = .unreachable ∧
      (routed 5 none id).torusExit 0 5 = .unreachable ∧ ((routed 7 none id).req? 2).isSome = true ∧ (routed 7 none id).cx.life = .running) ∧
    (mayLeave (routed 0 (some 1) id) aPacket ∧ (routed 0 (some 1) id).torusExit 0 5 = .held) ∧
    (routed 0 none fun p => { p with who := .req 77 }).packetWanted { aPacket with who := .req 77 } = false ∧
    (let s : State := { routed 0 none id with packets := [{ aPacket with id := 8 }, aPacket] }
     (s.packets.find? fun p => p.id == 9) = some aPacket ∧ s.packetTurn aPacket = false) ∧
    (let p : Packet := { aPacket with phase := .sent }
     let s := routed 0 none fun _ => p
     (s.packets.find? fun p => p.id == 9) = some p ∧ s.packetWanted p = true) ∧
    (let p : Packet := { aPacket with phase := .held 0 }
     let s : State := { routed 0 (some 1) (fun _ => p) with time := 700001 }
     (s.packets.find? fun p => p.id == 9) = some p ∧ 0 + 700000 < s.time ∧ ({ s with time := 700000 } : State).time ≤ 0 + 700000) ∧
    (let p : Packet := { aPacket with who := .posted }
     let s : State := { routed 0 none id with packets := [], torusIn := [p] }
     (∀ x ∈ s.packets, x.id ≠ 9) ∧ (s.torusIn.find? fun p => p.id == 9) = some p ∧ (s.die 0).up = true ∧ (s.die 1).up = false) ∧
    (let s : State := { routed 0 none id with packets := [] }
     (s.die 0).up = true ∧ (0 : BitVec 3).toNat < 6 ∧ (s.die 0).portUp.getLsbD 0 = true ∧ (s.die 0).linkto ≤ 70000 ∧ 69999 < (s.die 0).linkto ∧
       (∀ p ∈ s.packets, p.die = 0 → p.port = 0 → p.phase ≠ .sent) ∧
       s.chanRoom 0 (4 * (0 : BitVec 3).toNat + (3 : BitVec 2).toNat) = true) := by decide +kernel
/-- Where a packet of another package writes and reads here. -/
theorem witness_PacketsAreDelivered :
    (∃ p, Local p ∧ live.span 0 (live.routed 0 (0x100 &&& localBits)) 8 false true false = .ok [(p, 8)]) ∧
    (∃ p, Local p ∧ live.span 0 (live.routed 0 (0x100 &&& localBits)) 64 true false false = .ok [(p, 64)]) :=
  ⟨span_of (by decide +kernel), span_of (by decide +kernel)⟩

/-! ### The island -/

def atStep (n : Nat) (f : Island → Island) : State := { State.reset with island := f { State.reset.island with step := n } }
def badImage : FirmwareImage := firstImage 9 0
theorem key_digest : sha3 [4] = Island.reset.aroftKey := by decide +kernel
theorem island_digest : sha3 [1] = Island.reset.island.digest := by decide +kernel
theorem slotA_digest : sha3 [2] = Island.reset.slotA.digest := by decide +kernel
theorem slotB_digest : sha3 [3] = Island.reset.slotB.digest := by decide +kernel
theorem bad_digest : sha3 [9] ≠ 0 := by decide +kernel
theorem verifies_of {i : Island} {b : Byte} {d : BitVec 256} (hk : i.aroftKey = Island.reset.aroftKey) (hr : i.rollback = 0) (h : sha3 [b] = d) :
    i.verifies (firstImage b d) = true := by
  simp [Island.verifies, firstImage, h, hk, hr]
  exact key_digest
theorem bad_fails (i : Island) : i.verifies badImage = false := by
  simp [Island.verifies, badImage, firstImage]
  exact fun h => absurd h bad_digest
/-- A digest that differs in one bit, a foreign key, a signature over another version, and a version behind the rollback value. -/
theorem witness_ImagesVerify :
    let i := Island.reset
    i.verifies i.slotA = true ∧ i.verifies { i.slotA with digest := i.slotA.digest ^^^ 1 } = false ∧
    i.verifies { i.slotA with key := [9], signature := { i.slotA.signature with key := [9] } } = false ∧
    i.verifies { i.slotA with svn := 1 } = false ∧ ({ i with rollback := 1 } : Island).verifies i.slotA = false := by
  have h : sha3 [9] ≠ Island.reset.aroftKey := by decide +kernel
  have hd : Island.reset.slotA.digest ≠ Island.reset.slotA.digest ^^^ 1 := by decide
  simp [Island.verifies, Island.reset, firstImage] at h hd ⊢
  simp [h]
  exact ⟨slotA_digest, key_digest⟩
def noSlot : State := atStep 2 fun i => { i with slotA := badImage, slotB := badImage }
theorem witness_AStartTakesItsEightSteps :
    (atStep 1 id).island.hold = false ∧ (atStep 1 fun i => { i with hold := true }).island.hold = true ∧ (atStep 1 id).island.step = 1 ∧
    (let i := (atStep 1 id).island; i.romGood = true ∧ i.key = none ∧ i.hotDies = 0 ∧ i.renewed = false) ∧
    (let i := (atStep 1 fun i => { i with key := some 5, hotDies := 1, renewed := true, bootsel := some 1 }).island
     i.key = some 5 ∧ i.hotDies ≠ 0 ∧ i.renewed = true ∧ i.bootsel = some 1) ∧
    (atStep 1 fun i => { i with romGood := false }).island.romGood = false ∧ stepUnits 8 ≠ 0 ∧
    (let i := (atStep 2 id).island; i.step = 2 ∧ i.hold = false ∧ i.sel = none ∧ i.activated = none) ∧
    (let i := (atStep 2 fun i => { i with activated := some 1 }).island; i.firstSlot = 1 ∧ i.activated = some 1) ∧
    (let i := (atStep 2 fun i => { i with sel := some 1, slotB := badImage }).island; i.firstSlot = 1 ∧ i.step = 2) ∧
    (∀ n ∈ [3, 4, 5, 6, 7, 8], (atStep n id).island.step = n ∧ (atStep n id).island.hold = false) ∧ State.reset.memOk = true := by decide +kernel
/-- The images of those starts. -/
theorem witness_StartsVerifyTheirImages :
    (let i := (atStep 1 fun i => { i with hotDies := 1, renewed := true }).island; i.verifies i.island = true) ∧
    (let i := (atStep 1 fun i => { i with island := badImage }).island; i.verifies i.island = false) ∧
    (let i := (atStep 2 id).island; i.verifies (i.slot i.firstSlot) = true) ∧
    (let i := (atStep 2 fun i => { i with activated := some 1 }).island; i.verifies (i.slot 1) = true) ∧
    (let i := (atStep 2 fun i => { i with sel := some 1, slotB := badImage }).island
     i.verifies (i.slot i.firstSlot) = false ∧ i.verifies (i.slot (~~~i.firstSlot)) = true) ∧
    (let i := noSlot.island; i.verifies (i.slot i.firstSlot) = false ∧ i.verifies (i.slot (~~~i.firstSlot)) = false) :=
  ⟨verifies_of rfl rfl island_digest, bad_fails _, verifies_of rfl rfl slotA_digest, verifies_of rfl rfl slotB_digest,
    ⟨bad_fails _, verifies_of rfl rfl slotA_digest⟩, bad_fails _, bad_fails _⟩
theorem witness_TheIslandAnswersAndControls :
    (let i := live.island; (i.pcieGood && !i.recovery && (i.booted || decide (7 ≤ i.step))) = true) ∧
    (let i := State.reset.island; (i.pcieGood && !i.recovery && (i.booted || decide (7 ≤ i.step))) = false) ∧
    (16 : BitVec 5).toNat < 17 ∧ 17 ≤ (17 : BitVec 5).toNat ∧ live.island.askers.headD .mctp = .mctp ∧
    (∀ fn, ({ live.island with askers := [.doe fn] } : Island).askers = .doe fn :: [] ∧
      ({ live.island with askers := [.doe fn] } : Island).askers.headD .mctp = .doe fn) ∧
    ({ live.island with spdmOnlyVersion := true } : Island).spdmOnlyVersion = true ∧ live.island.spdmOnlyVersion = false ∧ live.island.updating = none ∧
    live.island.key = none ∧ ({ live.island with key := some 5 } : Island).key = some 5 ∧
    (7 : BitVec 8).toNat < 8 ∧ (23 : BitVec 8).toNat < 24 ∧ ((0 : BitVec 8) = 0 ∧ 8 ≤ (8 : BitVec 8).toNat) ∧
    ((1 : BitVec 8) = 1 ∧ 24 ≤ (24 : BitVec 8).toNat) ∧ 2 ≤ (2 : BitVec 8).toNat ∧ (600 ≤ (600 : BitVec 16).toNat ∧ (2200 : BitVec 16).toNat ≤ 2200) ∧
    ((599 : BitVec 16).toNat < 600 ∧ 2200 < (2201 : BitVec 16).toNat) ∧ live.island.running = 0 ∧ live.island.recovery = false ∧
    ({ live.island with running := 1, updating := some badImage } : Island).updating = some badImage ∧
    (let i : Island := { live.island with recovery := true, island := badImage, updating := some badImage }
     i.recovery = true ∧ i.island = badImage ∧ i.updating = some badImage) ∧ 8 * 0x17FFF + 8 ≤ 0xC0000 ∧
    32 * 0xBFFFFFFF + 32 ≤ hbmSize := by decide +kernel

/-! ### Decoding and the step -/

/-- The first and the last operation of the table's slots, with every kind of operand field at its largest value. -/
theorem witness_EncodingAnOperationAndDecodingItGivesItBack :
    addi1.isSlotOp = true ∧ addi1.wf = true ∧
    (let i : Instr := .vfma ⟨2, 1, 3, 1, 15, some ⟨true, 1, true, true, 63, 0xFFFF, 0xFFFF⟩⟩ ⟨31, 31, 31, 31, 10, 7, 0, 3⟩
     i.isSlotOp = true ∧ i.wf = true) ∧
    (let i : Instr := .st ⟨5, 1, 3, 1, 15, none⟩ ⟨63, 63, 0, 2, 3, 11, 2, 0x1FFFFF⟩
     i.isSlotOp = true ∧ i.fieldsOk = true) := by decide +kernel
/-- 05 R112, R114: reserved opcodes of the S space at both ends of their ranges; and an assigned one. -/
theorem witness_ReservedOpcodesAreIllegalInTheirSlot :
    (∀ n ∈ [0x1C, 0x20, 0x36, 0x37, 0x3C, 0x7F, 0x85, 0xBF, 0xCA, 0x1FF], (rawSlot (oneSlot 0 (BitVec.ofNat 9 n ++ 0#51)) 0).opc = n ∧
      (rawSlot (oneSlot 0 (BitVec.ofNat 9 n ++ 0#51)) 0).modf = 0 ∧ reservedOpcode (slotCls 0) n = true) ∧
    ((rawSlot (encode addi1) 0).modf = 0 ∧ (rawSlot (encode addi1) 0).opc ≠ 0 ∧
      reservedOpcode (slotCls 0) (rawSlot (encode addi1) 0).opc = false) ∧
    (rawSlot (oneSlot 0 ((1#60 <<< 46))) 0).modf = 0 ∧ (rawSlot 0x100 0).modf = 1 := by decide +kernel

def quiet : State := { live with cores := [] }
theorem witness_AStepExecutesTheDecodedOperation :
    (program.issue = none ∧ program.dueEvents = [] ∧ program.pick = some (.bundleIssue c0) ∧ (program.core c0).freeze = none ∧
      (program.core c0).sel = 0 ∧ (program.core c0).quantum < 4096 ∧ program.eligible c0 0 = true ∧ (program.ctx c0 0).decoupled = false ∧
      program.sliceBlocked c0 0 false = false ∧ (program.ctx c0 0).waitA = .none ∧ (atBundle program c0 0).fetch = .bundle (encode addi1) ∧
      decodeBundle (encode addi1) = .ops [addi1] ∧ nestBad (presented program c0 0) addi1 = false) ∧
    (∃ v, (presented program c0 0).presentOps (encode addi1) [addi1] = (v, .ready [addi1])) ∧
    (let k := program.ctx c0 0
     let pc := codeAddr (k.nextPc false)
     k.codeBase.toNat ≤ pc.toNat ∧ pc.toNat < k.codeLimit.toNat ∧
       (match program.placeAt c0.die (program.stream k.stream).asid pc false false false with
        | .dev d _ l => program.leaf (vaDie pc) (program.stream k.stream).asid (vaOff pc) == some l && program.devStill d && l.pte.x
        | _ => false) = true ∧ program.poison = []) ∧
    ((newFrame id).issue = none ∧ (newFrame id).dueEvents.head?.isSome = true) ∧
    (State.reset.issue = none ∧ State.reset.dueEvents = [] ∧ State.reset.pick = some .bootStart ∧
      (match exec .bootStart (State.reset.dropInput .bootStart) with | .next t => t.issue.isNone | _ => false) = true) ∧
    (quiet.issue = none ∧ quiet.dueEvents = [] ∧ quiet.pick = none) := by
  and_intros
  all_goals first | exact ⟨_, ready_of (by decide +kernel) rfl⟩ | decide +kernel
theorem witness_EveryStepKeepsMemoryCanonical : live.memOk = true ∧ ∃ t, step live = .next t := by
  refine ⟨by decide +kernel, ?_⟩
  have h : (match step live with | .next _ => true | _ => false) = true := by decide +kernel
  cases hs : step live with
  | next t => exact ⟨t, rfl⟩
  | _ => rw [hs] at h; cases h
/-- 01 R20, 04 R96: the step that issues ADDI s5, s5, 1 lands 1 in s5 and goes on at the next bundle. -/
theorem test_step_adds : (match step program with
    | .next t => (t.ctx c0 0).s.getD 5 0 == 1 && (t.ctx c0 0).pc == 64 && t.issue.isNone
    | _ => false) = true := by decide +kernel

/-! ### Values that the spec works out -/

/-- What an instruction leaves to land: the last value, in the bits it writes. -/
def lands (i : Instr) (s : State) : Vec :=
  match (after i s).cx.pend.getLast? with
  | some p => p.val &&& p.mask
  | none => 0
def withS (a b : Word) : State := liveCx fun c => { c with s := (c.s.set 6 a).set 7 b }
/-- 06 R131, the results of narrow integer operations. -/
theorem test_narrow_integers :
    let s := withS 0xF0 3
    lands (.add h0 ⟨5, 6, 7, 0, 0⟩) s = 0xFFFFFFFFFFFFFFF3 ∧ lands (.add h0 ⟨5, 6, 7, 4, 0⟩) s = 0xF3 ∧
    lands (.shr h0 ⟨5, 6, 7, 0, 0⟩) s = 0x1E ∧ lands (.sra h0 ⟨5, 6, 7, 4, 0⟩) s = 0xFE ∧
    lands (.div h0 ⟨5, 6, 7, 0, 0⟩) s = 0xFFFFFFFFFFFFFFFB ∧ lands (.divn h0 ⟨5, 6, 7, 4, 0⟩) s = 0x50 ∧
    lands (.max h0 ⟨5, 6, 7, 0, 0⟩) s = 3 ∧ lands (.maxn h0 ⟨5, 6, 7, 4, 0⟩) s = 0xF0 ∧ lands (.clz h0 ⟨5, 6, 0, 5, 0⟩) s = 8 := by
  decide +kernel
/-- 04 R93: ADD.i8 of 90 and 60 with saturation and the bounds -100 and 100. -/
theorem test_modifiers :
    let s := withS 90 60
    lands (.add { h0 with md := some { noMod with clamp := 1, hi := 100, lo := 0xFF9C } } ⟨5, 6, 7, 0, 0⟩) s = 100 ∧
    lands (.add h0 ⟨5, 6, 7, 0, 0⟩) s = 0xFFFFFFFFFFFFFF96 ∧ lands (.add { h0 with md := some noMod } ⟨5, 6, 7, 0, 0⟩) s = 127 := by
  decide +kernel
/-- 03 R67: rounding code 00 of VADD.f32 takes FMT.RND: 1 and 3 / 2^25, to nearest and, with FMT.RND 1, toward zero. -/
theorem test_vector_rounding :
    [0x0DBB, 0x1DBB].map (fun n => (lands (.vadd h1 ⟨9, 2, 3, 0, 8, 0, 0, 0⟩)
      (liveCx fun c => { c with fmt := n, v := (c.v.set 2 0x3F800000).set 3 0x33C00000 })).extractLsb' 0 32) = [0x3F800001, 0x3F800000] := by
  decide +kernel
/-- 07 R168: 3.0, 0.358, 1000.0 and -0.0 scaled by 0.5 into g8. -/
def quants : State := liveCx fun c => { c with s := c.s.set 5 0x3F000000, v := c.v.set 2 0x80000000447A00003EB74BC740400000 }
theorem test_vquant :
    ((lands (.vquant h1 ⟨9, 2, 5, 0, 13, 0, 0, 0⟩) quants).extractLsb' 0 32) = 0x00072B68 := by decide +kernel
/-- 07 R171: 64 lanes, of which a NaN, two of 2.0, and +0 rank first. -/
def ranked : State :=
  let l := fun (j : Nat) => if j = 3 ∨ j = 9 then 0x40000000 else if j = 12 then 0x80000000 else if j = 20 then 0 else if j = 40 then 0x7FC00001 else 0xBF800000
  liveCx fun c => { c with s := (c.s.set 4 4).set 5 1000, v := c.v.set 10 (BitVec.ofNat 2048 (natOfBytes ((List.range 64).flatMap fun j => bytesOfNat (l j) 4))) }
theorem test_vtopk :
    ((after (.vtopk h1 ⟨20, 10, 4, 5, 8, 0, 0, 0⟩) ranked).cx.pend.map fun p => (p.reg, p.val.extractLsb' 0 256)) =
      [(.v 20, 0x000003FC00000000000003F140000000000003EB40000000000004107FC00000), (.v 21, 0xFFFFFFFFFF800000FFFFFFFFFF800000FFFFFFFFFF800000FFFFFFFFFF800000)] := by
  decide +kernel
/-- 08 R184: the 3-bit fields, signed and unsigned in turn, of 0x1D1. -/
def packed : State :=
  let s := liveCx fun c => { c with x := c.x.set 1 (6 + 2 ^ 7 + 2 ^ 11 + 3 * 2 ^ 27 + 3 * 2 ^ 33) }
  { s with mem := writeBytes s.mem (spadKey 0 0 0x100) [0xD1, 0x01] }
theorem test_ldx :
    (lands (.ldx h4 ⟨4, 0, 0, 0, 2, 0, 1, 0x100⟩) packed).extractLsb' 0 128 = 0x00000000FFFFFFFF0000000200000001 := by decide +kernel
/-- 08 R196: an atomic operation of a type on the word m of own scratchpad, with s5 = x. -/
def atomicMax (op ty m x : Nat) : Nat :=
  let s := liveCx fun c => { c with s := c.s.set 5 (BitVec.ofNat 64 x) }
  let t := after (.amo h7 ⟨5, 0, 0, 0, BitVec.ofNat 4 ty, 0, 0, BitVec.ofNat 21 (0x10000 + 0x20000 * op + 0x40)⟩) { s with mem := writeNat s.mem (spadKey 0 0 0x40) 4 m }
  readNat t.mem (spadKey 0 0 0x40) 4
theorem test_atomic_maxima :
    [atomicMax 5 2 0xBF800000 0xC0000000, atomicMax 7 6 0xBF800000 0xC0000000, atomicMax 10 8 0xBF800000 0xC0000000] =
      [0xC0000000, 0xC0000000, 0xBF800000] ∧
    [atomicMax 5 2 0x80000000 0, atomicMax 7 6 0x80000000 0, atomicMax 10 8 0x80000000 0] = [0, 0x80000000, 0] ∧
    [atomicMax 5 2 0x3F800000 0xFFC00000, atomicMax 7 6 0x3F800000 0xFFC00000, atomicMax 10 8 0x3F800000 0xFFC00000] =
      [0x3F800000, 0xFFC00000, 0x7FC00000] := by decide +kernel
/-- 03 R73: 455.0, 464.0 and 470.0 rounded to e4m3, saturating; 470.0 with E4OVF, to nearest and toward zero. -/
theorem test_e4m3 :
    [(roundF 11 .rne false (.fin false 455 0 false)).1, (roundF 11 .rne false (.fin false 464 0 false)).1,
      (roundF 11 .rne false (.fin false 470 0 false)).1, (roundF 11 .rne true (.fin false 470 0 false)).1,
      (roundF 11 .rtz true (.fin false 470 0 false)).1] = [0x7E, 0x7E, 0x7E, 0x7F, 0x7E] := by decide +kernel

/-! ### Engines at work -/

/-- A command at work on core 0, of context 0, and the state with it as the only one. -/
def workOf (i : Instr) : Command :=
  { id := 2, ctx := 0, acc := false, bundle := 0, handler := false, path := 0, eng := .ce0, instr := i, desc := copies.cx.v.getD 5 0, sA := 0, sB := 0
    waits := [], started := true, pos := 0, fill := 0, part := 0, partPoison := false, done := false, err := none, counted := 0, susp := false
    outA := [], outB := [], skip := 0 }
def work (s : State) (m : Command) : State := s.modCc fun k => { k with cmds := [m] }
/-- Numbers of 8 bytes at addresses of the page of `live`. -/
def placed (l : List (Nat × Nat)) : State := { live with mem := l.foldl (fun m x => writeNat m (hbmKey 0 x.1) 8 x.2) live.mem }
/-- One element of 8 bytes that ends the copy; the first of two; and a full FIFO. -/
def cpq : Command := workOf (.cpq h6 ⟨5, 0, 0, 0, 0, 0, 0, 0⟩)
def cpqTwo : Command := { cpq with desc := cpq.desc ||| 2#2048 <<< 192 &&& ~~~(1#2048 <<< 192) }
def fsFull : State := (work live cpq).modCc fun k => { k with fs := fifo 16 }
theorem witness_EntriesArePacked :
    (AtWork (work live cpq) c0 cpq ∧ FromScratchpad (work live cpq) cpq ∧ cpq.err = none ∧ goesOn cpq ∧
      (((work live cpq).core c0).fifo 0).length < 16) ∧
    (AtWork (work live cpqTwo) c0 cpqTwo ∧ FromScratchpad (work live cpqTwo) cpqTwo ∧ cpqTwo.err = none ∧ ¬goesOn cpqTwo) ∧
    (AtWork fsFull c0 cpq ∧ FromScratchpad fsFull cpq ∧ 16 ≤ ((fsFull.core c0).fifo 0).length) := by
  unfold AtWork FromScratchpad goesOn
  decide +kernel
/-- An element for channel 0 of link 0, which the stream may use or not, and which is up or down. -/
def lsend : Command := { workOf (.lsend h6 ⟨5, 0, 0, 0, 0, 0, 0, 0⟩) with desc := cpq.desc &&& ~~~(0x200#2048 <<< 64) }
def linked (grant up : Bool) : State :=
  ((work live lsend).modStream live.cx.stream fun x => { x with link := if grant then 1 else 0 }).modDie 0 fun x => { x with portUp := if up then 1 else 0 }
theorem witness_EntriesAreSent :
    ∀ g u, AtWork (linked g u) c0 lsend ∧ (copyDesc lsend.desc).dst = 0 ∧ ((linked g u).cmdStream c0 lsend).link.getLsbD 0 = g ∧
      ((linked g u).die 0).portUp.getLsbD 0 = u ∧ FromScratchpad (linked g u) lsend ∧ lsend.err = none ∧ goesOn lsend := by
  unfold AtWork FromScratchpad goesOn
  decide +kernel
/-- A compressed stream of two bytes at 0x400: one entry of a byte repeated, or of a mode that is none. -/
def wstr : Command := { workOf (.wstr h6 ⟨5, 0, 0, 0, 0, 0, 0, 0⟩) with desc := 0x400#2048 ||| 2#2048 <<< 192 ||| 1#2048 <<< 224 }
def compressed (x : Nat) : State := work (placed [(0x400, x)]) wstr
def wstrPlace : Place := .dev 0 0x400 stageLeaf
theorem witness_EntriesAreUnpacked :
    (∀ x ∈ [0x501, 0x504, 0x500], AtWork (compressed x) c0 wstr ∧ (compressed x).poison = [] ∧ wstr.skip ≤ wstr.pos ∧
      wstr.pos < (copyDesc wstr.desc).counts.getD 1 0 ∧ wstr.fill < (copyDesc wstr.desc).counts.getD 0 0 ∧ ((compressed x).core c0).fs.length < 16) ∧
    Local wstrPlace ∧ (copyDesc wstr.desc).src = 0x400 ∧ (copyDesc wstr.desc).counts.getD 0 0 = 2 ∧
    ((readByte (compressed 0x501).mem wstrPlace.key).toNat = 1 ∧ (readByte (compressed 0x504).mem wstrPlace.key).toNat = 4 ∧
      (readByte (compressed 0x500).mem wstrPlace.key).toNat = 0) := by
  refine ⟨by unfold AtWork; decide +kernel, .inl ⟨_, _, _, rfl⟩, by decide +kernel, by decide +kernel, by decide +kernel⟩
theorem witness_CompressedStreamIsReadable :
    ∀ n, n < 290 → 1 ≤ n → (compressed 0x501).near 0 ((compressed 0x501).stream live.cx.stream).tenant
      ((compressed 0x501).stream live.cx.stream).asid 0x400 n true false false = .ok [(wstrPlace, n)] := by
  decide +kernel
/-- A page at home, and one of the host. -/
def pgreq (va : Word) : Command := { workOf (.pgreq h6 ⟨5, 0, 0, 0, 0, 0, 0, 2⟩) with sA := va, sB := 1 }
theorem witness_PagesAreRequested :
    (∀ h : Bool, let m := pgreq (if h then 0x8000000000000000 else 0)
      AtWork (work live m) c0 m ∧ m.pos < (pgreqPage m m.pos).2) ∧
    live.near 0 (live.stream live.cx.stream).tenant (live.stream live.cx.stream).asid 0 1 false false true = .ok [(.dev 0 0 stageLeaf, 1)] ∧
    live.near 0 (live.stream live.cx.stream).tenant (live.stream live.cx.stream).asid 0x8000000000000000 1 false false true = .ok [(.host 0, 1)] := by
  unfold AtWork
  decide +kernel
/-- ENQ on queue 1, of the tenant and ENABLED, not ENABLED, and of another owner; FRANK of an entry that no one owns. -/
def enq : Command := { workOf (.enq h6 ⟨5, 0, 0, 0, 0, 0, 0, 0⟩) with sA := 1 }
def ringed (f : QueueRec → QueueRec) : State := work (queued 0 f id) enq
def frank : Command := { workOf (.frank h6 ⟨5, 0, 0, 0, 0, 0, 0, 0⟩) with sA := 6 }
theorem witness_CommandsAreAppended :
    (let s := ringed id
     let r := s.qrec 0 1
     AtWork s c0 enq ∧ enq.sA.setWidth 8 = 1#8 ∧ r.owner = (s.cmdStream c0 enq).tenant ∧ r.state = .enabled ∧ r.full = false ∧ s.memOk = true ∧
      s.near 0 (s.cmdStream c0 enq).tenant r.asid (r.cmdAddr r.tail) 64 false true false = .ok [(.dev 0 0x8040 stageLeaf, 64)]) ∧
    (AtWork (ringed fun q => { q with state := .disabled }) c0 enq ∧ ((ringed fun q => { q with state := .disabled }).qrec 0 1).state ≠ .enabled) ∧
    (AtWork (ringed fun q => { q with word := 0x10001 }) c0 enq ∧
      ((ringed fun q => { q with word := 0x10001 }).qrec 0 1).owner ≠ ((ringed id).cmdStream c0 enq).tenant) ∧
    (AtWork (work live frank) c0 frank ∧
      ((work live frank).die 0).frankOwner.getD (frank.sA.extractLsb' 0 9).toNat 0xFF ≠ ((work live frank).cmdStream c0 frank).tenant) := by
  unfold AtWork
  decide +kernel

/-! ### The folio and stream instructions at work (12 R308 to R325, 13 R332 to R346) -/

/-- A group at 0x400 of one head, writable or not, its sequence at 0x600, and a stream block at 0x800, cancelled or not. -/
def folio (ro cancel : Bool) : State :=
  placed [(0x400, 1 + 2 ^ 24 + 2 ^ 48 + if ro then 2 ^ 8 else 0), (0x600, 1), (0x608, 0x400), (0x800, 1 + 5 * 2 ^ 16 + if cancel then 2 ^ 32 else 0)]
/-- A step without effects has come to the answer. -/
def gives {α : Type} (f : Fol α) (s : State) (p : α → State → Prop) : Prop := ∃ a u, f s = .ok (a, u) ∧ p a u
def holds {α : Type} (f : Fol α) (s : State) (b : α → State → Bool) : Bool := match f s with | .ok x => b x.1 x.2 | _ => false
theorem gives_of {α : Type} {f : Fol α} {s : State} {p : α → State → Prop} {b : α → State → Bool} (h : holds f s b = true)
    (k : ∀ a u, b a u = true → p a u) : gives f s p := by
  unfold holds at h
  split at h
  · rename_i x hx
    exact ⟨x.1, x.2, hx, k _ _ h⟩
  · cases h
theorem given {α : Type} {f : Fol α} {s : State} {p : α → State → Prop} [∀ a u, Decidable (p a u)]
    (h : holds f s (fun a u => decide (p a u)) = true) : gives f s p := gives_of h fun _ _ hb => of_decide_eq_true hb
def refused {α : Type} (f : Fol α) (s : State) (code : Nat) (va : Word) : Bool :=
  match f s with
  | .error (.err c v) => decide (c = code) && decide (v = va)
  | _ => false
theorem refuses {α : Type} {f : Fol α} {s : State} {code : Nat} {va : Word} (h : refused f s code va = true) : f s = .error (.err code va) := by
  unfold refused at h
  split at h
  · rename_i c v hf
    simp only [Bool.and_eq_true, decide_eq_true_eq] at h
    rw [hf, h.1, h.2]
  · cases h
def kvwalk : Command := { workOf (.kvwalk h6 ⟨5, 0, 0, 0, 0, 0, 0, 0⟩) with sA := 0x600, started := false, desc := 0, eng := .walker }
def kvseal (h : Nat) : Command := { workOf (.kvseal h6 ⟨5, 0, 0, 0, 0, 0, 0, 0⟩) with sA := 0x600, sB := BitVec.ofNat 64 h, eng := .walker }
def kvtrunc (n : Nat) : Command := { workOf (.kvtrunc h6 ⟨5, 0, 0, 0, 0, 0, 0, 0⟩) with sA := 0x600, sB := BitVec.ofNat 64 n, desc := 0x200, eng := .walker }
def walker : Who := (folio false false).who c0 kvwalk
/-- Fetched entries that the FIFOs have room for. -/
def walked : Command := { kvwalk with started := true, outA := fifo 2, outB := fifo 1 }
theorem witness_WalksGoOn :
    (MayStart (work (folio false false) kvwalk) c0 kvwalk ∧
      gives (walkTarget walker kvwalk) (work (folio false false) kvwalk) fun va _ => va = 0x600) ∧
    (AtWork (work live walked) c0 walked ∧ walked.outA ≠ []) := by
  unfold AtWork MayStart
  exact ⟨⟨by decide +kernel, given (by decide +kernel)⟩, by decide +kernel⟩
theorem witness_FolioCommandsStep :
    (MayStep (work (folio false false) (kvseal 0)) c0 (kvseal 0) ∧
      gives (kvSeal walker 0x600 false 0) (work (folio false false) (kvseal 0)) fun _ _ => True) ∧
    kvSeal walker 0x600 false 1 (work (folio false false) (kvseal 1)) = .error (.err 6 0x600) ∧
    (MayStep (work (folio false false) (kvtrunc 0)) c0 (kvtrunc 0) ∧
      gives (kvTrunc walker 0x600 0) (work (folio false false) (kvtrunc 0)) fun _ u => u.memOk = true) ∧
    kvTrunc walker 0x600 1 (work (folio false false) (kvtrunc 1)) = .error (.err 6 0x600) := by
  unfold MayStep AtWork
  exact ⟨⟨by decide +kernel, given (by decide +kernel)⟩, refuses (by decide +kernel), ⟨by decide +kernel, given (by decide +kernel)⟩,
    refuses (by decide +kernel)⟩
/-- A writable group and a read-only one: one head, and no row. -/
theorem witness_GroupsAreRead :
    ∀ ro, gives (rdSeq walker true 0x600) (folio ro false) fun q s1 =>
      gives (rdGroup walker true q.group) s1 fun g s2 => g.ro = ro ∧ g.heads ≤ 1 ∧ 0 < g.heads ∧ q.next < 1 ∧
        gives (rdStage walker true q 0) s2 fun x _ => 1 ≠ x.next := fun ro =>
  gives_of (b := fun q s1 => holds (rdGroup walker true q.group) s1 fun g s2 => decide (g.ro = ro ∧ g.heads ≤ 1 ∧ 0 < g.heads ∧ q.next < 1) &&
      holds (rdStage walker true q 0) s2 fun x _ => decide (1 ≠ x.next)) (by cases ro <;> decide +kernel) fun q s1 h =>
    gives_of h fun g s2 h => by
      simp only [Bool.and_eq_true, decide_eq_true_eq] at h
      obtain ⟨⟨h1, h2, h3, h4⟩, h5⟩ := h
      exact ⟨h1, h2, h3, h4, given h5⟩
theorem witness_BlocksAreWalked :
    gives (rdSeq walker false 0x600) (folio false false) fun q s1 =>
      gives (rdGroup walker false q.group) s1 fun g s2 => gives (walkBlock walker g q 0 0 0 0 0x600 true true) s2 fun _ _ => True :=
  gives_of (b := fun q s1 => holds (rdGroup walker false q.group) s1 fun g s2 =>
    holds (walkBlock walker g q 0 0 0 0 0x600 true true) s2 fun _ _ => decide True) (by decide +kernel) fun _ _ h => gives_of h fun _ _ h => given h
/-- Stream instructions on a block at 0x800 with position 0: of the position 1; of no input; of a copy to 0x200. -/
def strm (i : Instr) : Command := { workOf i with sA := 0x800, sB := 0x200, desc := 1, eng := .queues }
def strmIn (cancel : Bool) (i : Instr) : State := work (folio false cancel) (strm i)
theorem witness_StreamInstructionsWork :
    (∀ i ∈ [Instr.strmcommit h6 ⟨5, 0, 6, 0, 0, 0, 3, 0⟩, .strmin h6 ⟨5, 0, 6, 0, 0, 0, 3, 0⟩, .strmrd h6 ⟨5, 0, 6, 0, 0, 0, 3, 0⟩], ∀ x,
      MayStep (strmIn x i) c0 (strm i) ∧ (strmIn x i).packets = [] ∧ (strmIn x i).memOk = true ∧ (strmIn x i).poison = [] ∧
      (strmIn x i).near 0 ((strmIn x i).cmdStream c0 (strm i)).tenant ((strmIn x i).cmdStream c0 (strm i)).asid 0x800 256 true true false =
        .ok [(.dev 0 0x800 stageLeaf, 256)] ∧
      (rdBlock ((strmIn x i).who c0 (strm i)) 0x800 (strmIn x i)).toOption.any (fun b => b.1.cancel == x && b.1.g == 0 && b.1.inHead == b.1.inTail) = true) := by
  unfold MayStep AtWork
  decide +kernel

/-! ### More clauses -/

/-- 07 R162 to R173: a type for each clause; a NaN and two numbers of e4m3; a lane above a target. -/
theorem witness_LanesAreCharacterised :
    ((9 : Ty).toNat < 15 ∧ (8 : Ty).toNat < 15 ∧ tyWidth 9 < tyWidth 8 ∧ 1 * tyLanes 8 + tyLanes 8 ≤ tyLanes 9 ∧ tyWidth 9 = tyWidth 10) ∧
    (tyIsFloat 4 = false ∧ tyIsFloat 11 = true ∧ (valueAt 11 0x7F 0).isNaN = true ∧ (units (valueAt 11 0x38 0)).isSome = true) ∧
    (tyIsFloat 2 = false ∧ tyIsFloat 8 = true ∧ (0 : Nat) < 3) ∧ (64 * 3 + 64 ≤ tyLanes 11 ∧ 64 * 1 + 64 ≤ tyLanes 10) ∧
    (fltLt (valueAt 8 0x3F800000 0) (valueAt 8 (0x40000000 <<< 32) 1) = true ∧
      ∀ i, i < 1 → fltLt (valueAt 8 0x3F800000 0) (valueAt 8 (0x40000000 <<< 32) i) = false) := by decide +kernel
/-- A report of the access slice of a decoupled nest, which has issued in the nest. -/
def accessReport : Report := { aReport with acc := true, bundle := 4 }
def accessReported : State :=
  liveCx fun c => { c with reports := [accessReport], nest := { Nest.none with active := true, dec := true, count := Vector.replicate 6 2, body := 64 }, nestA := 3 }
theorem witness_ReportsOfTheAccessSlice :
    accessReported.issue = none ∧ accessReported.cx.life = .running ∧ accessReported.cx.hmode = false ∧ accessReported.cx.waitX.stops = false ∧
    accessReported.cx.waitA.stops = false ∧ pickReport accessReported.cx.reports = some accessReport ∧
    (accessReport.acc && accessReported.cx.decoupled && accessReported.cx.inNest true &&
      decide (accessReported.cx.nestA ≤ accessReport.bundle)) = true := by decide +kernel
/-- 19 R423: the first and last word of each part of BAR4, DOORBELL, and what lies beyond and between. -/
theorem witness_Bar4IsReached :
    ((0xF8 : BitVec 18).toNat = 8 * 31 ∧ (0x1F8 : BitVec 18).toNat = 0x100 + 8 * 31) ∧
    ((0x208 : BitVec 18).toNat = 0x208 ∧ (0x204 : BitVec 18).toNat % 8 ≠ 0) ∧ (1 : Word).getLsbD 0 = true ∧ (2 : Word).getLsbD 0 = false ∧
    live.hostOpen 0 = true := by decide +kernel
/-- RESET in a start that has reached step 2, and in step 8. -/
theorem witness_StartsAreReset :
    (∀ n ∈ [2, 8], ({ live with island := { live.island with step := n } } : State).island.step = n ∧ 2 ≤ n ∧ n ≤ 8 ∧ 0 < stepUnits n) ∧
    State.reset.island.step < 2 := by decide +kernel

end Sys2Proof.Tests
end

section
/-! Events of the clock: rounds and turns of the slot table, and freezes (01 R36, 18 R413). -/
namespace Sys2Proof.Machine
open Sys2Proof.Claims

/-- A change of one die changes nothing but the dies. -/
theorem State.setDie_rest (s : State) (d : BitVec 2) (x : Die) : ({ s.setDie d x with dies := s.dies } : State) = s := rfl

/-- An event that sets one die answers with that die, the others and the rest as they were. -/
theorem answers_setDie {i : Instr} {s : State} {d : BitVec 2} {x : Die} (h : exec i s = .next (s.setDie d x)) :
    answers i s fun t => t.die d = x ∧ (∀ e, e ≠ d → t.die e = s.die e) ∧ ({ t with dies := s.dies } : State) = s :=
  ⟨_, h, s.die_setDie d x, fun _ he => s.die_setDie_ne x he, s.setDie_rest d x⟩

/-- 01 R36: what a round that is due makes of its die. -/
theorem exec_slotTableRound_due {s : State} {d : BitVec 2} (h : ((s.die d).rounds + 1) * 8192 ≤ s.time) :
    exec (.slotTableRound d) s = .next (s.setDie d { s.die d with
      rounds := (s.die d).rounds + 1, slotOwner := (s.die d).slotNext.getD (s.die d).slotOwner, slotNext := none
      tablegen := if (s.die d).slotNext.isSome then (s.die d).tablegen + 1 else (s.die d).tablegen }) := by
  change execSlotTableRound d s = _
  simp only [execSlotTableRound, if_neg (Nat.not_lt.mpr h)]
  cases hn : (s.die d).slotNext with
  | none => simp
  | some t => rfl

/-- 01 R36: what a turn that is due makes of its die. -/
theorem exec_slotTurn_due {s : State} {d : BitVec 2} (h : ((s.die d).turns + 1) * 32 ≤ s.time)
    (hr : ((s.die d).turns + 1) / 256 ≤ (s.die d).rounds) :
    exec (.slotTurn d) s = .next (s.setDie d { s.die d with
      turns := (s.die d).turns + 1, turnOwner := (s.die d).slotOwner.getD (((s.die d).turns + 1) % 256) 0xFF }) := by
  change execSlotTurn d s = _
  simp [execSlotTurn, Nat.not_lt.mpr h, Nat.not_lt.mpr hr]

/-- 18 R413: a freeze whose time has come ends. -/
theorem exec_freezeEnd_due {s : State} {c : CoreRef} {n : Nat} (h : (s.core c).freeze = some n) (ht : n ≤ s.time) :
    exec (.freezeEnd c) s = .next (s.setCore c { s.core c with freeze := none }) := by
  change execFreezeEnd c s = _
  simp [execFreezeEnd, State.modCore, h, ht]

end Sys2Proof.Machine

open Sys2Proof Sys2Proof.Machine Sys2Proof.Claims

/-- Settles O38: each event of the clock sets its one die or core, as its equation says. -/
theorem theSlotTableAndFreezesFollowTheClock : Obligations.TheSlotTableAndFreezesFollowTheClock := by
  unfold Obligations.TheSlotTableAndFreezesFollowTheClock
  intro s
  refine ⟨?round, ?turn, ?freeze, ?thaw⟩
  case round => exact fun d hd => answers_setDie (exec_slotTableRound_due hd)
  case turn => exact fun d hd hr => answers_setDie (exec_slotTurn_due hd hr)
  case freeze => exact fun c => ⟨_, rfl, State.core_setCore s c _, fun e he => State.core_setCore_ne s _ he, rfl⟩
  case thaw =>
    exact fun c n hn ht =>
      ⟨_, exec_freezeEnd_due hn ht, s.core_setCore c _, fun e he => s.core_setCore_ne _ he, rfl⟩
end

section
namespace Sys2Proof.Machine

/-! ### Results in flight: reading before and after the bound, and landing (01 R24, R25, 04 R100 to R102) -/

/-- A fold each of whose steps leaves the start as it is. -/
theorem foldl_of_fixed {α β : Type} {f : β → α → β} {b : β} : ∀ {l : List α}, (∀ a ∈ l, f b a = b) → l.foldl f b = b
  | [], _ => rfl
  | a :: l, h => by
    rw [List.foldl_cons, h a (by simp)]
    exact foldl_of_fixed fun x hx => h x (by simp [hx])

theorem merge_allBits (old val : Vec) : merge old val allBits = val := by
  unfold merge allBits
  rw [BitVec.not_allOnes, BitVec.and_zero, BitVec.and_allOnes, BitVec.zero_or]

theorem fixed_s {d : BitVec 6} (hd : d ≠ 0) : (Reg.s d).fixed = false := by simpa [Reg.fixed] using hd

theorem addResult_pend (c : Ctx) {acc : Bool} {r : Reg} (hr : r.fixed = false) (v m : Vec) (n : Nat) (fl : Flags) (seq : Nat) :
    (c.addResult acc r v m n fl seq).pend =
      c.pend ++ [⟨acc, r, v, m, c.now acc, c.dueFor acc r (c.now acc + n), fl, seq⟩] := by
  simp [Ctx.addResult, hr]

/-- A result of a register that discards writes only raises flags. -/
theorem addResult_pend_fixed (c : Ctx) {acc : Bool} {r : Reg} (hr : r.fixed = true) (v m : Vec) (n : Nat) (fl : Flags) (seq : Nat) :
    (c.addResult acc r v m n fl seq).pend =
      c.pend ++ [⟨acc, .none, v, m, c.now acc, c.dueFor acc .none (c.now acc + n), fl, seq⟩] := by
  simp [Ctx.addResult, hr]

@[simp] theorem addResult_score (c : Ctx) (acc : Bool) (r : Reg) (v m : Vec) (n : Nat) (fl : Flags) (seq : Nat) :
    (c.addResult acc r v m n fl seq).score = c.score := rfl

@[simp] theorem addResult_issueX (c : Ctx) (acc : Bool) (r : Reg) (v m : Vec) (n : Nat) (fl : Flags) (seq : Nat) :
    (c.addResult acc r v m n fl seq).issueX = c.issueX := rfl
theorem addResult_getReg_s (c : Ctx) (acc : Bool) (r : Reg) (v m : Vec) (n : Nat) (fl : Flags) (seq : Nat) (d : BitVec 6) :
    (c.addResult acc r v m n fl seq).getReg (.s d) = c.getReg (.s d) := rfl

/-- With no result of the register in flight, the bound is that of the operation. -/
theorem dueFor_of_no_result {c : Ctx} {r : Reg} (h : ∀ p ∈ c.pend, p.reg ≠ r) (acc : Bool) (due : Nat) :
    c.dueFor acc r due = due :=
  foldl_of_fixed fun p hp => by simp [h p hp]

theorem settled_of_no_result {c : Ctx} {r : Reg} (h : ∀ p ∈ c.pend, p.reg ≠ r) (acc : Bool) :
    c.settled acc r = c.getReg r :=
  foldl_of_fixed fun p hp => by simp [h p hp]

/-- 04 R92, R102: the one result of a register in flight is what later bundles read of it. -/
theorem settled_of_last_result {c : Ctx} {r : Reg} {l : List Pend} {p : Pend} (hs : r.isSys = false)
    (hc : c.pend = l ++ [p]) (h : ∀ q ∈ l, q.reg ≠ r) (hp : p.reg = r) (acc : Bool) :
    c.settled acc r = if p.current acc (c.now acc) then c.getReg r else merge (c.getReg r) p.val p.mask := by
  have hl := foldl_of_fixed (f := fun v (p : Pend) => if p.reg == r && !r.isSys && !p.current acc (c.now acc) then merge v p.val p.mask else v)
    (b := c.getReg r) (l := l) fun q hq => by simp [h q hq]
  rw [Ctx.settled, hc, List.foldl_append, hl]
  cases hcur : p.current acc (c.now acc) <;> simp [hcur, hp, hs]

theorem early_of_no_result {c : Ctx} {r : Reg} (hn : c.nest.active = false) (h : ∀ p ∈ c.pend, p.reg ≠ r) (acc : Bool) :
    c.early acc r = false := by
  have ha : (c.pend.any fun p => p.reg == r && !p.current acc (c.now acc) && decide (c.now acc < p.due)) = false := by
    rw [List.any_eq_false]
    intro p hp
    simp [h p hp]
  simp [Ctx.early, Ctx.decoupled, hn, ha]

/-- 01 R25: the one result of a register in flight makes a read early after its bundle and before its bound. -/
theorem early_of_last_result {c : Ctx} {r : Reg} {l : List Pend} {p : Pend} (hn : c.nest.active = false) (hs : r.isSys = false)
    (hc : c.pend = l ++ [p]) (h : ∀ q ∈ l, q.reg ≠ r) (hp : p.reg = r) (acc : Bool) :
    c.early acc r = (!p.current acc (c.now acc) && decide (c.now acc < p.due)) := by
  have ha : (l.any fun q => q.reg == r && !q.current acc (c.now acc) && decide (c.now acc < q.due)) = false := by
    rw [List.any_eq_false]
    intro q hq
    simp [h q hq]
  simp [Ctx.early, Ctx.decoupled, hn, hs, hc, List.any_append, ha, hp]

theorem getReg_putReg_s (c : Ctx) {d : BitVec 6} (hd : d ≠ 0) (v : Vec) :
    (c.putReg (.s d) v).getReg (.s d) = (v.setWidth 64).setWidth 2048 := by
  have h : (d == 0) = false := beq_eq_false_iff_ne.mpr hd
  simp only [Ctx.putReg, Ctx.getReg, h, Bool.false_eq_true, if_false, Vector.getElem_set_self]

theorem putReg_s_sticky (c : Ctx) (d : BitVec 6) (v : Vec) : (c.putReg (.s d) v).sticky = c.sticky := by
  simp only [Ctx.putReg]
  split <;> rfl

/-! ### Landing changes registers alone -/

/-- Two contexts that differ at most by registers: what landing a result may change. -/
def RegsOnly (c d : Ctx) : Prop :=
  ({ d with
    s := c.s, p := c.p, v := c.v, k := c.k, b := c.b, g := c.g, q := c.q, x := c.x, lcnt := c.lcnt, fmt := c.fmt
    codeBase := c.codeBase, codeLimit := c.codeLimit, tvec := c.tvec, retry := c.retry, sticky := c.sticky
    tcause := c.tcause, tpc := c.tpc, tslot := c.tslot, taddr := c.taddr, tinfo := c.tinfo, dnest := c.dnest
    aslice := c.aslice, saveArea := c.saveArea } : Ctx) = c

theorem regsOnly_trans {c d e : Ctx} (h : RegsOnly c d) (k : RegsOnly d e) : RegsOnly c e := by
  refine Eq.trans ?_ h
  rw [← show _ = d from k]

theorem putSys_regsOnly (c : Ctx) (n : Nat) (w : Word) : RegsOnly c (c.putSys n w) := by
  unfold Ctx.putSys; split <;> rfl

theorem putReg_regsOnly (c : Ctx) (r : Reg) (v : Vec) : RegsOnly c (c.putReg r v) := by
  cases r
  case s | p | k => simp only [Ctx.putReg]; split <;> rfl
  case sr n => exact putSys_regsOnly c n.toNat (v.setWidth 64)
  all_goals rfl

theorem landOne_regsOnly (c : Ctx) (p : Pend) : RegsOnly c (c.landOne p) := by
  simp only [Ctx.landOne]
  split
  · exact regsOnly_trans (putReg_regsOnly c _ _) rfl
  · rfl
  · exact regsOnly_trans (putReg_regsOnly c _ _) rfl

theorem landIf_regsOnly (c : Ctx) (sel : Pend → Bool) :
    RegsOnly { c with pend := c.pend.filter fun p => !sel p } (c.landIf sel) :=
  foldl_keeps (p := fun d => RegsOnly { c with pend := c.pend.filter fun p => !sel p } d)
    (fun d p h => regsOnly_trans h (landOne_regsOnly d p)) _ _ rfl

theorem putReg_pend (c : Ctx) (r : Reg) (v : Vec) : (c.putReg r v).pend = c.pend := (congrArg Ctx.pend (putReg_regsOnly c r v) :)
theorem putReg_score (c : Ctx) (r : Reg) (v : Vec) : (c.putReg r v).score = c.score := (congrArg Ctx.score (putReg_regsOnly c r v) :)
theorem landIf_pend (c : Ctx) (sel : Pend → Bool) : (c.landIf sel).pend = c.pend.filter fun p => !sel p :=
  (congrArg Ctx.pend (landIf_regsOnly c sel) :)
theorem landIf_score (c : Ctx) (sel : Pend → Bool) : (c.landIf sel).score = c.score := (congrArg Ctx.score (landIf_regsOnly c sel) :)
theorem landAll_nest (c : Ctx) : c.landAll.nest = c.nest := (congrArg Ctx.nest (landIf_regsOnly c _) :)

/-! ### Landing -/

/-- A whole scalar result lands: the register holds it, and its flags are raised. -/
theorem landOne_s_getReg (c : Ctx) {p : Pend} {d : BitVec 6} (hd : d ≠ 0) (hp : p.reg = .s d) (hm : p.mask = allBits) :
    (c.landOne p).getReg (.s d) = (p.val.setWidth 64).setWidth 2048 := by
  simp only [Ctx.landOne, hp, hm, merge_allBits]
  exact getReg_putReg_s c hd p.val

theorem landOne_s_sticky (c : Ctx) {p : Pend} {d : BitVec 6} (hp : p.reg = .s d) :
    (c.landOne p).sticky = c.sticky ||| p.fl := by
  simp only [Ctx.landOne, hp, putReg_s_sticky]

/-- Results land in order: those that are picked and stand last land after all the others. -/
theorem landIf_last {c : Ctx} {sel : Pend → Bool} {l m : List Pend} (hc : c.pend = l ++ m) (hm : ∀ p ∈ m, sel p = true) :
    c.landIf sel = m.foldl Ctx.landOne ((l.filter sel).foldl Ctx.landOne { c with pend := l.filter fun q => !sel q }) := by
  have h1 : m.filter sel = m := List.filter_eq_self.mpr hm
  have h2 : (m.filter fun p => !sel p) = [] := List.filter_eq_nil_iff.mpr fun p hp => by simp [hm p hp]
  simp [Ctx.landIf, hc, List.filter_append, h1, h2]

theorem landIf_none {c : Ctx} {sel : Pend → Bool} (h : ∀ p ∈ c.pend, sel p = false) : c.landIf sel = c := by
  have h1 : c.pend.filter sel = [] := List.filter_eq_nil_iff.mpr fun p hp => by simp [h p hp]
  have h2 : (c.pend.filter fun p => !sel p) = c.pend := List.filter_eq_self.mpr fun p hp => by simp [h p hp]
  simp [Ctx.landIf, h1, h2]

/-- Flags that are raised stay raised when others join them. -/
theorem and_not_or_left (a b c : Flags) : b &&& ~~~(a ||| b ||| c) = 0 := by
  ext i; simp +contextual
theorem and_not_or_right (a b : Flags) : b &&& ~~~(a ||| b) = 0 := by
  ext i; simp +contextual

/-- With nothing of the register pending on the scoreboard, no result of it is held back. -/
theorem heldBack_of_no_score {c : Ctx} {p : Pend} (h : ∀ e ∈ c.score, e.reg ≠ p.reg) : c.heldBack p = false := by
  rw [Ctx.heldBack, Ctx.awaits, List.any_eq_false]
  intro e he
  simp [h e he]

/-! A whole scalar result that returns from the scoreboard (04 R101, R102). -/

theorem landScore_s_pend (c : Ctx) (id : Nat) (d : BitVec 6) (v m : Vec) :
    (c.landScore id (.s d) v m).pend = c.pend.filter fun p => !(p.reg == .s d && decide (p.seq ≤ id)) := by
  simp only [Ctx.landScore, putReg_pend, landIf_pend]

theorem landScore_s_score (c : Ctx) (id : Nat) (d : BitVec 6) (v m : Vec) :
    (c.landScore id (.s d) v m).score = c.score.filter fun e => !(e.id == id && e.reg == .s d) := by
  simp only [Ctx.landScore, putReg_score, landIf_score]

theorem landScore_s_getReg (c : Ctx) (id : Nat) {d : BitVec 6} (hd : d ≠ 0) (v : Vec) :
    (c.landScore id (.s d) v allBits).getReg (.s d) = (v.setWidth 64).setWidth 2048 := by
  simp only [Ctx.landScore, merge_allBits]
  exact getReg_putReg_s _ hd v

/-- Results that nothing holds back, and that stand last, land after all the others. -/
theorem landAll_last {c : Ctx} {l m : List Pend} (hc : c.pend = l ++ m) (hm : ∀ p ∈ m, c.heldBack p = false) :
    ∃ k, c.landAll = m.foldl Ctx.landOne k :=
  ⟨_, landIf_last hc fun p hp => by rw [hm p hp]; rfl⟩

theorem setWidth_word (w : Word) : (((w.setWidth 2048).setWidth 64).setWidth 2048 : Vec).setWidth 64 = w := by
  simp

/-! ### One scalar result, read `k` issue cycles after its bundle -/

/-- 01 R24: the context `k` issue cycles of its execute or only slice later. -/
def Ctx.later (c : Ctx) (k : Nat) : Ctx := { c with issueX := c.issueX + k }

@[simp] theorem later_pend (c : Ctx) (k : Nat) : (c.later k).pend = c.pend := rfl
@[simp] theorem later_nest (c : Ctx) (k : Nat) : (c.later k).nest = c.nest := rfl
@[simp] theorem later_now (c : Ctx) (k : Nat) : (c.later k).now false = c.issueX + k := rfl
theorem later_getReg (c : Ctx) (k : Nat) (d : BitVec 6) : (c.later k).getReg (.s d) = c.getReg (.s d) := rfl

section
variable {c : Ctx} {d : BitVec 6} (w : Word) (n : Nat) (fl : Flags) (k seq : Nat)

/-- The one entry that a scalar result puts into flight. -/
theorem addResult_s_pend (hd : d ≠ 0) (hc : ∀ p ∈ c.pend, p.reg ≠ .s d) :
    (c.addResult false (.s d) (w.setWidth 2048) allBits n fl seq).pend =
      c.pend ++ [⟨false, .s d, w.setWidth 2048, allBits, c.issueX, c.issueX + n, fl, seq⟩] := by
  rw [addResult_pend c (fixed_s hd), dueFor_of_no_result hc]
  rfl

/-- 01 R25: it may not be read after its own bundle and before its bound. -/
theorem early_addResult_s (hn : c.nest.active = false) (hd : d ≠ 0) (hc : ∀ p ∈ c.pend, p.reg ≠ .s d) :
    ((c.addResult false (.s d) (w.setWidth 2048) allBits n fl seq).later k).early false (.s d) =
      (decide (0 < k) && decide (k < n)) := by
  rw [early_of_last_result (c := (c.addResult _ _ _ _ _ _ _).later k) hn rfl (addResult_s_pend w n fl seq hd hc) hc rfl, later_now, addResult_issueX]
  simp [Pend.current, Nat.pos_iff_ne_zero]

/-- 04 R92, R102: its own bundle reads the old value, later ones the result. -/
theorem settled_addResult_s (hd : d ≠ 0) (hc : ∀ p ∈ c.pend, p.reg ≠ .s d) :
    ((c.addResult false (.s d) (w.setWidth 2048) allBits n fl seq).later k).settled false (.s d) =
      if k = 0 then c.getReg (.s d) else w.setWidth 2048 := by
  rw [settled_of_last_result (c := (c.addResult _ _ _ _ _ _ _).later k) rfl (addResult_s_pend w n fl seq hd hc) hc rfl, later_now,
    addResult_issueX, later_getReg, merge_allBits]
  simp [Pend.current, addResult_getReg_s]

/-- 02 R45: a result of `s0` is none of `s0`. -/
theorem addResult_s0_pend (hc : ∀ p ∈ c.pend, p.reg ≠ .s 0) :
    ∀ p ∈ (c.addResult false (.s 0) (w.setWidth 2048) allBits n fl seq).pend, p.reg ≠ .s 0 := by
  intro p hp
  rw [addResult_pend_fixed c rfl, List.mem_append, List.mem_singleton] at hp
  rcases hp with hp | rfl
  · exact hc p hp
  · exact Reg.noConfusion
end

/-! ### Two results of one register -/

/-- 04 R102: of two results of one scalar register, none of which the scoreboard holds back, the later one stays, and the flags
of both are raised. -/
theorem landAll_two_results (c : Ctx) (acc : Bool) {d : BitVec 6} (v w : Word) (m n i j : Nat) (f g : Flags) (hd : d ≠ 0)
    (hs : ∀ e ∈ c.score, e.reg ≠ .s d) :
    let u := ((c.addResult acc (.s d) (v.setWidth 2048) allBits m f i).addResult acc (.s d) (w.setWidth 2048) allBits n g j).landAll
    u.getReg (.s d) = ((w.setWidth 2048 : Vec).setWidth 64).setWidth 2048 ∧ ∃ a : Flags, u.sticky = a ||| f ||| g := by
  intro u
  have hf := fixed_s hd
  have hp := addResult_pend (c.addResult acc (.s d) (v.setWidth 2048) allBits m f i) (acc := acc) hf (w.setWidth 2048) allBits n g j
  rw [addResult_pend c hf, List.append_assoc] at hp
  obtain ⟨k, hk⟩ := landAll_last hp fun p h => heldBack_of_no_score (by
    simp only [List.mem_append, List.mem_singleton] at h
    obtain rfl | rfl := h <;> exact hs)
  rw [List.foldl_append, List.foldl_cons, List.foldl_nil, List.foldl_cons, List.foldl_nil] at hk
  rw [show u = _ from hk]
  refine ⟨landOne_s_getReg _ hd rfl rfl, k.sticky, ?_⟩
  rw [landOne_s_sticky _ (d := d) rfl, landOne_s_sticky _ (d := d) rfl]

/-- 11 R281: with an empty scoreboard every result in flight lands. -/
theorem landAll_pend_nil {c : Ctx} (h : c.score = []) : c.landAll.pend = [] := by
  simp [Ctx.landAll, landIf_pend, Ctx.heldBack, Ctx.awaits, h]

/-! ### A result and an earlier scoreboarded one of its register (04 R102) -/

section
variable {c : Ctx} {d : BitVec 6} {id : Nat}

theorem heldBack_of_one_score (hs : c.score = [⟨id, .s d⟩]) {p : Pend} (hr : p.reg = .s d) :
    c.heldBack p = decide (id < p.seq) := by
  simp [Ctx.heldBack, Ctx.awaits, hs, hr]

/-- A result of a later operation stays in flight, and lands once the scoreboarded one has. -/
theorem landScore_before_later (hd : d ≠ 0) (hs : c.score = [⟨id, .s d⟩]) {p : Pend} (hp : c.pend = [p]) (hr : p.reg = .s d)
    (hm : p.mask = allBits) (h : id < p.seq) (v : Vec) :
    c.landAll = c ∧ (c.landScore id (.s d) v allBits).landAll.getReg (.s d) = (p.val.setWidth 64).setWidth 2048 := by
  constructor
  · refine landIf_none fun q hq => ?_
    rw [hp, List.mem_singleton] at hq
    rw [heldBack_of_one_score hs (hq ▸ hr), hq, decide_eq_true h]; rfl
  · have hsc : (c.landScore id (.s d) v allBits).score = [] := by simp [landScore_s_score, hs]
    have hpe : (c.landScore id (.s d) v allBits).pend = [] ++ [p] := by simp [landScore_s_pend, hp, Nat.not_le.mpr h]
    obtain ⟨k, hk⟩ := landAll_last hpe fun q _ => heldBack_of_no_score (by simp [hsc])
    rw [hk]
    exact landOne_s_getReg k hd hr hm

/-- A result of an earlier operation, or of the same, lands at once, and the scoreboarded one replaces it. -/
theorem landScore_after_earlier (hd : d ≠ 0) (hs : c.score = [⟨id, .s d⟩]) {p : Pend} (hp : c.pend = [p]) (hr : p.reg = .s d)
    (hm : p.mask = allBits) (h : p.seq ≤ id) (v : Vec) :
    c.landAll.getReg (.s d) = (p.val.setWidth 64).setWidth 2048 ∧
      (c.landAll.landScore id (.s d) v allBits).landAll.getReg (.s d) = (v.setWidth 64).setWidth 2048 := by
  have hb : ∀ q ∈ [p], c.heldBack q = false := fun q hq => by
    rw [List.mem_singleton] at hq
    rw [heldBack_of_one_score hs (hq ▸ hr), hq, decide_eq_false (Nat.not_lt.mpr h)]
  constructor
  · obtain ⟨k, hk⟩ := landAll_last (l := []) hp hb
    rw [hk]
    exact landOne_s_getReg k hd hr hm
  · have hpe : c.landAll.pend = [] := by simp [Ctx.landAll, landIf_pend, hp, hb]
    have hu : (c.landAll.landScore id (.s d) v allBits).landAll = c.landAll.landScore id (.s d) v allBits :=
      landIf_none fun q hq => by simp [landScore_s_pend, hpe] at hq
    rw [hu, landScore_s_getReg _ _ hd]

end

end Sys2Proof.Machine

open Sys2Proof Sys2Proof.Machine Sys2Proof.Claims

/-- Settles O7: a read before and after the bound by the one result in flight, two results by their order of landing, and a
scoreboarded result by whether the other stands before or after it. -/
theorem resultsLandAtTheirBoundTheLaterLast : Obligations.ResultsLandAtTheirBoundTheLaterLast := by
  unfold Obligations.ResultsLandAtTheirBoundTheLaterLast
  refine ⟨?_, ?_, ?_⟩
  · intro c d w n fl k seq hn hc r u
    refine ⟨?zero, fun hd hk => ?own, fun hd h0 hk => ?before, fun hd h0 hk => ?after⟩
    case zero =>
      rintro rfl
      have h0 := addResult_s0_pend w n fl seq hc
      exact ⟨early_of_no_result (c := u) hn h0 false, settled_of_no_result (c := u) h0 false⟩
    all_goals
      have he : u.early false (.s d) = _ := early_addResult_s w n fl k seq hn hd hc
      have hv : u.settled false (.s d) = _ := settled_addResult_s w n fl k seq hd hc
      rw [he]
    case own => simp [hv, hk]
    case before => simp [h0, hk]
    case after => simp [hv, Nat.not_lt.mpr hk, Nat.pos_iff_ne_zero.mp h0]
  · intro c acc d v w m n i j f g hd hs u
    obtain ⟨hg, a, ha⟩ := landAll_two_results c acc v w m n i j f g hd hs
    have hw : (u.getReg (.s d)).setWidth 64 = w := (congrArg (BitVec.setWidth 64) hg).trans (setWidth_word w)
    have hst : u.sticky = a ||| f ||| g := ha
    exact ⟨hw, by rw [hst, and_not_or_left], by rw [hst, and_not_or_right], fun h => landAll_pend_nil h⟩
  · intro c d v w n id seq fl hd hp hs r u
    have hr := addResult_pend c (acc := false) (fixed_s hd) (w.setWidth 2048) allBits n fl seq
    have hs := (addResult_score c false (.s d) (w.setWidth 2048) allBits n fl seq).trans hs
    rw [hp, List.nil_append] at hr
    constructor
    · intro h
      obtain ⟨hl, hg⟩ := landScore_before_later hd hs hr rfl rfl h (v.setWidth 2048)
      have hrc : r = _ := hl
      exact ⟨by rw [hrc]; rfl, by rw [show u = _ from congrArg (fun k => (Ctx.landScore k id _ _ _).landAll) hl, hg, setWidth_word]⟩
    · intro h
      obtain ⟨hl, hg⟩ := landScore_after_earlier hd hs hr rfl rfl h (v.setWidth 2048)
      exact ⟨(congrArg (BitVec.setWidth 64) hl).trans (setWidth_word w), (congrArg (BitVec.setWidth 64) hg).trans (setWidth_word v)⟩
end

section
/-! The issue of a bundle by the execute or only slice (01 R20, R21, 04 R105): what each stage of it comes to. -/
namespace Sys2Proof.Machine
open Sys2Proof.Claims

/-! ### Fetch -/

/-- 18 R393: what lies in device memory has no bit 63 in its address. -/
theorem placeAt_dev_local {s : State} {d e : BitVec 2} {asid : BitVec 12} {va : Word} {rd wr tags : Bool} {a : Nat} {l : Leaf}
    (h : s.placeAt d asid va rd wr tags = .dev e a l) : va.getLsbD 63 = false := by
  by_contra hb
  rw [Bool.not_eq_false] at hb
  have hx : (va.extractLsb' 62 2 == 1) = false := by
    refine beq_eq_false_iff_ne.mpr fun hx => ?_
    have h1 := congrArg (BitVec.getLsbD · 1) hx
    simp only [BitVec.getLsbD_extractLsb', hb] at h1
    exact absurd h1 (by decide)
  simp only [State.placeAt, State.routed, hx, Bool.false_and, Bool.false_eq_true, if_false, State.place, hb, if_true] at h
  cases h

/-- 04 R105, 18 R397: a fetch from device memory that is mapped, executable, still and without poison gives the 64 bytes there. -/
theorem fetch_dev {s : State} {d : BitVec 2} {a : Nat} {l : Leaf} (hb : s.cx.codeBase.toNat ≤ s.cur.pc.toNat)
    (hl : s.cur.pc.toNat < s.cx.codeLimit.toNat)
    (hp : s.placeAt s.cur.core.die (s.stream s.cx.stream).asid s.cur.pc false false false = .dev d a l)
    (hleaf : s.leaf (vaDie s.cur.pc) (s.stream s.cx.stream).asid (vaOff s.cur.pc) = some l) (hs : s.devStill d = true)
    (hx : l.pte.x = true) (hq : s.poison = []) :
    s.fetch = .bundle (bundleOfBytes (readBytes s.mem (hbmKey d a) 64)) := by
  have h63 : s.cur.pc[63] = false := placeAt_dev_local hp
  have hn : ∀ k n, isPoisoned s.poison k n = false := fun k n => by simp [hq, isPoisoned]
  simp [State.fetch, Nat.not_lt.mpr hb, Nat.not_le.mpr hl, hp, State.still, hs, h63, hleaf, hx, State.poisonAt, State.readDev, hn,
    Place.key]

/-! ### Presentation -/

/-- What keeps every part of the state but the counts of errors, an issue's end keeps too. -/
theorem fetched_induct {p : State → Prop} {s : State} (hs : p s)
    (hc : ∀ t d a i n, p t → p (t.countErr d a i n)) (hd : ∀ t w, p t → p (t.donePackets w)) (asid : BitVec 12) (pc : Word) :
    p (s.fetched asid pc) := by
  refine hd _ _ (foldl_keeps (p := p) (fun t q ht => ?_) _ _ hs)
  split
  · split
    · exact hc _ _ _ _ _ ht
    · exact ht
  · exact ht

/-- Changes of the dies alone, one after the other. -/
theorem dies_trans {s t u : State} (h : ({ t with dies := s.dies } : State) = s) (k : ({ u with dies := t.dies } : State) = t) :
    ({ u with dies := s.dies } : State) = s :=
  ((congrArg (fun v : State => ({ v with dies := s.dies } : State)) k) :).trans h

/-- 18 R412: a count of errors changes nothing but the counts of one die. -/
theorem countErr_rest (s : State) (d : BitVec 2) (a : BitVec 12) (i n : Nat) : ({ s.countErr d a i n with dies := s.dies } : State) = s := by
  unfold State.countErr
  split <;> rfl

theorem count_onlySeen (s : State) (d : BitVec 2) (i n : Nat) (f : BitVec 2) : OnlySeen (s.die f) ((s.count d i n).die f) := by
  by_cases h : f = d
  · subst h; simp [State.count, OnlySeen]
  · rw [State.count, State.die_modDie_ne _ _ h]; rfl

theorem countErr_onlySeen (s : State) (d : BitVec 2) (a : BitVec 12) (i n : Nat) (f : BitVec 2) :
    OnlySeen (s.die f) ((s.countErr d a i n).die f) := by
  unfold State.countErr
  split
  · rfl
  · by_cases h : f = d
    · subst h; simp [State.count, OnlySeen]
    · rw [State.die_modDie_ne _ _ h]; exact count_onlySeen _ _ _ _ _

theorem onlySeen_trans {x y z : Die} (h : OnlySeen x y) (k : OnlySeen y z) : OnlySeen x z := by
  show ({ ({ z with tlb := y.tlb, telem := y.telem, asidErrs := y.asidErrs } : Die) with
    tlb := x.tlb, telem := x.telem, asidErrs := x.asidErrs } : Die) = x
  rw [show ({ z with tlb := y.tlb, telem := y.telem, asidErrs := y.asidErrs } : Die) = y from k]
  exact h

theorem fetched_onlySeen (s : State) (asid : BitVec 12) (pc : Word) (f : BitVec 2) : OnlySeen (s.die f) ((s.fetched asid pc).die f) :=
  fetched_induct (p := fun t => OnlySeen (s.die f) (t.die f)) rfl (fun t d a i n ht => onlySeen_trans ht (countErr_onlySeen t d a i n f))
    (fun _ _ ht => ht) asid pc

/-- A bundle that is issued is done with in the packets and counts that its fetch made, and nothing else changes. -/
theorem fetched_rest (s : State) (asid : BitVec 12) (pc : Word) :
    ({ s.fetched asid pc with dies := s.dies, packets := s.packets } : State) = s :=
  fetched_induct (p := fun t => ({ t with dies := s.dies, packets := s.packets } : State) = s) rfl
    (fun t d a i n ht => by
      have h := congrArg (fun u : State => ({ u with dies := s.dies, packets := s.packets } : State)) (countErr_rest t d a i n)
      exact h.trans ht)
    (fun _ _ ht => ht) asid pc

theorem fetched_packets {s : State} {asid : BitVec 12} {pc : Word} : ∀ p ∈ (s.fetched asid pc).packets, p ∈ s.packets :=
  fetched_induct (p := fun t => ∀ p ∈ t.packets, p ∈ s.packets) (fun _ h => h)
    (fun t d a i n ht p hp => ht p (by rwa [← congrArg State.packets (countErr_rest t d a i n)]))
    (fun _ _ ht p hp => ht p (List.mem_of_mem_filter hp)) asid pc

/-! Fields that the end of an issue leaves. -/

@[simp] theorem fetched_mem (s : State) (a : BitVec 12) (pc : Word) : (s.fetched a pc).mem = s.mem :=
  (congrArg State.mem (fetched_rest s a pc) :)
@[simp] theorem fetched_reqs (s : State) (a : BitVec 12) (pc : Word) : (s.fetched a pc).reqs = s.reqs :=
  (congrArg State.reqs (fetched_rest s a pc) :)
@[simp] theorem fetched_cur (s : State) (a : BitVec 12) (pc : Word) : (s.fetched a pc).cur = s.cur :=
  (congrArg State.cur (fetched_rest s a pc) :)
@[simp] theorem fetched_cores (s : State) (a : BitVec 12) (pc : Word) : (s.fetched a pc).cores = s.cores :=
  (congrArg State.cores (fetched_rest s a pc) :)

/-- 01 R20: a bundle that nothing holds back is ready as it stands, its operations presented. -/
theorem presentOps_ready {s v : State} {b : Bundle} {l ops : List Instr} (h : s.presentOps b l = (v, .ready ops)) :
    ops = l ∧ v = (l.filter fun i => opRuns s (headIs i)).foldl State.presentOp s := by
  simp only [State.presentOps] at h
  split at h
  · cases h
  split at h
  · cases h
  split at h
  · cases h
  split at h
  · cases h
  · cases h; exact ⟨rfl, rfl⟩

/-- The bundle of the execute or only slice is presented and nothing holds it back. -/
theorem present_ready {s v : State} {c : CoreRef} {x : BitVec 2} {b : Bundle} {ops : List Instr}
    (hf : (atBundle s c x).fetch = .bundle b)
    (hd : firstDefect b (((bundleOps b).filter (nestBad (presented s c x))).map fun i => ((slotOf i).toNat, 9)) = none)
    (hv : (presented s c x).presentOps b (ofSlice (presented s c x).cx false (bundleOps b)) = (v, .ready ops)) :
    s.present c x false = (v.fetched (s.stream (s.ctx c x).stream).asid (codeAddr ((s.ctx c x).nextPc false)), .ready ops) := by
  have hb : (presented s c x).presentBundle false b = (v, .ready ops) := by
    simp only [State.presentBundle, hd]
    exact hv
  have hp : s.present c x false = if ((presented s c x).presentBundle false b).2 == .blocked
      then (presented s c x).presentBundle false b
      else (((presented s c x).presentBundle false b).1.fetched (s.stream (s.ctx c x).stream).asid (codeAddr ((s.ctx c x).nextPc false)),
        ((presented s c x).presentBundle false b).2) := by
    have hf' : State.fetch { s with cur := ⟨c, x, false, codeAddr ((s.ctx c x).nextPc false)⟩ } = .bundle b := hf
    simp only [State.present, hf']
    rfl
  rw [hp, hb]
  rfl

/-! ### The issue width -/

/-- 06 R152: a context that no RFT waits for has none to settle. -/
theorem settleRft_none {s : State} {c : CoreRef} {x : BitVec 2} (h : (s.ctx c x).rftWait = none) : s.settleRft c x = s := by
  simp [State.settleRft, h]

/-- 08 R203: a context that stands at no barrier has none to pass. -/
theorem passBarrier_none {s : State} {c : CoreRef} {x : BitVec 2} (hx : (s.ctx c x).waitX = .none) (ha : (s.ctx c x).waitA = .none) :
    s.passBarrier c x = s := by
  simp [State.passBarrier, hx, ha]

theorem eligible_rftWait {s : State} {c : CoreRef} {x : BitVec 2} (h : s.eligible c x = true) : (s.ctx c x).rftWait = none := by
  simp only [State.eligible, Bool.and_eq_true, Option.isNone_iff_eq_none] at h
  exact h.1.2

theorem sliceBlocked_waitX {s : State} {c : CoreRef} {x : BitVec 2} (h : s.sliceBlocked c x false = false) :
    (s.ctx c x).waitX = .none := by
  simp only [State.sliceBlocked, Bool.or_eq_false_iff, bne_eq_false_iff_eq] at h
  exact h.1

/-- What BUNDLE_ISSUE makes of the state that presentation leaves: the bundle of the execute or only slice is being issued, and
its context has the issue width. -/
def State.takeWidth (u : State) (c : CoreRef) (x : BitVec 2) (e : Env) (ops : List Instr) : State :=
  { (u.latch u.cur u.cur true false ops []).modCore c fun k => { k with sel := x, quantum := if k.sel == x then k.quantum else 0 } with cur := e }

section
variable (u : State) (c : CoreRef) (x : BitVec 2) (e : Env) (ops : List Instr)

theorem takeWidth_issue : (u.takeWidth c x e ops).issue =
    some { Issue.fresh u.cur with ops := inSlotOrder (ops.map fun i => (u.cur, i)), runX := true, runA := false } := by
  rw [← List.append_nil (ops.map fun i => (u.cur, i))]
  rfl
theorem takeWidth_cur : (u.takeWidth c x e ops).cur = e := rfl
theorem takeWidth_mem : (u.takeWidth c x e ops).mem = u.mem := rfl
theorem takeWidth_reqs : (u.takeWidth c x e ops).reqs = u.reqs := rfl
theorem takeWidth_packets : (u.takeWidth c x e ops).packets = u.packets := rfl
theorem takeWidth_die (d : BitVec 2) : (u.takeWidth c x e ops).die d = u.die d := rfl

/-- 01 R21: where the context had the issue width already, no core differs. -/
theorem takeWidth_core (h : (u.core c).sel = x) (d : CoreRef) : (u.takeWidth c x e ops).core d = u.core d := by
  have hc : (u.takeWidth c x e ops).core d = ((u.latch u.cur u.cur true false ops []).modCore c fun k =>
    { k with sel := x, quantum := if k.sel == x then k.quantum else 0 }).core d := rfl
  have hl (d : CoreRef) : (u.latch u.cur u.cur true false ops []).core d = u.core d := rfl
  rw [hc]
  by_cases hd : d = c
  · subst hd h
    rw [State.core_modCore, hl]
    simp
  · rw [State.core_modCore_ne _ _ hd, hl]
end

section
variable {s u : State} {c : CoreRef} {x : BitVec 2} {ops : List Instr}

/-- 01 R20, R21: a context outside a decoupled nest whose bundle nothing holds back takes the issue width. -/
theorem offer_ready (he : s.eligible c x = true) (hd : (s.ctx c x).decoupled = false) (hb : s.sliceBlocked c x false = false)
    (ha : (s.ctx c x).waitA = .none) (hp : s.present c x false = (u, .ready ops)) :
    s.offer c x = (u.latch u.cur u.cur true false ops [], true) := by
  have hA : s.view c x true = (s, .blocked) := by simp [State.view, hd]
  have hX : s.view c x false = (u, .ready ops) := by simp [State.view, hb, hp]
  simp only [State.offer, settleRft_none (eligible_rftWait he), passBarrier_none (sliceBlocked_waitX hb) ha, he, hA, hX,
    Bool.not_true, Bool.false_eq_true, if_false]

/-- 01 R21, R22: the selected context, within its quantum, keeps the issue width as it takes it. -/
theorem exec_bundleIssue_ready (hi : s.issue = none) (hz : (s.core c).freeze = none) (hs : (s.core c).sel = x)
    (hq : (s.core c).quantum < 4096) (ho : s.offer c x = (u.latch u.cur u.cur true false ops [], true)) :
    exec (.bundleIssue c) s = .next (u.takeWidth c x s.cur ops) := by
  change execBundleIssue c s = _
  simp only [execBundleIssue, hi, hz, Option.isSome_none, Bool.or_self, Bool.false_eq_true, if_false, selectOrder,
    Nat.not_le.mpr hq, hs, State.select, ho, if_true]
  rfl
end

/-- 04 R92: the one operation of a bundle stands alone in slot order. -/
theorem inSlotOrder_one (e : Env) (i : Instr) : inSlotOrder [(e, i)] = [(e, i)] := by
  unfold inSlotOrder
  generalize hn : slotOf i = n
  obtain ⟨⟨n, h⟩⟩ := n
  interval_cases n <;> simp [List.range, List.range.loop, hn]

/-- 05 R124: a bundle that decodes has no defect, and its operations are those it decodes to. -/
theorem decodeBundle_ops {b : Bundle} {l : List Instr} (h : decodeBundle b = .ops l) : firstDefect b [] = none ∧ bundleOps b = l := by
  unfold decodeBundle at h
  split at h
  · cases h
  · cases h; exact ⟨‹_›, rfl⟩

/-- 01 R21: outside a decoupled nest the one slice issues every operation. -/
theorem ofSlice_plain {c : Ctx} (h : c.decoupled = false) (acc : Bool) (l : List Instr) : ofSlice c acc l = l := by
  simp [ofSlice, h]

/-! ### What presentation leaves (08 R198, R207) -/

/-- A change of one context leaves every core's selector. -/
theorem modCx_sel (s : State) (g : Ctx → Ctx) (d : CoreRef) : ((s.modCx g).core d).sel = (s.core d).sel := by
  by_cases h : d = s.cur.core
  · subst h; simp [State.modCx, State.modCtx, State.setCtx]
  · simp [State.modCx, State.modCtx, State.setCtx, State.core_modCore_ne _ _ h]

/-- 08 R198: a flag wait that presents itself leaves every core's selector. -/
theorem presentWait_sel (s : State) (f : BitVec 5) (n : BitVec 16) (k : Bool) (d : CoreRef) :
    ((s.presentWait f n k).core d).sel = (s.core d).sel := by
  unfold State.presentWait
  split
  · rfl
  · by_cases h : d = s.cur.core
    · subst h; simp [State.modCc, Core.testFlag]
    · simp [State.modCc, State.core_modCore_ne _ _ h]

theorem presentOp_sel (s : State) (i : Instr) (d : CoreRef) : ((s.presentOp i).core d).sel = (s.core d).sel := by
  unfold State.presentOp
  split
  · rfl
  split
  · exact presentWait_sel _ _ _ _ _
  · exact modCx_sel _ _ _
  · rfl

/-- 18 R399: the walk of a page fills the TLB and changes nothing but the dies. -/
theorem fillTlb_rest (s : State) (d : BitVec 2) (asid : BitVec 12) (o : Nat) : ({ s.fillTlb d asid o with dies := s.dies } : State) = s := by
  simp only [State.fillTlb]
  split
  · rfl
  split
  · split <;> rfl
  · rfl

theorem fillRange_rest (s : State) (asid : BitVec 12) (va : Word) (n : Nat) :
    ({ s.fillRange asid va n with dies := s.dies } : State) = s := by
  unfold State.fillRange
  refine foldl_keeps (p := fun t : State => ({ t with dies := s.dies } : State) = s) (fun t i ht => ?_) _ _ rfl
  dsimp only
  split
  · exact dies_trans ht (fillTlb_rest _ _ _ _)
  · exact ht

/-- What changes the dies alone keeps the cores, and the bundle being looked at. -/
theorem cores_of_dies {s t : State} (h : ({ t with dies := s.dies } : State) = s) : t.cores = s.cores := (congrArg State.cores h :)
theorem cur_of_dies {s t : State} (h : ({ t with dies := s.dies } : State) = s) : t.cur = s.cur := (congrArg State.cur h :)

theorem fillRange_cores (s : State) (asid : BitVec 12) (va : Word) (n : Nat) : (s.fillRange asid va n).cores = s.cores :=
  cores_of_dies (fillRange_rest s asid va n)
theorem fillRange_cur (s : State) (asid : BitVec 12) (va : Word) (n : Nat) : (s.fillRange asid va n).cur = s.cur :=
  cur_of_dies (fillRange_rest s asid va n)

theorem presented_core (s : State) (c : CoreRef) (x : BitVec 2) (d : CoreRef) : (presented s c x).core d = s.core d := by
  rw [State.core, presented, fillRange_cores]
  rfl

theorem presented_cx (s : State) (c : CoreRef) (x : BitVec 2) : (presented s c x).cx = s.ctx c x := by
  rw [State.cx, State.ctx, presented_core, presented, fillRange_cur]
  rfl

theorem presentOps_sel {s v : State} {b : Bundle} {l ops : List Instr} (h : s.presentOps b l = (v, .ready ops)) (d : CoreRef) :
    (v.core d).sel = (s.core d).sel := by
  rw [(presentOps_ready h).2]
  exact foldl_keeps (p := fun t : State => (t.core d).sel = (s.core d).sel) (fun t i ht => (presentOp_sel t i d).trans ht) _ _ rfl

/-! ### The step (log entries 2 and 3) -/

/-- An operation that leaves no bundle being issued is the whole of its step's work. -/
theorem run_of_next {i : Instr} {s t : State} (h : exec i s = .next t) (ht : t.issue = none) : run i s = .next t := by
  simp [run, h, drain, State.nextOp, State.retire, ht]

theorem step_due {s : State} {i : Instr} {l : List Instr} (hi : s.issue = none) (hd : s.dueEvents = i :: l) :
    step s = andThen (run i s) State.spent := by
  simp [step, hi, hd]

theorem step_pick {s : State} {i : Instr} (hi : s.issue = none) (hd : s.dueEvents = []) (hp : s.pick = some i) :
    step s = andThen (run i (s.dropInput i)) State.tick := by
  simp [step, hi, hd, hp]

theorem step_idle {s : State} (hi : s.issue = none) (hd : s.dueEvents = []) (hp : s.pick = none) :
    step s = .next { s.tick with inputs := s.inputs.drop 1 } := by
  simp [step, hi, hd, hp]

/-- 04 R92: the one operation of a bundle executes, and what it leaves of the bundle follows. -/
theorem drain_one {s : State} {u : Issue} {e : Env} {i : Instr} (hs : s.issue = some u) (hu : u.ops = [(e, i)]) :
    drain 16 s = thenDrain i { s with cur := e, issue := some { u with ops := [] } } := by
  have hn : s.nextOp = some (i, { s with cur := e, issue := some { u with ops := [] } }) := by simp only [State.nextOp, hs, hu]
  rw [drain, hn]
  rfl

theorem time_lt_tick (s : State) : s.time < s.tick.time := by
  simp only [State.tick]; omega

end Sys2Proof.Machine

open Sys2Proof Sys2Proof.Machine Sys2Proof.Claims

/-- Settles O57: the step's choice among due events, inputs and cores by one equation per case; and the bundle of one operation, which
is presented, takes the issue width and drains, by the lemma of each of these stages. -/
theorem aStepExecutesTheDecodedOperation : Obligations.AStepExecutesTheDecodedOperation := by
  unfold Obligations.AStepExecutesTheDecodedOperation
  intro s
  refine ⟨?one, ?fetch, fun i l hi hd => step_due hi hd, ?event, fun hi hd hp => step_idle hi hd hp, time_lt_tick s, rfl⟩
  case fetch =>
    intro c x d a l k pc hb hl hp hleaf hs hx hq
    exact fetch_dev (s := atBundle s c x) hb hl hp hleaf hs hx hq
  case event =>
    intro i t hi hd hp he ht
    rw [step_pick hi hd hp, run_of_next he ht]
    rfl
  case one =>
    intro c x b i v hi hd hp k e hz hs hq he hdec hb ha hf hdb hn hv
    obtain ⟨hdef, hops⟩ := decodeBundle_ops hdb
    have hcx : e.cx = k := presented_cx s c x
    obtain ⟨u, hpr, hrest, hpk, hdie⟩ : ∃ u, s.present c x false = (u, .ready [i]) ∧
        ({ u with dies := v.dies, packets := v.packets } : State) = v ∧ (∀ p ∈ u.packets, p ∈ v.packets) ∧
        ∀ f, OnlySeen (v.die f) (u.die f) :=
      ⟨_, present_ready hf (by rw [hops]; simpa [hn, e] using hdef) (by rw [hops, ofSlice_plain (hcx ▸ hdec)]; exact hv),
        fetched_rest v _ _, fetched_packets, fetched_onlySeen v _ _⟩
    have hx := exec_bundleIssue_ready hi hz hs hq (offer_ready he hdec hb ha hpr)
    have hcore (f : CoreRef) : u.core f = v.core f := (congrArg (fun t : State => t.core f) hrest :)
    have hcur : u.cur = v.cur := (congrArg State.cur hrest :)
    have hsel : (u.core c).sel = x := by rw [hcore, presentOps_sel hv c, presented_core, hs]
    refine ⟨_, hx, fun f => ?core, takeWidth_cur u c x s.cur [i], ?packets, ?dies, ?rest, ?step⟩
    case core => rw [takeWidth_core u c x _ _ hsel, hcore]
    case packets => rw [takeWidth_packets]; exact hpk
    case dies => exact fun f => by rw [takeWidth_die]; exact hdie f
    case rest =>
      refine Eq.trans ?_ hrest
      have hcores : u.cores = v.cores := (congrArg State.cores hrest :)
      have hiss : u.issue = v.issue := (congrArg State.issue hrest :)
      rw [← hcores, ← hiss, ← hcur]
      rfl
    case step =>
      have hrun : run (.bundleIssue c) (s.dropInput (.bundleIssue c)) = drain 16 (u.takeWidth c x s.cur [i]) := by
        simp only [run, show exec (.bundleIssue c) (s.dropInput (.bundleIssue c)) = _ from hx]
      rw [step_pick hi hd hp, hrun, drain_one (takeWidth_issue u c x s.cur [i]) (inSlotOrder_one _ _), hcur]
      rfl
end

section
/-! The life of a context: start, yield, attributed traps (01 R15, R22, 11 R278 to R281). -/
namespace Sys2Proof.Machine
open Sys2Proof.Claims

@[simp] theorem State.ctx_setCtx (s : State) (c : CoreRef) (x : BitVec 2) (v : Ctx) : (s.setCtx c x v).ctx c x = v := by
  simp [State.setCtx, State.ctx]

/-- 01 R15: a reserved context at its start time. -/
theorem exec_contextStart_due {s : State} {c : CoreRef} {x : BitVec 2} (hl : (s.ctx c x).life = .reserved)
    (hp : (s.ctx c x).preempt = false) (ht : (s.ctx c x).startAt ≤ s.time) :
    exec (.contextStart ⟨c.die, c.core, x⟩) s =
      .next (s.setCtx c x { s.ctx c x with life := .running, acqTime := (s.ctx c x).startAt, gsAcqTime := (s.ctx c x).startAt }) := by
  change execContextStart ⟨c.die, c.core, x⟩ s = _
  simp [execContextStart, coreOf, hl, hp, ht]

/-- 01 R22: at a yield point the first other ready context gets the issue width. -/
theorem exec_yieldQuantum_to {s : State} {c : CoreRef} {y : BitVec 2} (hi : s.issue = none) (hq : 4096 ≤ (s.core c).quantum)
    (hy : [(s.core c).sel + 1, (s.core c).sel + 2, (s.core c).sel + 3].find? (s.ready c) = some y) :
    exec (.yieldQuantum c) s = .next (s.setCore c { s.core c with sel := y, quantum := 0 }) := by
  change execYieldQuantum c s = _
  simp only [execYieldQuantum, hi, hy, Option.isSome_none, Nat.not_lt.mpr hq, decide_false, Bool.or_self, Bool.false_eq_true, if_false]


/-! ### Landing does not depend on what is reported -/

theorem putSys_reports (c : Ctx) (l : List Report) (n : Nat) (w : Word) :
    ({ c with reports := l } : Ctx).putSys n w = { c.putSys n w with reports := l } := by
  unfold Ctx.putSys; split <;> rfl

theorem putReg_reports (c : Ctx) (l : List Report) (r : Reg) (v : Vec) :
    ({ c with reports := l } : Ctx).putReg r v = { c.putReg r v with reports := l } := by
  cases r
  case s | p | k => simp only [Ctx.putReg]; split <;> rfl
  case sr n => exact putSys_reports c l n.toNat (v.setWidth 64)
  all_goals rfl

theorem getReg_reports (c : Ctx) (l : List Report) (r : Reg) : ({ c with reports := l } : Ctx).getReg r = c.getReg r := by
  cases r <;> rfl

theorem landOne_reports (c : Ctx) (l : List Report) (p : Pend) :
    ({ c with reports := l } : Ctx).landOne p = { c.landOne p with reports := l } := by
  simp only [Ctx.landOne, putReg_reports, getReg_reports]
  split <;> rfl

theorem landAll_reports (c : Ctx) (l : List Report) : ({ c with reports := l } : Ctx).landAll = { c.landAll with reports := l } := by
  have h (m : List Pend) (d : Ctx) : m.foldl Ctx.landOne { d with reports := l } = { m.foldl Ctx.landOne d with reports := l } := by
    induction m generalizing d with
    | nil => rfl
    | cons p m ih => rw [List.foldl_cons, landOne_reports, ih, List.foldl_cons]
  exact h (c.pend.filter fun p => !c.heldBack p) { c with pend := c.pend.filter fun p => !!c.heldBack p }

theorem landAll_reports_tvec (c : Ctx) (l : List Report) : ({ c with reports := l } : Ctx).landAll.tvec = c.landAll.tvec := by
  rw [landAll_reports]

/-! ### Taking a trap outside handler mode (11 R281) -/

/-- A test of a flag, a post, and the end of a context's waits touch flags and flag waits alone. -/
theorem endWaits_rest (k : Core) (x : BitVec 2) : ({ k.endWaits x with f := k.f, fwaits := k.fwaits } : Core) = k := by
  unfold Core.endWaits
  refine foldl_keeps (p := fun j : Core => ({ j with f := k.f, fwaits := k.fwaits } : Core) = k) (fun j w hj => ?_) _ _ rfl
  split <;> exact hj

theorem takeTrap_reqs {s : State} (hm : s.cx.hmode = false) (k : Cause) (pc : Word) : (s.takeTrap k pc).reqs = s.reqs := by
  simp only [State.takeTrap]
  split
  · exact absurd ‹_› (Bool.eq_false_iff.mp hm)
  split <;> simp only [State.count_reqs, State.modCx_reqs, State.modCc_reqs, State.modIss_reqs]

/-- The waits of a core's flags end without touching its contexts. -/
theorem modCc_endWaits_cx (s : State) (x : BitVec 2) : (s.modCc fun k => k.endWaits x).cx = s.cx := by
  have h : (s.cc.endWaits x).ctx = s.cc.ctx := (congrArg Core.ctx (endWaits_rest s.cc x) :)
  have hc : (s.modCc fun k => k.endWaits x).cc = s.cc.endWaits x := State.cc_modCc s _
  exact (congrArg (Core.getCtx · s.cur.ctx) hc).trans (congrArg (fun v : Vector Ctx 4 => v[s.cur.ctx.toNat]'s.cur.ctx.isLt) h)

/-- The context that takes the trap enters its handler. -/
theorem takeTrap_ctx {s : State} (hm : s.cx.hmode = false) (k : Cause) (pc : Word) :
    (s.takeTrap k pc).ctx s.cur.core s.cur.ctx = s.cx.enterTrap s.cur.acc pc k := by
  have hw : ((s.modIss fun i => { i with void := true }).modCc fun k => k.endWaits s.cur.ctx).cx = s.cx :=
    modCc_endWaits_cx _ _
  have ht : (((s.modIss fun i => { i with void := true }).modCc fun k => k.endWaits s.cur.ctx).modCx fun c =>
      c.enterTrap s.cur.acc pc k).cx = s.cx.enterTrap s.cur.acc pc k := by rw [State.cx_modCx, hw]
  simp only [State.takeTrap]
  split
  · exact absurd ‹_› (Bool.eq_false_iff.mp hm)
  split <;> exact ht

/-- 08 R189: the store data of an STF are given in a scalar register. -/
theorem giveData_eq (c : Ctx) (r : Report) : ∃ v, c.giveData r = { c with s := v } := by
  unfold Ctx.giveData
  split
  · exact ⟨_, rfl⟩
  · exact ⟨c.s, rfl⟩

/-- What the registers of a context show when it has entered its handler, with whatever data its scalar registers hold. -/
theorem enterTrap_shows {c u : Ctx} {acc : Bool} {pc : Word} {k : Cause} {v : Vector Word 64}
    (hu : u = { c.enterTrap acc pc k with s := v }) :
    u.tcause = k.code.setWidth 64 ∧ u.tpc = pc ∧ u.aslice = (acc && c.decoupled) ∧ u.tslot = k.slot.setWidth 64 ∧ u.taddr = k.addr ∧
      u.tinfo = k.info ∧ u.hmode = true ∧ u.pc = c.landAll.tvec ∧ u.reports = c.reports := by
  have hn : c.landAll.decoupled = c.decoupled := by rw [Ctx.decoupled, landAll_nest]; rfl
  have hr : c.landAll.reports = c.reports := (congrArg Ctx.reports (landIf_regsOnly c _) :)
  subst hu
  unfold Ctx.enterTrap Ctx.exchange
  generalize c.landAll = d at hn hr ⊢
  exact ⟨rfl, rfl, congrArg (acc && ·) hn, rfl, rfl, rfl, rfl, rfl, hr⟩

/-! ### The attributed trap (11 R278, R280) -/

/-- The bundle boundary at which a cause is taken: the slice that its access belongs to. -/
def trapEnv (k : Ctx) (c : CoreRef) (x : BitVec 2) (p : Report) : Env :=
  ⟨c, x, k.ofAccess p.acc p.bundle, k.nextPc (k.ofAccess p.acc p.bundle)⟩

/-- 11 R272: what the device writes for a reported cause. -/
def trapCause (k : Ctx) (p : Report) : Cause := { p.cause with info := p.cause.info ||| BitVec.ofNat 64 (k.dist p) }

theorem exec_attributedTrap_taken {s : State} {c : CoreRef} {x : BitVec 2} {p : Report} (hi : s.issue = none)
    (hl : (s.ctx c x).life = .running) (hh : (s.ctx c x).hmode = false) (hx : (s.ctx c x).waitX.stops = false)
    (ha : (s.ctx c x).waitA.stops = false) (hp : pickReport (s.ctx c x).reports = some p) :
    let k := s.ctx c x
    let e := trapEnv k c x p
    ∃ t v, exec (.attributedTrap ⟨c.die, c.core, x⟩) s = .next t ∧
      t.ctx c x = { ({ k with reports := k.reports.erase p } : Ctx).enterTrap e.acc e.pc (trapCause k p) with s := v } ∧
      t.mem = s.mem ∧ t.reqs = s.reqs ∧ t.issue = none := by
  intro k e
  have hpick : pickReport (s.ctx c x).takable = some p := by simp [Ctx.takable, hh, hp]
  let s1 : State := { s.modCtx c x fun k => { k with reports := k.reports.erase p } with cur := e }
  have hcx : s1.cx = { k with reports := k.reports.erase p } := State.ctx_modCtx s c x fun k => { k with reports := k.reports.erase p }
  have hm : s1.cx.hmode = false := by rw [hcx]; exact hh
  let s2 := s1.takeTrap (trapCause k p) e.pc
  have h2 : s2.ctx c x = _ := takeTrap_ctx hm (trapCause k p) e.pc
  rw [hcx] at h2
  have hmem : s2.mem = s.mem := State.takeTrap_mem hm (trapCause k p) e.pc
  have hreqs : s2.reqs = s.reqs := takeTrap_reqs hm (trapCause k p) e.pc
  have hexec : exec (.attributedTrap ⟨c.die, c.core, x⟩) s =
      .next { (if (s2.ctx c x).life == .running then s2.modCtx c x fun k => k.giveData p else s2) with cur := s.cur, issue := none } := by
    change execAttributedTrap ⟨c.die, c.core, x⟩ s = _
    simp only [execAttributedTrap, coreOf, hpick, hi, hl, hx, ha, Option.isSome_none, bne_self_eq_false, Bool.or_self,
      Bool.false_eq_true, if_false]
    rfl
  generalize s2 = t at *
  by_cases hr : (t.ctx c x).life == .running
  · obtain ⟨v, hv⟩ := giveData_eq (t.ctx c x) p
    rw [if_pos hr] at hexec
    exact ⟨_, v, hexec, by rw [← h2]; exact (State.ctx_modCtx t c x fun k => k.giveData p).trans hv, hmem, hreqs, rfl⟩
  · rw [if_neg hr] at hexec
    exact ⟨_, _, hexec, h2, hmem, hreqs, rfl⟩

end Sys2Proof.Machine
end

section
/-! Charges and kills of streams (17 R382, 11 R286, R294). -/
namespace Sys2Proof.Machine
open Sys2Proof.Claims

/-! ### Streams by their key -/

section
variable {f : Stream → Stream} (hf : ∀ y, (f y).key = y.key)
include hf

theorem key_modified (key : Nat) (y : Stream) : (if y.key == key then f y else y).key = y.key := by
  split
  · exact hf y
  · rfl

theorem any_modStream (s : State) (key j : Nat) :
    ((s.modStream key f).streams.any fun y => y.key == j) = s.streams.any fun y => y.key == j := by
  rw [State.modStream, List.any_map]
  exact congrArg s.streams.any (funext fun y => congrArg (· == j) (key_modified hf key y))

theorem stream_modStream {s : State} {key : Nat} (h : (s.streams.any fun y => y.key == key) = true) :
    (s.modStream key f).stream key = f (s.stream key) := by
  have hk : (fun y : Stream => y.key == key) ∘ (fun y => if y.key == key then f y else y) = fun y => y.key == key :=
    funext fun y => congrArg (· == key) (key_modified hf key y)
  obtain ⟨y, hy⟩ := Option.isSome_iff_exists.mp (List.find?_isSome.mpr (List.any_eq_true.mp h))
  have hyk : (y.key == key) = true := List.find?_some (p := fun y : Stream => y.key == key) hy
  simp only [State.stream, State.modStream, List.find?_map, hk, hy, Option.map_some, Option.getD_some, hyk, if_true]
end

theorem stream_of_streams {s t : State} (h : t.streams = s.streams) (key : Nat) : t.stream key = s.stream key := by
  rw [State.stream, h, State.stream]

/-! ### Charges (17 R382) -/

/-- The issue cycles of a stream's contexts begin again. -/
def State.uncharged (s : State) (l : List (CoreRef × BitVec 2)) : State :=
  l.foldl (fun s e => s.modCtx e.1 e.2 fun k => { k with charge := 0 }) s

theorem uncharged_rest (s : State) (l : List (CoreRef × BitVec 2)) : ({ s.uncharged l with cores := s.cores } : State) = s := by
  unfold State.uncharged
  refine foldl_keeps (p := fun t : State => ({ t with cores := s.cores } : State) = s) ?_ l s rfl
  exact fun _ _ ht => ht

/-- 17 R382: the issue cycles that a stream is charged: what its contexts have issued, and what was carried. -/
def State.owed (s : State) (key : Nat) : Nat :=
  (s.stream key).carry + ((s.ctxsOf key).map fun e => (s.ctx e.1 e.2).charge).foldl (· + ·) 0

/-- 17 R382: what a charge makes of its stream, and of its queue. -/
def Stream.charged (x : Stream) (n now : Nat) : Stream := { x with carry := n % 16, lastCharge := now }
def QueueRec.charged (q : QueueRec) (n : Nat) : QueueRec :=
  if q.urgent || q.state == .free || q.state == .disabled then q
  else { q with deficit := max (q.deficit - (n / 16 : Nat)) (-4 * q.quantum) }

theorem charge_eq (s : State) (key : Nat) :
    s.charge key = ((s.uncharged (s.ctxsOf key)).modStream key fun x => x.charged (s.owed key) s.time).modQ
      (s.stream key).die (s.stream key).q fun q => q.charged (s.owed key) := by
  have ht : (s.uncharged (s.ctxsOf key)).time = s.time := (congrArg State.time (uncharged_rest s _) :)
  rw [← ht]
  rfl

theorem charge_mem (s : State) (key : Nat) : (s.charge key).mem = s.mem := by
  rw [charge_eq]
  exact (congrArg State.mem (uncharged_rest s _) :)

theorem charge_stream {s : State} {key : Nat} (h : (s.streams.any fun y => y.key == key) = true) :
    (s.charge key).stream key = (s.stream key).charged (s.owed key) s.time := by
  have hs : (s.uncharged (s.ctxsOf key)).streams = s.streams := (congrArg State.streams (uncharged_rest s _) :)
  rw [charge_eq, stream_of_streams (State.modQ_streams _ _ _ _),
    stream_modStream (f := fun x => x.charged _ _) (fun _ => rfl) (by rw [hs]; exact h), stream_of_streams hs]

theorem charge_qrec (s : State) (key : Nat) :
    (s.charge key).qrec (s.stream key).die (s.stream key).q =
      (s.qrec (s.stream key).die (s.stream key).q).charged (s.owed key) := by
  have hd : (s.uncharged (s.ctxsOf key)).dies = s.dies := (congrArg State.dies (uncharged_rest s _) :)
  rw [charge_eq, State.qrec_modQ, State.qrec, State.die, State.modStream_dies, hd]
  rfl

/-- 17 R382: every 65,536 cycles. -/
theorem exec_streamCharge_due {s : State} {key : Nat} (h : (s.streams.any fun y => y.key == key) = true)
    (ho : (s.stream key).out = false) (ht : (s.stream key).lastCharge + 65536 ≤ s.time) :
    exec (.streamCharge key) s = .next (s.charge key) := by
  change execStreamCharge key s = _
  simp only [execStreamCharge, h, ho, ht, Bool.not_false, decide_true, Bool.and_self, if_true]

/-! ### A kill (11 R294) -/

/-- The package without its memory and its dies: what the end of parked contexts, pins and link entries leaves. -/
def State.offDie (s : State) : State := { s with mem := [], dies := Vector.replicate 4 Die.reset }

theorem offDie_modDie (s : State) (d : BitVec 2) (f : Die → Die) : (s.modDie d f).offDie = s.offDie := rfl
theorem offDie_mem (s : State) (m : List Host.Cell) : ({ s with mem := m } : State).offDie = s.offDie := rfl
theorem offDie_dies (s : State) (l : Vector Die 4) : ({ s with dies := l } : State).offDie = s.offDie := rfl
theorem offDie_cores {s t : State} (h : s.offDie = t.offDie) : s.cores = t.cores := (congrArg State.cores h :)
theorem offDie_reqs {s t : State} (h : s.offDie = t.offDie) : s.reqs = t.reqs := (congrArg State.reqs h :)
theorem offDie_streams {s t : State} (h : s.offDie = t.offDie) : s.streams = t.streams := (congrArg State.streams h :)

theorem offDie_foldl {α : Type} {f : State → α → State} (h : ∀ s a, (f s a).offDie = s.offDie) (l : List α) (s : State) :
    (l.foldl f s).offDie = s.offDie :=
  foldl_keeps (p := fun t : State => t.offDie = s.offDie) (fun t a ht => (h t a).trans ht) l s rfl

theorem offDie_removeRecs (s : State) (d : BitVec 2) (f : ParkRec → Bool) : (s.removeRecs d f).offDie = s.offDie := by
  unfold State.removeRecs
  refine offDie_foldl (fun t b => ?_) _ _
  rw [State.putBucket, offDie_modDie, offDie_mem]

theorem offDie_unpark (s : State) (c : CoreRef) (x : BitVec 2) : (s.unpark c x).offDie = s.offDie := by
  unfold State.unpark
  rw [offDie_dies]
  exact offDie_foldl (fun t d => offDie_removeRecs t d _) _ _

theorem offDie_dropPins (s : State) (l : List FifoEntry) : (s.dropPins l).offDie = s.offDie := by
  unfold State.dropPins
  exact offDie_foldl (fun _ _ => offDie_modDie _ _ _) _ _

theorem offDie_freeLinks (s : State) (c : CoreRef) (f : LinkEntry → Bool) : (s.freeLinks c f).offDie = s.offDie := by
  unfold State.freeLinks
  exact offDie_foldl (fun _ _ => offDie_modDie _ _ _) _ _

/-- 11 R294: every part of a kill of a context leaves the streams. -/
theorem killChain_streams (s : State) (c : CoreRef) : (s.killChain c).streams = s.streams := by
  have h (l : List FifoEntry) : ((s.dropPins l).freeLinks c fun _ => true).streams = s.streams :=
    offDie_streams ((offDie_freeLinks _ _ _).trans (offDie_dropPins _ _))
  simp only [State.killChain, State.discardChain, State.modCore_streams]
  split <;> simp only [State.modCore_streams, h]

theorem strike_streams (s : State) (c : CoreRef) (x : BitVec 2) : (s.strike c x).streams = s.streams := by
  have hd (t : State) (l : List FifoEntry) : (t.dropPins l).streams = t.streams := offDie_streams (offDie_dropPins t l)
  have hu : (s.unpark c x).streams = s.streams := offDie_streams (offDie_unpark s c x)
  simp only [State.strike, State.modCore_streams]
  split <;> simp only [killChain_streams, hd, hu]

/-- 11 R294: what a kill makes of its stream. -/
def Stream.struckBy (x : Stream) (reason : Nat) (c : Ctx) (y : BitVec 2) : Stream :=
  { x with
    kill := some (BitVec.ofNat 8 reason), struck := struckWord reason c y, preempt := Option.none, feeds := [], hbar := [], saved := []
    regs := if reason == 1 then ⟨#[c.tcause, c.tpc, c.taddr, c.tinfo], rfl⟩ else Vector.replicate 4 0 }

/-- The credits that saves of a stream's contexts withheld come back (02 R63). -/
def State.giveBack (s : State) (d : BitVec 2) (l : List Nat) : State :=
  l.foldl (fun s i => s.modDie d fun x => x.setChan i { x.chan i with withheld := 0, mate := none }) s

def State.strikeAll (s : State) (l : List (CoreRef × BitVec 2)) : State := l.foldl (fun s e => s.strike e.1 e.2) s

/-- 11 R294: the stream notes its kill, and every context of it is struck. -/
theorem killStream_eq {s : State} {key : Nat} (h : (s.streams.any fun y => y.key == key) = true) (hk : (s.stream key).kill = none)
    (n : Nat) (w : CoreRef × BitVec 2) :
    s.killStream key n w =
      let u := (s.modStream key fun x => x.struckBy n (s.ctx w.1 w.2) w.2).giveBack (s.stream key).die
        ((s.stream key).saved.flatMap (·.chans))
      (u.strikeAll (u.ctxsOf key)).count (s.stream key).die (if n ≤ 9 then 11 + n else 29) 1 := by
  simp only [State.killStream, h, hk, Bool.not_true, Bool.false_eq_true, if_false, Option.isSome_none]
  split <;> rfl

theorem offDie_giveBack (s : State) (d : BitVec 2) (l : List Nat) : (s.giveBack d l).offDie = s.offDie := by
  unfold State.giveBack
  exact offDie_foldl (fun _ _ => offDie_modDie _ _ _) _ _

theorem strikeAll_streams (s : State) (l : List (CoreRef × BitVec 2)) : (s.strikeAll l).streams = s.streams := by
  unfold State.strikeAll
  refine foldl_keeps (p := fun t : State => t.streams = s.streams) (fun t e ht => ?_) l s rfl
  rw [strike_streams]
  exact ht

theorem killStream_stream {s : State} {key : Nat} (h : (s.streams.any fun y => y.key == key) = true)
    (hk : (s.stream key).kill = none) (n : Nat) (w : CoreRef × BitVec 2) :
    (s.killStream key n w).stream key = (s.stream key).struckBy n (s.ctx w.1 w.2) w.2 := by
  rw [← stream_modStream (f := fun x => x.struckBy n (s.ctx w.1 w.2) w.2) (fun _ => rfl) h]
  refine stream_of_streams ?_ key
  rw [killStream_eq h hk, State.count_streams, strikeAll_streams, offDie_streams (offDie_giveBack _ _ _)]

/-- 11 R286: a late context of a stream under a request is found. -/
theorem lateCtx_isSome {s : State} {key : Nat} {p : Word × Option (BitVec 8)} {e : CoreRef × BitVec 2} (he : e ∈ s.ctxsOf key)
    (hp : (s.stream key).preempt = some p) (hl : Late s (s.stream key) (s.ctx e.1 e.2) p.1) : ∃ w, s.lateCtx key = some w := by
  simp only [State.lateCtx, hp]
  refine Option.isSome_iff_exists.mp (List.find?_isSome.mpr ⟨e, he, ?_⟩)
  unfold Late at hl
  split at hl
  case isTrue hk =>
    rw [if_pos hk]
    simpa only [Bool.and_eq_true, Bool.or_eq_true, beq_iff_eq, decide_eq_true_eq] using hl
  case isFalse hk =>
    rw [if_neg hk]
    simpa only [Bool.and_eq_true, beq_iff_eq, decide_eq_true_eq, and_assoc] using hl

/-- 11 R286, 17 R389: PREEMPT_TIMEOUT kills the stream of a late context. -/
theorem exec_preemptTimeout_late {s : State} {key : Nat} {w : CoreRef × BitVec 2} (h : s.lateCtx key = some w) :
    exec (.preemptTimeout key) s =
      .next (s.killStream key (if (s.qrec (s.stream key).die (s.stream key).q).killing then 6 else 2) w) := by
  change execPreemptTimeout key s = _
  simp only [execPreemptTimeout, h]

end Sys2Proof.Machine
end

section
/-! The contexts of a stream, and a context that is struck (01 R16, 11 R294). -/
namespace Sys2Proof.Machine
open Sys2Proof.Claims

/-! ### The list of cores -/

theorem storeCore_mem {l : List (Nat × Core)} {k : Nat} {x : Core} {e : Nat × Core} (h : e ∈ storeCore l k x) : e = (k, x) ∨ e ∈ l := by
  induction l with
  | nil => simpa [storeCore] using h
  | cons y r ih =>
    obtain ⟨i, z⟩ := y
    unfold storeCore at h
    split at h
    · simpa using h
    split at h
    · rcases List.mem_cons.mp h with h | h
      · exact .inl h
      · exact .inr (List.mem_cons_of_mem _ h)
    · rcases List.mem_cons.mp h with h | h
      · exact .inr (h ▸ List.mem_cons_self)
      · exact (ih h).imp_right (List.mem_cons_of_mem _)

theorem storeCore_pairwise {l : List (Nat × Core)} (k : Nat) (x : Core) (h : l.Pairwise fun a b => a.1 < b.1) :
    (storeCore l k x).Pairwise fun a b => a.1 < b.1 := by
  induction l with
  | nil => simp [storeCore]
  | cons y r ih =>
    obtain ⟨i, z⟩ := y
    obtain ⟨hi, hr⟩ := List.pairwise_cons.mp h
    unfold storeCore
    split
    case isTrue hk =>
      refine List.pairwise_cons.mpr ⟨fun e he => ?_, h⟩
      rcases List.mem_cons.mp he with rfl | he
      · exact hk
      · exact Nat.lt_trans hk (hi e he)
    case isFalse hk =>
      split
      case isTrue hik =>
        have hik : i = k := beq_iff_eq.mp hik
        exact List.pairwise_cons.mpr ⟨fun e he => hik ▸ hi e he, hr⟩
      case isFalse hik =>
        have hik : i ≠ k := fun e => hik (beq_iff_eq.mpr e)
        refine List.pairwise_cons.mpr ⟨fun e he => ?_, ih hr⟩
        rcases storeCore_mem he with rfl | he
        · exact Nat.lt_of_le_of_ne (Nat.not_lt.mp hk) hik
        · exact hi e he

theorem coreKey_lt (c : CoreRef) : coreKey c < 1024 := by
  have := c.die.isLt
  have := c.core.isLt
  simp only [coreKey]
  omega

theorem setCore_listed {s : State} (h : CoresListed s) (c : CoreRef) (x : Core) : CoresListed (s.setCore c x) := by
  obtain ⟨hp, hb⟩ := h
  refine ⟨storeCore_pairwise _ _ hp, fun e he => ?_⟩
  rcases storeCore_mem he with rfl | he
  · exact coreKey_lt c
  · exact hb e he

/-- A listed core is found under its number. -/
theorem lookupCore_of_mem {l : List (Nat × Core)} (h : l.Pairwise fun a b => a.1 < b.1) {e : Nat × Core} (he : e ∈ l) :
    lookupCore l e.1 = e.2 := by
  induction l with
  | nil => cases he
  | cons y r ih =>
    obtain ⟨i, z⟩ := y
    obtain ⟨hi, hr⟩ := List.pairwise_cons.mp h
    rcases List.mem_cons.mp he with rfl | he
    · simp [lookupCore]
    · have hne : (i == e.1) = false := beq_eq_false_iff_ne.mpr (Nat.ne_of_lt (hi e he))
      simp only [lookupCore, hne, Bool.false_eq_true, if_false]
      exact ih hr he

/-- A core that is not listed is as after reset. -/
theorem mem_of_lookupCore {l : List (Nat × Core)} {k : Nat} (h : lookupCore l k ≠ Core.reset) : (k, lookupCore l k) ∈ l := by
  induction l with
  | nil => exact absurd rfl h
  | cons y r ih =>
    obtain ⟨i, z⟩ := y
    unfold lookupCore at h ⊢
    by_cases hi : i = k
    · simp [hi]
    · have hne : (i == k) = false := beq_eq_false_iff_ne.mpr hi
      rw [hne] at h ⊢
      exact List.mem_cons_of_mem _ (ih h)

/-! ### The contexts of a stream -/

/-- The reference of a core by its number. -/
theorem coreKey_refOf {n : Nat} (h : n < 1024) : coreKey ⟨BitVec.ofNat 2 (n / 256), BitVec.ofNat 8 n⟩ = n := by
  simp only [coreKey, BitVec.toNat_ofNat]
  omega

theorem refOf_coreKey (c : CoreRef) : (⟨BitVec.ofNat 2 (coreKey c / 256), BitVec.ofNat 8 (coreKey c)⟩ : CoreRef) = c :=
  coreKey_inj.mp (coreKey_refOf (coreKey_lt c))

theorem reset_free (x : BitVec 2) : (Core.reset.getCtx x).life = .free := by
  simp [Core.getCtx, Core.reset, Ctx.idle]

/-- A stream's contexts are those that name it and are not free. -/
theorem mem_ctxsOf {s : State} (h : CoresListed s) {key : Nat} {d : CoreRef} {y : BitVec 2} :
    (d, y) ∈ s.ctxsOf key ↔ (s.ctx d y).life ≠ .free ∧ (s.ctx d y).stream = key := by
  obtain ⟨hp, hb⟩ := h
  simp only [State.ctxsOf, List.mem_flatMap, List.mem_map, List.mem_filter, List.mem_range, Bool.and_eq_true, bne_iff_ne, beq_iff_eq,
    Prod.mk.injEq]
  constructor
  · rintro ⟨e, he, i, ⟨hi, hl, hk⟩, rfl, rfl⟩
    have hc : s.core ⟨BitVec.ofNat 2 (e.1 / 256), BitVec.ofNat 8 e.1⟩ = e.2 := by
      rw [State.core, coreKey_refOf (hb e he), lookupCore_of_mem hp he]
    rw [State.ctx, hc]
    exact ⟨hl, hk⟩
  · rintro ⟨hl, hk⟩
    have hne : lookupCore s.cores (coreKey d) ≠ Core.reset := fun e => hl (by rw [State.ctx, State.core, e, reset_free])
    exact ⟨_, mem_of_lookupCore hne, y.toNat, ⟨y.isLt, by simpa [State.ctx, State.core] using hl,
      by simpa [State.ctx, State.core] using hk⟩, refOf_coreKey d, by simp⟩

/-! ### What keeps every context -/

/-- Every context is as it was, and the list of cores in order. -/
def CtxsKept (s t : State) : Prop := (CoresListed s → CoresListed t) ∧ ∀ d y, t.ctx d y = s.ctx d y

theorem CtxsKept.of_cores {s t : State} (h : t.cores = s.cores) : CtxsKept s t :=
  ⟨fun hs => by rwa [CoresListed, h], fun d y => by rw [State.ctx, State.core, h]; rfl⟩

theorem CtxsKept.trans {s t u : State} (h : CtxsKept s t) (k : CtxsKept t u) : CtxsKept s u :=
  ⟨fun hs => k.1 (h.1 hs), fun d y => (k.2 d y).trans (h.2 d y)⟩

theorem ctxsKept_modCore {f : Core → Core} (hf : ∀ k, (f k).ctx = k.ctx) (s : State) (c : CoreRef) : CtxsKept s (s.modCore c f) := by
  refine ⟨fun h => setCore_listed h c _, fun d y => ?_⟩
  by_cases hd : d = c
  · subst hd
    rw [State.ctx, State.core_modCore, State.ctx, Core.getCtx, Core.getCtx]
    simp only [hf]
  · rw [State.ctx, State.core_modCore_ne _ _ hd, State.ctx]

theorem ctxsKept_unpark (s : State) (c : CoreRef) (x : BitVec 2) : CtxsKept s (s.unpark c x) :=
  .of_cores (offDie_cores (offDie_unpark s c x))

theorem ctxsKept_dropPins (s : State) (l : List FifoEntry) : CtxsKept s (s.dropPins l) :=
  .of_cores (offDie_cores (offDie_dropPins s l))

theorem ctxsKept_drop (s : State) (p : List Packet) (r : List Req) : CtxsKept s { s with packets := p, reqs := r } :=
  .of_cores rfl

theorem ctxsKept_killChain (s : State) (c : CoreRef) : CtxsKept s (s.killChain c) := by
  have h (l : List FifoEntry) : CtxsKept s ((s.dropPins l).freeLinks c fun _ => true) :=
    .of_cores (offDie_cores ((offDie_freeLinks _ _ _).trans (offDie_dropPins _ _)))
  have hw (t : State) (f : Core → Core) (hf : ∀ k, (f k).ctx = k.ctx) (ht : CtxsKept s t) : CtxsKept s (t.modCore c f) :=
    ht.trans (ctxsKept_modCore hf t c)
  unfold State.killChain State.discardChain
  dsimp only
  split
  case isTrue => exact hw _ _ (fun _ => rfl) (hw _ _ (fun _ => rfl) (hw _ _ (fun _ => rfl) (h _)))
  case isFalse => exact hw _ _ (fun _ => rfl) (hw _ _ (fun _ => rfl) (h _))

/-! ### A context struck (11 R294) -/

/-- A change of a core that leaves every context but one. -/
theorem ctx_modCore_ne {f : Core → Core} {c d : CoreRef} {y : BitVec 2} (hf : ∀ k, d = c → (f k).getCtx y = k.getCtx y) (s : State) :
    (s.modCore c f).ctx d y = s.ctx d y := by
  by_cases hd : d = c
  · subst hd
    rw [State.ctx, State.core_modCore, hf _ rfl, State.ctx]
  · rw [State.ctx, State.core_modCore_ne _ _ hd, State.ctx]

/-- The state in which a struck context itself is stopped: what it has under way has ended. -/
def State.ended (s : State) (c : CoreRef) (x : BitVec 2) : State :=
  let t := s.unpark c x
  let t : State := { t with
    packets := t.packets.filter fun p => p.phase == PacketPhase.sent || !t.packetMine c x p, reqs := t.reqs.filter fun r => !r.mine c x }
  let t := t.dropPins (((t.core c).cmds.filter fun m => m.ctx == x).flatMap fun m => m.outA ++ m.outB)
  if (t.core c).owner == some x then t.killChain c else t

/-- 11 R294: a struck context: it leaves, with nothing of it under way. -/
def Core.stopCtx (k : Core) (x : BitVec 2) : Core :=
  { k.setCtx x { k.getCtx x with
      life := .leaving, waitX := .none, waitA := .none, suspX := .none, suspA := .none, reports := [], score := [], pend := [], holds := []
      rftWait := Option.none } with
    fwaits := k.fwaits.filter fun w => w.ctx != x
    cmds := k.cmds.filter fun m => m.ctx != x
    arrayQ := k.arrayQ.filter fun o => o.ctx != x }

theorem strike_eq (s : State) (c : CoreRef) (x : BitVec 2) : s.strike c x = (s.ended c x).modCore c fun k => k.stopCtx x := by
  unfold State.strike State.ended Core.stopCtx
  rfl

theorem stopCtx_getCtx_ne (k : Core) {x y : BitVec 2} (h : y ≠ x) : (k.stopCtx x).getCtx y = k.getCtx y :=
  Core.getCtx_setCtx_ne k _ h

theorem ctxsKept_ended (s : State) (c : CoreRef) (x : BitVec 2) : CtxsKept s (s.ended c x) := by
  have h (p : List Packet) (r : List Req) (l : List FifoEntry) :
      CtxsKept s (State.dropPins { s.unpark c x with packets := p, reqs := r } l) :=
    ((ctxsKept_unpark s c x).trans (ctxsKept_drop _ p r)).trans (ctxsKept_dropPins _ l)
  unfold State.ended
  dsimp only
  split
  case isTrue => exact (h _ _ _).trans (ctxsKept_killChain _ c)
  case isFalse => exact h _ _ _

theorem killChain_reqs (s : State) (c : CoreRef) : (s.killChain c).reqs = s.reqs := by
  have h (l : List FifoEntry) : ((s.dropPins l).freeLinks c fun _ => true).reqs = s.reqs :=
    offDie_reqs ((offDie_freeLinks _ _ _).trans (offDie_dropPins _ _))
  simp only [State.killChain, State.discardChain, State.modCore_reqs]
  split <;> simp only [State.modCore_reqs, h]

/-- The requests of the context end with it, and the others stay. -/
theorem strike_reqs (s : State) (c : CoreRef) (x : BitVec 2) : (s.strike c x).reqs = s.reqs.filter fun r => !r.mine c x := by
  have hd (t : State) (l : List FifoEntry) : (t.dropPins l).reqs = t.reqs := offDie_reqs (offDie_dropPins t l)
  have hu : (s.unpark c x).reqs = s.reqs := offDie_reqs (offDie_unpark s c x)
  simp only [State.strike, State.modCore_reqs]
  split <;> simp only [killChain_reqs, hd, hu]

theorem strike_listed {s : State} (h : CoresListed s) (c : CoreRef) (x : BitVec 2) : CoresListed (s.strike c x) :=
  strike_eq s c x ▸ setCore_listed ((ctxsKept_ended s c x).1 h) c _

theorem strike_ctx_ne (s : State) {c d : CoreRef} {x y : BitVec 2} (h : (d, y) ≠ (c, x)) : (s.strike c x).ctx d y = s.ctx d y := by
  rw [strike_eq, ctx_modCore_ne (fun k hd => stopCtx_getCtx_ne k fun hy => h (by rw [hd, hy]))]
  exact (ctxsKept_ended s c x).2 d y

end Sys2Proof.Machine
end

section
/-! A context that leaves its stream, and the stream's end (01 R16, 17 R375, R389). -/
namespace Sys2Proof.Machine
open Sys2Proof.Claims

/-! ### A completion that is due (17 R375) -/

theorem due_cores (s : State) (d : BitVec 2) (m : QCmd) : (s.due d m).cores = s.cores := rfl
theorem due_reqs (s : State) (d : BitVec 2) (m : QCmd) : (s.due d m).reqs = s.reqs := rfl
theorem due_mem (s : State) (d : BitVec 2) (m : QCmd) : (s.due d m).mem = s.mem := rfl
theorem due_streams (s : State) (d : BitVec 2) (m : QCmd) : (s.due d m).streams = s.streams := rfl

/-! ### A context that has gone -/

/-- The context slot is free and no request of it is left. -/
def Gone (c : CoreRef) (x : BitVec 2) (t : State) : Prop :=
  CoresListed t ∧ t.ctx c x = Ctx.idle ∧ ∀ q ∈ t.reqs, q.mine c x = false

section
variable {c : CoreRef} {x : BitVec 2} {s : State}

theorem gone_of_same {t : State} (h : Gone c x s) (hc : t.cores = s.cores) (hr : t.reqs = s.reqs) : Gone c x t := by
  obtain ⟨hl, hx, hq⟩ := h
  have hk := CtxsKept.of_cores hc
  exact ⟨hk.1 hl, (hk.2 c x).trans hx, hr ▸ hq⟩

theorem gone_not_mem (h : Gone c x s) (key : Nat) : (c, x) ∉ s.ctxsOf key := by
  obtain ⟨hl, hx, -⟩ := h
  intro hm
  have hf := ((mem_ctxsOf hl).mp hm).1
  exact hf (by rw [hx]; rfl)

theorem gone_modCtx (h : Gone c x s) {f : Ctx → Ctx} (hf : f Ctx.idle = Ctx.idle) (d : CoreRef) (y : BitVec 2) :
    Gone c x (s.modCtx d y f) := by
  obtain ⟨hl, hx, hq⟩ := h
  refine ⟨setCore_listed hl d _, ?_, hq⟩
  by_cases hd : c = d ∧ x = y
  · obtain ⟨rfl, rfl⟩ := hd
    rw [State.ctx_modCtx, hx, hf]
  · rw [State.ctx_modCtx_ne _ _ (by tauto), hx]

theorem gone_strike (h : Gone c x s) {e : CoreRef × BitVec 2} (he : (c, x) ≠ e) : Gone c x (s.strike e.1 e.2) := by
  obtain ⟨hl, hx, hq⟩ := h
  refine ⟨strike_listed hl _ _, (strike_ctx_ne s he).trans hx, fun q hm => hq q ?_⟩
  rw [strike_reqs] at hm
  exact List.mem_of_mem_filter hm

theorem strikeAll_cons (s : State) (e : CoreRef × BitVec 2) (l : List (CoreRef × BitVec 2)) :
    s.strikeAll (e :: l) = (s.strike e.1 e.2).strikeAll l := by
  unfold State.strikeAll
  exact List.foldl_cons ..

theorem gone_strikeAll {l : List (CoreRef × BitVec 2)} (h : Gone c x s) (hl : (c, x) ∉ l) : Gone c x (s.strikeAll l) := by
  induction l generalizing s with
  | nil => exact h
  | cons e l ih =>
    obtain ⟨he, hl⟩ := List.ne_and_not_mem_of_not_mem_cons hl
    rw [strikeAll_cons]
    exact ih (gone_strike h he) hl

/-- 11 R294: a kill of a stream strikes none of the contexts that have left it. -/
theorem gone_killStream (h : Gone c x s) (key n : Nat) (w : CoreRef × BitVec 2) : Gone c x (s.killStream key n w) := by
  by_cases ha : (s.streams.any fun y => y.key == key) = true
  · cases hk : (s.stream key).kill with
    | none =>
      rw [killStream_eq ha hk]
      have hg : Gone c x ((s.modStream key fun y => y.struckBy n (s.ctx w.1 w.2) w.2).giveBack (s.stream key).die
          ((s.stream key).saved.flatMap (·.chans))) :=
        gone_of_same h ((offDie_cores (offDie_giveBack _ _ _)).trans (State.modStream_cores _ _ _))
          ((offDie_reqs (offDie_giveBack _ _ _)).trans (State.modStream_reqs _ _ _))
      exact gone_of_same (gone_strikeAll hg (gone_not_mem hg key)) rfl rfl
    | some k =>
      simp only [State.killStream, ha, hk, Bool.not_true, Bool.false_eq_true, if_false, Option.isSome_some, if_true]
      split
      · exact gone_of_same h rfl rfl
      · exact h
  · simp only [State.killStream, ha, Bool.not_false, if_true]
    exact h

theorem gone_killAtSafePoints (h : Gone c x s) (key : Nat) : Gone c x (s.killAtSafePoints key) := by
  unfold State.killAtSafePoints
  split
  · exact h
  · dsimp only
    split
    · exact gone_killStream h key 6 _
    · exact h

theorem gone_charge (h : Gone c x s) (key : Nat) : Gone c x (s.charge key) := by
  have hu : Gone c x (s.uncharged (s.ctxsOf key)) := by
    unfold State.uncharged
    refine foldl_keeps (p := Gone c x) ?_ _ _ h
    exact fun t e ht => gone_modCtx ht rfl e.1 e.2
  rw [charge_eq]
  exact gone_of_same hu rfl rfl

/-- 11 R292, 17 R389: a stream that is checked out, or killed at its safe points, takes up none of the contexts that have left it. -/
theorem gone_checkOut (h : Gone c x s) (key : Nat) : Gone c x (s.checkOut key) := by
  unfold State.checkOut
  dsimp only
  split
  · exact gone_killAtSafePoints h key
  split
  · have hf : Gone c x ((s.ctxsOf key).foldl (fun s e => s.setCtx e.1 e.2 Ctx.idle) (s.charge key)) := by
      refine foldl_keeps (p := Gone c x) ?_ _ _ (gone_charge h key)
      exact fun t e ht => gone_modCtx (f := fun _ => Ctx.idle) ht rfl e.1 e.2
    exact gone_of_same hf rfl rfl
  · exact h

theorem gone_retireStream (h : Gone c x s) (key : Nat) : Gone c x (s.retireStream key) := by
  unfold State.retireStream
  dsimp only
  split
  · exact h
  split
  all_goals
    refine gone_of_same (gone_charge h key) ?_ ?_
    · simp only [due_cores, State.modQ_cores]
    · simp only [due_reqs, State.modQ_reqs]

end

/-! ### What the end of a stream stores -/

theorem checkOut_keeps (s : State) (key : Nat) : s.KeepsData (s.checkOut key) := by
  unfold State.checkOut State.killAtSafePoints
  dsimp only
  split
  · split
    · exact .refl s
    split
    · exact State.killStream_keeps _ _ _ _
    · exact .refl s
  split
  · refine .of_mem ?_
    simp only [State.modQ_mem, State.modStream_mem]
    refine (foldl_mem ?_ _ _).trans (charge_mem s key)
    exact fun t e => State.setCtx_mem t e.1 e.2 Ctx.idle
  · exact .refl s

theorem retireStream_keeps (s : State) (key : Nat) : s.KeepsData (s.retireStream key) := by
  unfold State.retireStream
  dsimp only
  split
  · exact .refl s
  split
  all_goals
    refine .of_mem ?_
    simp only [due_mem, State.modQ_mem, charge_mem]

/-! ### The last context of a stream (17 R375, R376) -/

theorem qcmds_modQ (s : State) (d : BitVec 2) (q : BitVec 8) (f : QueueRec → QueueRec) (e : BitVec 2) :
    ((s.modQ d q f).die e).qcmds = (s.die e).qcmds := by
  by_cases h : e = d
  · subst h; rw [State.modQ, State.die_modDie]
  · rw [State.modQ, State.die_modDie_ne _ _ h]

theorem charge_qcmds (s : State) (key : Nat) (d : BitVec 2) : ((s.charge key).die d).qcmds = (s.die d).qcmds := by
  rw [charge_eq, qcmds_modQ, State.die, State.modStream_dies, show (s.uncharged _).dies = s.dies from
    (congrArg State.dies (uncharged_rest s _) :)]
  rfl

theorem charged_retired (q : QueueRec) (n : Nat) : (q.charged n).retired = q.retired := by
  unfold QueueRec.charged
  split <;> rfl

/-- The record that a completion due leaves with the Postmaster. -/
theorem due_qcmds (s : State) (d : BitVec 2) (m : QCmd) :
    ((s.due d m).die d).qcmds = (s.die d).qcmds ++ [{ m with id := s.nextId, phase := .due }] := by
  rw [State.due, State.die_modDie]
  rfl

theorem due_qrec (s : State) (d : BitVec 2) (m : QCmd) (q : BitVec 8) : (s.due d m).qrec d q = s.qrec d q := by
  rw [State.qrec, State.due, State.die_modDie]
  rfl

/-- A stream is charged a last time and leaves its queue and the list of streams. -/
def State.delist (s : State) (key : Nat) : State :=
  { (s.charge key).modQ (s.stream key).die (s.stream key).q fun q => { q with resume := q.resume.filter (· != key) } with
    streams := (s.charge key).streams.filter fun x => x.key != key }

theorem delist_streams (s : State) (key : Nat) : (s.delist key).streams = (s.charge key).streams.filter fun x => x.key != key := rfl

theorem die_withStreams (s : State) (l : List Stream) (d : BitVec 2) : ({ s with streams := l } : State).die d = s.die d := rfl
theorem qrec_withStreams (s : State) (l : List Stream) (d : BitVec 2) (q : BitVec 8) :
    ({ s with streams := l } : State).qrec d q = s.qrec d q := rfl

theorem delist_qcmds (s : State) (key : Nat) (d : BitVec 2) : ((s.delist key).die d).qcmds = (s.die d).qcmds := by
  rw [State.delist, die_withStreams, qcmds_modQ, charge_qcmds]

theorem delist_retired (s : State) (key : Nat) :
    ((s.delist key).qrec (s.stream key).die (s.stream key).q).retired = (s.qrec (s.stream key).die (s.stream key).q).retired := by
  rw [State.delist, qrec_withStreams, State.qrec_modQ, charge_qrec]
  exact charged_retired _ _

/-- 17 R375: a stream none of whose contexts is left retires: it is counted, and its record is due. -/
theorem retireStream_last {s : State} {key : Nat} (ha : (s.streams.any fun y => y.key == key) = true) (hc : s.ctxsOf key = [])
    (ho : (s.stream key).out = false) (hk : (s.stream key).kill = none) :
    let st := s.stream key
    ((s.retireStream key).streams.any fun y => y.key == key) = false ∧
    ((s.retireStream key).qrec st.die st.q).retired = (s.qrec st.die st.q).retired + 1 ∧
    ∃ n, ((s.retireStream key).die st.die).qcmds = (s.die st.die).qcmds ++ [{ streamDone st with id := n, phase := .due }] := by
  intro st
  have he : s.retireStream key =
      ((s.delist key).modQ st.die st.q fun q => { q with retired := q.retired + 1 }).due st.die (streamDone st) := by
    simp [State.retireStream, State.delist, ha, hc, ho, hk, st]
  rw [he]
  have hrec := due_qcmds ((s.delist key).modQ st.die st.q fun q => { q with retired := q.retired + 1 }) st.die (streamDone st)
  rw [qcmds_modQ, delist_qcmds] at hrec
  refine ⟨?streams, ?retired, _, hrec⟩
  case streams => rw [due_streams, State.modQ_streams, delist_streams]; simp
  case retired => rw [due_qrec, State.qrec_modQ, delist_retired]

/-- With none of its contexts left, a stream has none to check out. -/
theorem checkOut_none {s : State} {key : Nat} (h : s.ctxsOf key = []) : s.checkOut key = s := by
  simp [State.checkOut, State.killAtSafePoints, h]

/-! ### Leaving (01 R16) -/

/-- What the leaving of a context makes of the package before its stream is looked at. -/
def State.departed (s : State) (c : CoreRef) (x : BitVec 2) : State :=
  let k := s.ctx c x
  let t := (s.unpark c x).carryCharge c x
  let t : State := { t with reqs := t.reqs.filter fun r => !r.mine c x }
  let t := if (t.core c).owner == some x then t.discardChain c else t
  let t := t.modCore c fun k => { k.setCtx x Ctx.idle with fwaits := k.fwaits.filter fun w => w.ctx != x }
  t.modStream k.stream fun st => { st with left := st.left ++ [k.rank.toNat] }

theorem exec_contextLeave_may {s : State} {c : CoreRef} {x : BitVec 2} (h : s.mayLeave c x = true) :
    exec (.contextLeave ⟨c.die, c.core, x⟩) s =
      .next (((s.departed c x).checkOut (s.ctx c x).stream).retireStream (s.ctx c x).stream) := by
  change execContextLeave ⟨c.die, c.core, x⟩ s = _
  simp only [execContextLeave, coreOf, h, Bool.not_true, Bool.false_eq_true, if_false]
  rfl

/-- The requests of a context are gone. -/
def State.quit (s : State) (c : CoreRef) (x : BitVec 2) : State := { s with reqs := s.reqs.filter fun r => !r.mine c x }


/-- The context's PARKs have ended, what it has issued is carried by its stream, and its requests are gone. -/
def State.shed (s : State) (c : CoreRef) (x : BitVec 2) : State := ((s.unpark c x).carryCharge c x).quit c x

/-- 01 R16: the slot of a context is free, and its flag waits are gone. -/
def Core.vacate (k : Core) (x : BitVec 2) : Core := { k.setCtx x Ctx.idle with fwaits := k.fwaits.filter fun w => w.ctx != x }

theorem vacate_getCtx (k : Core) (x : BitVec 2) : (k.vacate x).getCtx x = Ctx.idle := Core.getCtx_setCtx k x Ctx.idle
theorem vacate_getCtx_ne (k : Core) {x y : BitVec 2} (h : y ≠ x) : (k.vacate x).getCtx y = k.getCtx y :=
  Core.getCtx_setCtx_ne k Ctx.idle h

/-- The context's core as it leaves: its chain is discarded and its slot vacated. -/
def State.freed (s : State) (c : CoreRef) (x : BitVec 2) : State :=
  (if (s.core c).owner == some x then s.discardChain c else s).modCore c fun k => k.vacate x

/-- 17 R382: a stream carries what a context has issued. 01 R16: it notes that the context has left. -/
def Stream.carrying (y : Stream) (k : Ctx) : Stream := { y with carry := y.carry + k.charge }
def Stream.parting (y : Stream) (k : Ctx) : Stream := { y with left := y.left ++ [k.rank.toNat] }

theorem carrying_key (k : Ctx) (y : Stream) : (y.carrying k).key = y.key := rfl
theorem parting_key (k : Ctx) (y : Stream) : (y.parting k).key = y.key := rfl

theorem departed_eq (s : State) (c : CoreRef) (x : BitVec 2) :
    s.departed c x = ((s.shed c x).freed c x).modStream (s.ctx c x).stream fun y => y.parting (s.ctx c x) := rfl

section
variable (s : State) (c : CoreRef) (x : BitVec 2)

/-! What the end of a context changes of its core. -/

theorem freed_rest : ({ s.freed c x with cores := s.cores } : State) = s := by
  unfold State.freed
  split <;> rfl

theorem freed_ctx : (s.freed c x).ctx c x = Ctx.idle := by
  unfold State.freed
  rw [State.ctx, State.core_modCore, vacate_getCtx]

theorem ctxsKept_discardChain : CtxsKept s (s.discardChain c) := by
  unfold State.discardChain
  refine ctxsKept_modCore ?_ s c
  exact fun _ => rfl

theorem freed_ctx_ne {d : CoreRef} {y : BitVec 2} (h : (d, y) ≠ (c, x)) : (s.freed c x).ctx d y = s.ctx d y := by
  unfold State.freed
  rw [ctx_modCore_ne (fun k hd => vacate_getCtx_ne k fun hy => h (by rw [hd, hy]))]
  split
  · exact (ctxsKept_discardChain s c).2 d y
  · rfl

theorem freed_listed (h : CoresListed s) : CoresListed (s.freed c x) := by
  unfold State.freed
  refine setCore_listed ?_ c _
  split
  · exact (ctxsKept_discardChain s c).1 h
  · exact h

/-! What leaves the list of requests, and what a stream carries. -/

theorem shed_rest : ({ s.shed c x with reqs := s.reqs, streams := s.streams } : State) = s.unpark c x := by
  have hu := offDie_unpark s c x
  unfold State.shed
  generalize s.unpark c x = t at hu ⊢
  rw [← offDie_reqs hu, ← offDie_streams hu]
  rfl

theorem shed_reqs : (s.shed c x).reqs = s.reqs.filter fun r => !r.mine c x := by
  have hu := offDie_unpark s c x
  unfold State.shed
  generalize s.unpark c x = t at hu ⊢
  rw [← offDie_reqs hu]
  rfl

/-- The stream of the context carries what the context has issued. -/
theorem shed_streams : (s.shed c x).streams =
    (s.modStream (s.ctx c x).stream fun y => y.carrying (s.ctx c x)).streams := by
  have hu := offDie_unpark s c x
  have hx := (ctxsKept_unpark s c x).2 c x
  unfold State.shed
  generalize s.unpark c x = t at hu hx ⊢
  rw [← hx]
  simp only [State.modStream, ← offDie_streams hu]
  rfl

theorem ctxsKept_shed : CtxsKept s (s.shed c x) := by
  have hu := offDie_cores (offDie_unpark s c x)
  have hr : (s.shed c x).cores = (s.unpark c x).cores := by
    have h := shed_rest s c x
    generalize s.shed c x = t at h ⊢
    rw [← h]
  exact .of_cores (hr.trans hu)

end

end Sys2Proof.Machine
end

section
/-! The life of a context, from its start to the end of its stream (01 R15, R16, R20 to R22, 11 R278 to R286, 17 R375, R382). -/
namespace Sys2Proof.Machine
open Sys2Proof.Claims

/-! ### What the queues of a die show -/

/-- The queue records and the commands of a die. -/
def State.queueView (s : State) (d : BitVec 2) : Vector QueueRec 256 × List QCmd := ((s.die d).queues, (s.die d).qcmds)

theorem queueView_of_dies {s t : State} (h : t.dies = s.dies) (d : BitVec 2) : t.queueView d = s.queueView d := by
  unfold State.queueView State.die
  rw [h]

theorem qrec_of_view {s t : State} {d : BitVec 2} (h : t.queueView d = s.queueView d) (q : BitVec 8) : t.qrec d q = s.qrec d q := by
  have hq : (t.die d).queues = (s.die d).queues := (congrArg Prod.fst h :)
  simp only [State.qrec, hq]

theorem queueView_modDie {f : Die → Die} (hf : ∀ x, (f x).queues = x.queues ∧ (f x).qcmds = x.qcmds) (s : State) (d e : BitVec 2) :
    (s.modDie d f).queueView e = s.queueView e := by
  unfold State.queueView
  by_cases h : e = d
  · subst h
    rw [State.die_modDie, (hf _).1, (hf _).2]
  · rw [State.die_modDie_ne _ _ h]

theorem queueView_putBucket (s : State) (d e : BitVec 2) (b : Bucket) : (s.putBucket d b).queueView e = s.queueView e := by
  unfold State.putBucket
  refine (queueView_modDie ?_ _ d e).trans (queueView_of_dies rfl e)
  exact fun _ => ⟨rfl, rfl⟩

theorem queueView_removeRecs (s : State) (d e : BitVec 2) (f : ParkRec → Bool) : (s.removeRecs d f).queueView e = s.queueView e := by
  unfold State.removeRecs
  refine foldl_keeps (p := fun t : State => t.queueView e = s.queueView e) ?_ _ s rfl
  exact fun t b ht => (queueView_putBucket t d e _).trans ht

/-- 18 R407: the end of a context's PARKs leaves the queues. -/
theorem queueView_unpark (s : State) (c : CoreRef) (x : BitVec 2) (e : BitVec 2) : (s.unpark c x).queueView e = s.queueView e := by
  have hr : (([0, 1, 2, 3] : List (BitVec 2)).foldl (fun s d => s.removeRecs d fun r => r.core == c && r.ctx == x) s).queueView e =
      s.queueView e := by
    refine foldl_keeps (p := fun t : State => t.queueView e = s.queueView e) ?_ _ s rfl
    exact fun t d ht => (queueView_removeRecs t d e _).trans ht
  unfold State.unpark
  rw [← hr]
  simp only [State.queueView, State.die, Vector.getElem_map]

/-! ### Departure -/

section
variable (s : State) (c : CoreRef) (x : BitVec 2)

theorem shed_mem : (s.shed c x).mem = (s.unpark c x).mem := by
  have h := shed_rest s c x
  generalize s.shed c x = t at h ⊢
  rw [← h]

theorem shed_dies : (s.shed c x).dies = (s.unpark c x).dies := by
  have h := shed_rest s c x
  generalize s.shed c x = t at h ⊢
  rw [← h]

theorem freed_mem : (s.freed c x).mem = s.mem := (congrArg State.mem (freed_rest s c x) :)
theorem freed_reqs : (s.freed c x).reqs = s.reqs := (congrArg State.reqs (freed_rest s c x) :)
theorem freed_dies : (s.freed c x).dies = s.dies := (congrArg State.dies (freed_rest s c x) :)
theorem freed_streams : (s.freed c x).streams = s.streams := (congrArg State.streams (freed_rest s c x) :)

/-- A context that has left holds no slot and no request. -/
theorem gone_departed (h : CoresListed s) : Gone c x (s.departed c x) := by
  have hg : Gone c x ((s.shed c x).freed c x) := by
    refine ⟨freed_listed _ c x ((ctxsKept_shed s c x).1 h), freed_ctx _ c x, fun q hq => ?_⟩
    rw [freed_reqs, shed_reqs] at hq
    simpa using List.of_mem_filter hq
  rw [departed_eq]
  exact gone_of_same hg (State.modStream_cores _ _ _) (State.modStream_reqs _ _ _)

theorem departed_ctx_ne {d : CoreRef} {y : BitVec 2} (h : (d, y) ≠ (c, x)) : (s.departed c x).ctx d y = s.ctx d y := by
  rw [departed_eq]
  calc _ = ((s.shed c x).freed c x).ctx d y := (CtxsKept.of_cores (State.modStream_cores _ _ _)).2 d y
    _ = (s.shed c x).ctx d y := freed_ctx_ne _ c x h
    _ = s.ctx d y := (ctxsKept_shed s c x).2 d y

theorem departed_keeps : s.KeepsData (s.departed c x) := by
  refine (State.unpark_keeps s c x).trans (.of_mem ?_)
  rw [departed_eq, State.modStream_mem, freed_mem, shed_mem]

theorem departed_queueView (d : BitVec 2) : (s.departed c x).queueView d = s.queueView d := by
  refine (queueView_of_dies ?_ d).trans (queueView_unpark s c x d)
  rw [departed_eq, State.modStream_dies, freed_dies, shed_dies]

theorem departed_any (key : Nat) : ((s.departed c x).streams.any fun y => y.key == key) = s.streams.any fun y => y.key == key := by
  rw [departed_eq, any_modStream (parting_key _), freed_streams, shed_streams, any_modStream (carrying_key _)]

theorem departed_stream (h : (s.streams.any fun y => y.key == (s.ctx c x).stream) = true) :
    (s.departed c x).stream (s.ctx c x).stream = ((s.stream (s.ctx c x).stream).carrying (s.ctx c x)).parting (s.ctx c x) := by
  have hs : ((s.shed c x).freed c x).streams = (s.modStream (s.ctx c x).stream fun y => y.carrying (s.ctx c x)).streams := by
    rw [freed_streams, shed_streams]
  have ha : (((s.shed c x).freed c x).streams.any fun y => y.key == (s.ctx c x).stream) = true := by
    rw [hs, any_modStream (carrying_key _), h]
  rw [departed_eq, stream_modStream (parting_key _) ha, stream_of_streams hs, stream_modStream (carrying_key _) h]

/-- When the only context of a stream leaves, none is left. -/
theorem departed_last (h : CoresListed s) {key : Nat} (hl : s.ctxsOf key = [(c, x)]) : (s.departed c x).ctxsOf key = [] := by
  have hg := gone_departed s c x h
  refine List.eq_nil_iff_forall_not_mem.mpr fun e he => ?_
  have hne : e ≠ (c, x) := fun hx => gone_not_mem hg key (hx ▸ he)
  have hm : e ∈ s.ctxsOf key := by
    rw [← e.eta, mem_ctxsOf hg.1, departed_ctx_ne s c x hne] at he
    exact (mem_ctxsOf h).mpr he
  rw [hl, List.mem_singleton] at hm
  exact hne hm

end

/-- 17 R375: the record of a stream that was not killed is of KIND 1. -/
theorem streamDone_kind {st : Stream} (h : st.kill = none) : (streamDone st).kind = 1 := by
  simp only [streamDone, h, Option.isSome_none, Bool.false_eq_true, if_false]

/-- A context that leaves changes nothing of its stream that the stream's end shows. -/
theorem departing_rest (y : Stream) (k : Ctx) :
    ((y.carrying k).parting k).out = y.out ∧ ((y.carrying k).parting k).kill = y.kill ∧ ((y.carrying k).parting k).die = y.die ∧
      ((y.carrying k).parting k).q = y.q ∧ streamDone ((y.carrying k).parting k) = streamDone y :=
  ⟨rfl, rfl, rfl, rfl, rfl⟩

/-- 17 R375: the stream of a context that was its last retires, and its record is due. -/
theorem contextLeave_last {s : State} {c : CoreRef} {x : BitVec 2} (h : s.mayLeave c x = true) (hw : CoresListed s)
    (hl : s.ctxsOf (s.ctx c x).stream = [(c, x)]) (ha : (s.streams.any fun y => y.key == (s.ctx c x).stream) = true)
    (ho : (s.stream (s.ctx c x).stream).out = false) (hk : (s.stream (s.ctx c x).stream).kill = none) :
    let st := s.stream (s.ctx c x).stream
    answers (.contextLeave ⟨c.die, c.core, x⟩) s fun t =>
      (t.streams.any fun y => y.key == (s.ctx c x).stream) = false ∧
      (t.qrec st.die st.q).retired = (s.qrec st.die st.q).retired + 1 ∧
      ∃ n, (t.die st.die).qcmds = (s.die st.die).qcmds ++ [{ streamDone st with id := n, phase := .due }] := by
  intro st
  have hx := exec_contextLeave_may h
  have hst := departed_stream s c x ha
  have hv := departed_queueView s c x st.die
  have hu := (departed_any s c x _).trans ha
  have hc := departed_last s c x hw hl
  rw [checkOut_none hc] at hx
  generalize s.departed c x = u at hx hst hv hu hc
  obtain ⟨hout, hkill, hdie, hqn, hdone⟩ := departing_rest (s.stream (s.ctx c x).stream) (s.ctx c x)
  rw [← hst] at hout hkill hdie hqn hdone
  obtain ⟨hgone, hret, hrec⟩ := retireStream_last hu hc (hout.trans ho) (hkill.trans hk)
  have hq : (u.die st.die).qcmds = (s.die st.die).qcmds := (congrArg Prod.snd hv :)
  rw [hdie, hqn, qrec_of_view hv] at hret
  rw [hdie, hdone, hq] at hrec
  exact ⟨_, hx, hgone, hret, hrec⟩

/-- An access slice that takes a trap is one of a decoupled nest. -/
theorem ofAccess_decoupled (k : Ctx) (acc : Bool) (n : Nat) : (k.ofAccess acc n && k.decoupled) = k.ofAccess acc n := by
  unfold Ctx.ofAccess
  cases k.decoupled <;> simp

/-- 17 R382: a charge to a queue that is not URGENT and is enabled or draining. -/
theorem charged_deficit {q : QueueRec} (n : Nat) (hu : q.urgent = false) (hs : q.state = .enabled ∨ q.state = .draining) :
    (q.charged n).deficit = max (q.deficit - ((n / 16 : Nat) : Int)) (-4 * q.quantum) := by
  rcases hs with hs | hs <;> simp [QueueRec.charged, hu, hs]

end Sys2Proof.Machine

open Sys2Proof Sys2Proof.Machine Sys2Proof.Claims

/-- Settles O39: each event of a context's or a stream's life by the equation of its execution; a context that leaves by what its
departure keeps, and a stream's end by there being no other context that names the stream. -/
theorem contextsStartIssueTrapAndLeave : Obligations.ContextsStartIssueTrapAndLeave := by
  unfold Obligations.ContextsStartIssueTrapAndLeave
  intro s c x k r
  refine ⟨?start, ?issue, ?yields, ?trap, ?leave, ?retire, ?timeout, ?charge⟩
  case start => exact fun hl hp ht => ⟨_, exec_contextStart_due hl hp ht, State.ctx_setCtx s c x _, rfl⟩
  case issue =>
    intro b v ops hi hz hs hq he hd hb ha hf hfd hv
    have hx := exec_bundleIssue_ready hi hz hs hq (offer_ready he hd hb ha (present_ready hf hfd hv))
    refine ⟨_, hx, ?_, ?_, ?_, takeWidth_cur _ _ _ _ _⟩
    · rw [takeWidth_issue, fetched_cur]
    · rw [takeWidth_mem, fetched_mem]
    · rw [takeWidth_reqs, fetched_reqs]
  case yields => exact fun y hi hq hy => ⟨_, exec_yieldQuantum_to hi hq hy, State.core_setCore s c _, rfl⟩
  case trap =>
    intro p hi hl hh hx ha hp
    obtain ⟨t, v, ht, hu, hmem, hreqs, hiss⟩ := exec_attributedTrap_taken hi hl hh hx ha hp
    obtain ⟨hc, hpc, hacc, hslot, haddr, hinfo, hmode, hvec, hrep⟩ := enterTrap_shows hu
    exact ⟨t, ht, hc, hpc, hacc.trans (ofAccess_decoupled k p.acc p.bundle), hslot, haddr, hinfo, hmode,
      hvec.trans (landAll_reports_tvec k _), hrep, hmem, hreqs, hiss⟩
  case leave =>
    intro hm hw
    have hg := gone_retireStream (gone_checkOut (gone_departed s c x hw) k.stream) k.stream
    obtain ⟨-, hidle, hreqs⟩ := hg
    exact ⟨_, exec_contextLeave_may hm, hidle,
      ((departed_keeps s c x).trans (checkOut_keeps _ _)).trans (retireStream_keeps _ _), hreqs⟩
  case retire =>
    intro hm hw hl ha ho hk
    obtain ⟨t, ht, hgone, hret, n, hrec⟩ := contextLeave_last hm hw hl ha ho hk
    exact ⟨t, ht, hgone, hret, _, hrec, streamDone_kind hk, rfl, rfl, rfl, rfl⟩
  case timeout =>
    intro key p e he ha hp hk hl
    obtain ⟨w, hw⟩ := lateCtx_isSome he hp hl
    refine ⟨_, exec_preemptTimeout_late hw, ?_, ?_, State.killStream_keeps _ _ _ _⟩
    · rw [killStream_stream ha hk, Stream.struckBy]
      split <;> rfl
    · rw [killStream_stream ha hk, Stream.struckBy]
  case charge =>
    intro key st n q ha ho ht
    have hst := charge_stream ha
    refine ⟨_, exec_streamCharge_due ha ho ht, by rw [hst]; rfl, by rw [hst]; rfl, charge_mem s key, fun hu hs => ?_⟩
    rw [charge_qrec, charged_deficit _ hu hs]
    rfl
end

section
/-! What the register operations of the S and V slots leave unchanged (02 R45, 04 R91, R92, 06 R126, 07 R157). -/
namespace Sys2Proof.Machine
open Sys2Proof.Claims

/-! ### What keeps everything but the current context -/

theorem othersKept_refl (s : State) : OthersKept s s := by simp [OthersKept]

theorem othersKept_trans {s t u : State} (h : OthersKept s t) (k : OthersKept t u) : OthersKept s u := by
  unfold OthersKept at h k ⊢
  simp_all

theorem apart_setCtx (k : Core) (x : BitVec 2) (v : Ctx) : apart (k.setCtx x v) = apart k := rfl

theorem othersKept_modCx (s : State) (f : Ctx → Ctx) : OthersKept s (s.modCx f) := by
  have hctx : ∀ c x, ¬(c = s.cur.core ∧ x = s.cur.ctx) → (s.modCx f).ctx c x = s.ctx c x := fun c x h =>
    s.ctx_modCx_ne f (not_and_or.mp h)
  have hcore : ∀ c, apart ((s.modCx f).core c) = apart (s.core c) := fun c => by
    by_cases hc : c = s.cur.core
    · rw [hc]
      exact (congrArg apart (s.core_modCore s.cur.core _)).trans (apart_setCtx _ _ _)
    · exact congrArg apart (s.core_modCore_ne _ hc)
  exact ⟨fun _ => rfl, rfl, rfl, rfl, rfl, rfl, rfl, rfl, rfl, rfl, rfl, rfl, rfl, rfl, rfl, rfl, rfl, hctx, hcore⟩

section
variable {regs : List Reg} {pushes : List (BitVec 2)}

/-! ### Results and queue entries added to a context -/

/-- The context `d` is `c` with results in flight, of `regs` and of the queues `pushes`, and with entries of these queues. -/
def Ctx.GainsOnly (regs : List Reg) (pushes : List (BitVec 2)) (c d : Ctx) : Prop :=
  ∃ (l : List Pend) (q : Vector OpQueue 4) (w : List Wrote),
    d = { c with pend := c.pend ++ l, q := q, wrote := w } ∧
    (∀ p ∈ l, p.reg = .none ∨ p.reg ∈ regs ∨ ∃ n id, n ∈ pushes ∧ p.reg = .q n id) ∧
    (∀ n : Fin 4, q[n].head = (c.q[n]).head ∧ ∃ e, q[n].ents = (c.q[n]).ents ++ e ∧ (BitVec.ofFin n ∉ pushes → e = []))

theorem gainsOnly_refl (c : Ctx) : c.GainsOnly regs pushes c :=
  ⟨[], c.q, c.wrote, by simp, by simp, fun _ => ⟨rfl, [], by simp, fun _ => rfl⟩⟩

/-- 02 R45: a result of `r` is in flight for `r`, or for no register where `r` discards what is written. -/
theorem reg_of_result (r : Reg) : (if r.fixed then Reg.none else r) = .none ∨ (if r.fixed then Reg.none else r) = r := by
  split <;> simp

theorem gainsOnly_addResult {c d : Ctx} (h : c.GainsOnly regs pushes d) {r : Reg}
    (hr : r ∈ regs ∨ ∃ n id, n ∈ pushes ∧ r = .q n id) (acc : Bool) (v m : Vec) (n : Nat) (fl : Flags) (seq : Nat) :
    c.GainsOnly regs pushes (d.addResult acc r v m n fl seq) := by
  obtain ⟨l, q, w, rfl, hl, hq⟩ := h
  refine ⟨_, q, _, by simp only [Ctx.addResult, List.append_assoc]; rfl, ?_, hq⟩
  simp only [List.forall_mem_append, List.forall_mem_singleton]
  refine ⟨hl, ?_⟩
  rcases reg_of_result r with h | h <;> rw [h]
  · exact .inl rfl
  · exact .inr hr

/-- An entry at the tail of queue `n`. -/
def Ctx.push (c : Ctx) (n : BitVec 2) (e : QEntry) : Ctx :=
  { c with q := c.q.set n.toNat { c.q[n.toNat]'n.isLt with ents := (c.q[n.toNat]'n.isLt).ents ++ [e] } n.isLt }

theorem gainsOnly_push {c d : Ctx} (h : c.GainsOnly regs pushes d) {n : BitVec 2} (hn : n ∈ pushes) (x : QEntry) :
    c.GainsOnly regs pushes (d.push n x) := by
  obtain ⟨l, q, w, rfl, hl, hq⟩ := h
  refine ⟨l, _, w, rfl, hl, fun m => ?_⟩
  obtain ⟨hh, e, he, hp⟩ := hq m
  by_cases hm : n.toNat = m.val
  · have hmn : BitVec.ofFin m = n := BitVec.eq_of_toNat_eq hm.symm
    refine ⟨?_, e ++ [x], ?_, fun ho => absurd (hmn ▸ hn) ho⟩
    · simpa [hm] using hh
    · simpa [hm, ← List.append_assoc] using he
  · refine ⟨?_, e, ?_, hp⟩
    · simpa [hm] using hh
    · simpa [hm] using he

/-! ### The effect of a register operation, built from its parts -/

/-- From `s`, results of `regs` and entries of the queues `pushes` have been added, and nothing else has changed. -/
def AddsOnly (regs : List Reg) (pushes : List (BitVec 2)) (s t : State) : Prop := OthersKept s t ∧ s.cx.GainsOnly regs pushes t.cx

variable {s t : State}

theorem addsOnly_refl (s : State) : AddsOnly regs pushes s s := ⟨othersKept_refl s, gainsOnly_refl s.cx⟩

theorem addsOnly_modCx (h : AddsOnly regs pushes s t) {f : Ctx → Ctx}
    (hf : ∀ c : Ctx, c.GainsOnly regs pushes t.cx → c.GainsOnly regs pushes (f t.cx)) : AddsOnly regs pushes s (t.modCx f) := by
  refine ⟨othersKept_trans h.1 (othersKept_modCx t f), ?_⟩
  rw [State.cx_modCx]
  exact hf _ h.2

/-- What the bundle being issued has noted, and how far it has popped its queues, is no part of the frame. -/
theorem addsOnly_readV (h : AddsOnly regs pushes s t) (f : BitVec 6) (n : Nat) : AddsOnly regs pushes s (t.readV f n).1 := by
  simp only [State.readV]
  repeat' split
  all_goals exact h

/-- 01 R25: a result of one of the destinations. -/
theorem addsOnly_result (h : AddsOnly regs pushes s t) {r : Reg} (hr : r ∈ regs ∨ ∃ n id, n ∈ pushes ∧ r = .q n id) (v m : Vec)
    (n : Nat) (fl : Flags) : AddsOnly regs pushes s (t.result r v m n fl) :=
  addsOnly_modCx h fun _ hc => gainsOnly_addResult hc hr _ v m n fl _

/-- 04 R99: an entry reserved in one of the queues. -/
theorem addsOnly_reserve (h : AddsOnly regs pushes s t) {n : BitVec 2} (hn : n ∈ pushes) (tok : Bool) :
    AddsOnly regs pushes s (t.reserve n tok) :=
  addsOnly_modCx (f := fun c => c.push n ⟨t.nextId, 0, tok, false⟩) h fun _ hc => gainsOnly_push hc hn _

/-- The destinations of a vector operation with the field `d` (04 R96). -/
theorem addsOnly_writeV (h : AddsOnly regs pushes s t) {d : BitVec 6} (hv : d.toNat < 32 → .v (d.setWidth 5) ∈ regs)
    (hq : ¬d.toNat < 32 → d.setWidth 2 ∈ pushes) (r : VRes) (n : Nat) : AddsOnly regs pushes s (t.writeV d r n) := by
  simp only [State.writeV, State.destV]
  split
  case isTrue hd => exact addsOnly_result h (.inl (hv hd)) _ _ _ _
  case isFalse hd => exact addsOnly_result (addsOnly_reserve h (hq hd) false) (.inr ⟨_, _, hq hd, rfl⟩) _ _ _ _

theorem addsOnly_slotOp {h : Head} {k : State → State} (hx : slotOp h k s = .next t) (hk : AddsOnly regs pushes s (k s)) :
    AddsOnly regs pushes s t := by
  cases hr : opRuns s h with
  | false => rw [slotOp_off hr] at hx; cases hx; exact addsOnly_refl s
  | true => rw [slotOp_runs hr] at hx; cases hx; exact hk

end

/-! ### Operations with one register -/

section
variable {s t : State} {h : Head}

/-- A result of the only destination. -/
theorem addsOnly_one {r : Reg} (ht : AddsOnly [r] [] s t) (v m : Vec) (n : Nat) (fl : Flags) : AddsOnly [r] [] s (t.result r v m n fl) :=
  addsOnly_result ht (.inl (List.mem_singleton_self r)) v m n fl

theorem addsOnly_writeS {d : BitVec 6} (ht : AddsOnly [.s d] [] s t) (w : Word) (n : Nat) (fl : Flags) :
    AddsOnly [.s d] [] s (t.writeS d w n fl) := addsOnly_one ht _ _ _ _

theorem addsOnly_writeP {d : BitVec 4} (ht : AddsOnly [.p d] [] s t) (b : Bool) (n : Nat) (fl : Flags) :
    AddsOnly [.p d] [] s (t.writeP d b n fl) := addsOnly_one ht _ _ _ _

theorem addsOnly_writeK {d : BitVec 3} (ht : AddsOnly [.k d] [] s t) (w : Word) (n : Nat) :
    AddsOnly [.k d] [] s (t.writeK d w n) := addsOnly_one ht _ _ _ _

theorem addsOnly_intOp {f : F3} {n : Nat} {g : Int → Int → Int} (hx : intOp h f n g s = .next t) : AddsOnly [.s f.d] [] s t :=
  addsOnly_slotOp hx (addsOnly_writeS (addsOnly_refl s) _ _ _)

theorem addsOnly_rawOp {f : F3} {n : Nat} {g : Nat → Nat → Int} (hx : rawOp h f n g s = .next t) : AddsOnly [.s f.d] [] s t :=
  addsOnly_slotOp hx (addsOnly_writeS (addsOnly_refl s) _ _ _)

theorem addsOnly_immOp {f : FI} {ty : Ty} {n : Nat} {b : Int} {g : Int → Int → Int} (hx : immOp h f ty n b g s = .next t) :
    AddsOnly [.s f.d] [] s t :=
  addsOnly_slotOp hx (addsOnly_writeS (addsOnly_refl s) _ _ _)

theorem addsOnly_rawImm {f : FI} {ty : Ty} {n : Nat} {g : Nat → Int} (hx : rawImm h f ty n g s = .next t) :
    AddsOnly [.s f.d] [] s t :=
  addsOnly_slotOp hx (addsOnly_writeS (addsOnly_refl s) _ _ _)

theorem addsOnly_fltOp {f : F3} {n : Nat} {g : Ty → Ctl → Nat → Nat → Nat × Flags} (hx : fltOp h f n g s = .next t) :
    AddsOnly [.s f.d] [] s t :=
  addsOnly_slotOp hx (addsOnly_writeS (addsOnly_refl s) _ _ _)

/-- 06 R133: a condition and its complement. -/
theorem addsOnly_writePair (d c : BitVec 4) (v : Bool) (n : Nat) (fl : Flags) :
    AddsOnly [.p d, .p c] [] s (s.writePair d c v n fl) :=
  addsOnly_result (addsOnly_result (addsOnly_refl s) (.inl (by simp)) _ _ _ _) (.inl (by simp)) _ _ _ _

/-! ### Operations with a vector destination (07 R157) -/

/-- 04 R96: the registers and the queues that a vector destination field names. -/
def vecRegs (d : BitVec 6) : List Reg := if d.toNat < 32 then [.v (d.setWidth 5)] else []
def vecPushes (d : BitVec 6) : List (BitVec 2) := if d.toNat < 32 then [] else [d.setWidth 2]

theorem addsOnly_dest {d : BitVec 6} (ht : AddsOnly (vecRegs d) (vecPushes d) s t) (r : VRes) (n : Nat) :
    AddsOnly (vecRegs d) (vecPushes d) s (t.writeV d r n) :=
  addsOnly_writeV ht (fun hd => by simp [vecRegs, hd]) (fun hd => by simp [vecPushes, hd]) r n

variable {f : F4} {n : Nat}

theorem addsOnly_vecOp1 {g : Vec → Vec → VRes} (hx : vecOp1 h f n g s = .next t) : AddsOnly (vecRegs f.d) (vecPushes f.d) s t :=
  addsOnly_slotOp hx (addsOnly_dest (addsOnly_readV (addsOnly_refl s) _ _) _ _)

theorem addsOnly_vecOp2 {g : Vec → Vec → Vec → VRes} (hx : vecOp2 h f n g s = .next t) :
    AddsOnly (vecRegs f.d) (vecPushes f.d) s t :=
  addsOnly_slotOp hx (addsOnly_dest (addsOnly_readV (addsOnly_readV (addsOnly_refl s) _ _) _ _) _ _)

theorem addsOnly_vecOp3 {g : Vec → Vec → Vec → Vec → VRes} (hx : vecOp3 h f n g s = .next t) :
    AddsOnly (vecRegs f.d) (vecPushes f.d) s t :=
  addsOnly_slotOp hx (addsOnly_dest (addsOnly_readV (addsOnly_readV (addsOnly_readV (addsOnly_refl s) _ _) _ _) _ _) _ _)

theorem addsOnly_laneOp2 {g : Ty → Ctl → Nat → Nat → Nat × Flags} (hx : laneOp2 h f n g s = .next t) :
    AddsOnly (vecRegs f.d) (vecPushes f.d) s t := addsOnly_vecOp2 hx

theorem addsOnly_transOp {g : FVal → FVal × Flags} (hx : transOp h f g s = .next t) :
    AddsOnly (vecRegs f.d) (vecPushes f.d) s t := addsOnly_vecOp1 hx

/-- 07 R156: the destination of a pair, which no queue takes, and its successor. -/
theorem pairDst_ok {d : BitVec 6} (hd : pairDst d = []) : d.toNat < 32 ∧ (d + 1).toNat < 32 := by
  revert d
  decide

theorem pairDst_of_fieldsOk {f : F4} (hf : (Instr.vtopk h f).fieldsOk = true ∨ (Instr.vmergek h f).fieldsOk = true) :
    pairDst f.d = [] := by
  simp only [Instr.fieldsOk, fieldDefects, List.isEmpty_iff, List.append_eq_nil_iff] at hf
  tauto

theorem addsOnly_writePairV {d : BitVec 6} (ht : AddsOnly [.v (d.setWidth 5), .v (d.setWidth 5 + 1)] [] s t) (hd : pairDst d = [])
    (r : Vec × Vec) (n : Nat) : AddsOnly [.v (d.setWidth 5), .v (d.setWidth 5 + 1)] [] s (t.writePairV d r n) := by
  obtain ⟨h0, h1⟩ := pairDst_ok hd
  have hs : (d + 1).setWidth 5 = d.setWidth 5 + 1 := by bv_omega
  refine addsOnly_writeV (addsOnly_writeV ht ?_ ?_ _ _) ?_ ?_ _ _
  · exact fun _ => by simp
  · exact fun hn => absurd h0 hn
  · exact fun _ => by rw [hs]; simp
  · exact fun hn => absurd h1 hn

end

/-- Every register operation adds what its row of the table of `registerOp` says, and changes nothing else. -/
theorem addsOnly_registerOp {s t : State} {i : Instr} {h : Head} {regs : List Reg} {pushes : List (BitVec 2)}
    (hi : registerOp i = some (h, regs, pushes)) (hf : i.fieldsOk = true) (hx : exec i s = .next t) : AddsOnly regs pushes s t := by
  cases i <;> dsimp only [exec] at hx <;> cases hi
  case add | sub | mul | mulh | mulhn | div | divn | rem | remn | min | max | minn | maxn => exact addsOnly_intOp hx
  case and | or | xor | andn | shr | sra | rotl | clz | popc | ext => exact addsOnly_rawOp hx
  case addi | subi | muli | mulhi | mulhni | divi | divni | remi | remni | shli | mini | maxi | minni | maxni =>
    exact addsOnly_immOp hx
  case andi | ori | xori | andni | shri | srai | rotli | exti | leai => exact addsOnly_rawImm hx
  case fadd | fsub | fmul | fmin | fmax | fdiv => exact addsOnly_fltOp hx
  case vadd | vsub | vmul | vmin | vmax | vand | vor | vxor | vshl | vshr | vsra | vcmp | vdiv =>
    exact addsOnly_laneOp2 hx
  case vexp2 | vlog2 | vrcp | vrsq | vsqrt => exact addsOnly_transOp hx
  case vmov | vcvt | vscan | vquant => exact addsOnly_vecOp1 hx
  case vperm | vslide => exact addsOnly_vecOp2 hx
  case vfma | vsel | vdot4 => exact addsOnly_vecOp3 hx
  case shl | sel | ins | lea | mov | seli | insi | movi | movhi | fma | fcvt | getg | time | vkmovTos =>
    exact addsOnly_slotOp hx (addsOnly_writeS (addsOnly_refl s) _ _ _)
  case vgetl => exact addsOnly_slotOp hx (addsOnly_writeS (addsOnly_readV (addsOnly_refl s) _ _) _ _ _)
  case pbr | pbri | setlc | setg => exact addsOnly_slotOp hx (addsOnly_one (addsOnly_refl s) _ _ _ _)
  case plog => exact addsOnly_slotOp hx (addsOnly_writeP (addsOnly_refl s) _ _ _)
  case vkop | vkmovFroms => exact addsOnly_slotOp hx (addsOnly_writeK (addsOnly_refl s) _ _)
  case vkmovAny | vkmovAll =>
    exact addsOnly_slotOp hx (addsOnly_writeK (addsOnly_readV (addsOnly_refl s) _ _) _ _)
  case cmp | cmpi | fcmp => exact addsOnly_slotOp hx (addsOnly_writePair _ _ _ _ _)
  case vbcast | viota | vrand | vkmovTov | vsetl =>
    exact addsOnly_slotOp hx (addsOnly_dest (addsOnly_refl s) _ _)
  case vred | vamax | vcmpr =>
    exact addsOnly_slotOp hx (addsOnly_dest (addsOnly_readV (addsOnly_refl s) _ _) _ _)
  case vdesc =>
    exact addsOnly_slotOp hx (addsOnly_dest (addsOnly_readV (addsOnly_readV (addsOnly_refl s) _ _) _ _) _ _)
  case vtopk =>
    exact addsOnly_slotOp hx (addsOnly_writePairV (addsOnly_readV (addsOnly_refl s) _ _) (pairDst_of_fieldsOk (.inl hf)) _ _)
  case vmergek =>
    exact addsOnly_slotOp hx (addsOnly_writePairV (addsOnly_refl s) (pairDst_of_fieldsOk (.inr hf)) _ _)

end Sys2Proof.Machine

open Sys2Proof Sys2Proof.Machine Sys2Proof.Claims

/-- Settles O6: each operation is a slot operation whose effect adds results and queue entries one after the other. -/
theorem registerOperationsKeepEverythingElse : Obligations.RegisterOperationsKeepEverythingElse := by
  unfold Obligations.RegisterOperationsKeepEverythingElse
  intro s t i h regs pushes hi hf hx
  exact addsOnly_registerOp hi hf hx
end

section
/-! A save whose context still has a write to SAVE_AREA in flight (02 R61, 11 R288). -/
namespace Sys2Proof.Machine
open Sys2Proof.Claims

/-- 02 R61: an image begins with its version, 1. -/
theorem saveImage_version (s : State) (c : CoreRef) (x : BitVec 2) (pc : Word) (chain : Bool) (fa fb : List LinkEntry) :
    ((saveImage s c x pc chain fa fb).getD 0 (0, false)).1 = 1 := rfl

/-- The entry of a page that a save area may take (02 R61): of KIND 2, writable, pinned and marked for save areas. -/
def areaEntry (frame : Nat) : Nat := 2 ^ 92 + 0x5A + frame

/-- The write of SETSR SAVE_AREA, 0x100000, which no page of the tenant holds. -/
def strayWrite : Pend := ⟨false, .sr 0xC0, 0x100000, allBits, 0, 0, 0, 0⟩

/-- Context 0 of core 0 of die 0 is to be saved at 0x20000, in frames 0x40000 and 0x50000, with the write in flight. -/
def strayed : State :=
  let s := (State.reset.stage 0).modCx fun k => { k with life := .saving, saveArea := 0x20000, pend := [strayWrite] }
  { s with mem := writeNat (writeNat s.mem (hbmKey 0 (stageLast + 32)) 16 (areaEntry 0x40000)) (hbmKey 0 (stageLast + 48)) 16 (areaEntry 0x50000) }

/-- The page of a frame, as its entry number `n` of the table gives it. -/
def areaPlace (n frame : Nat) : Place := .dev 0 frame ⟨BitVec.ofNat 128 (areaEntry frame), false, stageLast + 16 * n⟩

theorem strayed_context : strayed.issue = none ∧ (strayed.ctx ⟨0, 0⟩ 0).life = .saving ∧ (strayed.ctx ⟨0, 0⟩ 0).reports = [] ∧
    strayed.quiet ⟨0, 0⟩ 0 = true ∧ (strayed.reqs.any fun y => y.core == ⟨0, 0⟩ && y.ctx == 0) = false ∧ strayed.memOk = true := by
  decide +kernel

theorem strayed_area :
    let k := strayed.ctx ⟨0, 0⟩ 0
    let st := strayed.stream k.stream
    (strayed.qrec st.die st.q).killing = false ∧ strayed.saveCheck st.asid k.saveArea = 0 ∧ strayed.areaStill k.saveArea = true ∧
    strayed.span st.asid k.saveArea 131072 false true false = .ok [(areaPlace 2 0x40000, 65536), (areaPlace 3 0x50000, 65536)] ∧
    (areaPlace 2 0x40000).key + 65536 ≤ (areaPlace 3 0x50000).key := by
  decide +kernel

/-- The write lands before the area is looked up, so that nothing is stored where SAVE_AREA pointed. -/
theorem strayed_stores_nothing : ∃ t, exec (.contextSave ⟨0, 0, 0⟩) strayed = .next t ∧ readByte t.mem (areaPlace 2 0x40000).key = 0 :=
  ⟨_, rfl, by decide +kernel⟩

end Sys2Proof.Machine

open Sys2Proof Sys2Proof.Machine Sys2Proof.Claims

/-- Refutes O40: a save lands the results in flight before it looks up its area, and the statement does not exclude a write to
SAVE_AREA among them. In `strayed` one moves SAVE_AREA to an address without a page, so that the image, whose first byte is 1, is
stored nowhere. -/
theorem not_contextsAreSavedAndRestored : ¬ Obligations.ContextsAreSavedAndRestored := by
  unfold Obligations.ContextsAreSavedAndRestored
  intro h
  obtain ⟨hissue, hlife, hreports, hquiet, hreqs, hok⟩ := strayed_context
  obtain ⟨hkill, hcheck, hstill, hspan, hapart⟩ := strayed_area
  obtain ⟨u, hu, hblank⟩ := strayed_stores_nothing
  obtain ⟨t, ht, himage, -⟩ :=
    (h strayed ⟨0, 0⟩ 0).1 _ _ hissue hlife hkill hcheck hquiet hreqs hreports hstill hspan (.inl hapart) hok
  obtain rfl : u = t := Host.Outcome.next.inj (hu.symm.trans ht)
  have hfirst := himage (areaPlace 2 0x40000).key (by decide +kernel)
  rw [if_pos ⟨le_rfl, by omega⟩, Nat.sub_self, saveImage_version, hblank] at hfirst
  exact absurd hfirst (by decide)
end

section
/-! The values that stand right after reset (01, 02, 17 to 20). -/
namespace Sys2Proof.Machine

theorem reset_die (d : BitVec 2) : State.reset.die d = Die.reset := by
  simp [State.die, State.reset]

theorem reset_fn (fn : BitVec 5) : State.reset.fn fn = Fn.reset := by
  by_cases h : fn.toNat < 17 <;> simp [State.fn, State.reset, Vector.getD, h]

/-- No function is reached before the island has booted. -/
theorem reset_hostOpen (fn : BitVec 5) : State.reset.hostOpen fn = false := rfl

theorem reset_ctx (c : CoreRef) (x : BitVec 2) : (State.reset.ctx c x).life = .free := reset_free x

/-- 17 R366: queue 0 is the management queue. -/
theorem reset_qrec_zero (d : BitVec 2) : State.reset.qrec d 0 = QueueRec.management := by
  simp only [State.qrec, reset_die]
  rfl

theorem reset_qrec (d : BitVec 2) {q : BitVec 8} (h : q ≠ 0) : State.reset.qrec d q = QueueRec.reset := by
  have hn : 0 ≠ q.toNat := fun e => h (BitVec.eq_of_toNat_eq e.symm)
  simp [State.qrec, reset_die, Die.reset, hn]

/-- An entry of a table in which nobody owns anything. -/
theorem nobody {n : Nat} {i : Nat} (h : i < n) : (Vector.replicate n (0xFF : BitVec 8)).getD i 0 = 0xFF := by
  simp [Vector.getD, h]

end Sys2Proof.Machine
open Sys2Proof Sys2Proof.Machine Sys2Proof.Claims

/-- Settles O58: the state after reset, part by part; of a die, of its tables entry by entry. -/
theorem resetLeavesTheStatedValues : Obligations.ResetLeavesTheStatedValues := by
  unfold Obligations.ResetLeavesTheStatedValues
  refine ⟨rfl, rfl, rfl, rfl, rfl, rfl, rfl, rfl, fun fn => ?fn, reset_ctx, fun d => ?die⟩
  case fn =>
    rw [reset_fn]
    exact ⟨reset_hostOpen fn, rfl, rfl⟩
  case die =>
    rw [reset_die, reset_qrec_zero]
    refine ⟨rfl, rfl, rfl, rfl, rfl, rfl, rfl, rfl, rfl, fun _ => nobody, fun _ h => ⟨nobody h, nobody h⟩, rfl, rfl, fun q hq => ?_⟩
    rw [reset_qrec d hq]
    exact ⟨rfl, rfl⟩
end

section
/-! A NaN operand through the exact operations, their rounding and the modifier (03 R69, R70; 04 R94). -/
namespace Sys2Proof.Machine

theorem FVal.isNaN_iff {x : FVal} : x.isNaN = true ↔ ∃ sig, x = .nan sig := by
  cases x <;> simp [FVal.isNaN]

@[simp] theorem FVal.isNaN_nan (sig : Bool) : (FVal.nan sig).isNaN = true := rfl

@[simp] theorem FVal.isNaN_negate (x : FVal) : x.negate.isNaN = x.isNaN := by
  cases x <;> rfl

/-- The exact result of `f` is a NaN as soon as one of its operands is. -/
def KeepsNaN (f : FVal → FVal → FVal × Flags) : Prop :=
  ∀ {a b : FVal}, a.isNaN = true ∨ b.isNaN = true → (f a b).1.isNaN = true

theorem keepsNaN_iff {f : FVal → FVal → FVal × Flags} :
    KeepsNaN f ↔
      (∀ sig b, (f (.nan sig) b).1.isNaN = true) ∧ ∀ sig a, (f a (.nan sig)).1.isNaN = true := by
  constructor
  · exact fun h => ⟨fun _ _ => h (.inl rfl), fun _ _ => h (.inr rfl)⟩
  · rintro ⟨hl, hr⟩ a b (h | h)
    · obtain ⟨sig, rfl⟩ := FVal.isNaN_iff.mp h
      exact hl sig b
    · obtain ⟨sig, rfl⟩ := FVal.isNaN_iff.mp h
      exact hr sig a

theorem keepsNaN_fltAdd (m : Rnd) : KeepsNaN (fltAdd m) :=
  keepsNaN_iff.mpr ⟨fun _ _ => rfl, fun _ a => by cases a <;> rfl⟩

/-- FSUB adds the negated operand, and a negated NaN is a NaN. -/
theorem keepsNaN_fltSub (m : Rnd) : KeepsNaN fun a b => fltAdd m a b.negate :=
  fun h => keepsNaN_fltAdd m (by simpa using h)

theorem keepsNaN_fltMul : KeepsNaN fltMul :=
  keepsNaN_iff.mpr ⟨fun _ _ => rfl, fun _ a => by cases a <;> rfl⟩

theorem keepsNaN_fltDiv : KeepsNaN fltDiv :=
  keepsNaN_iff.mpr ⟨fun _ _ => rfl, fun _ a => by cases a <;> rfl⟩

theorem keepsNaN_fltMin : KeepsNaN fltMin := fun h => by
  simp [fltMin, h]

theorem keepsNaN_fltMax : KeepsNaN fltMax := fun h => by
  simp [fltMax, h]

/-- The product of FMA is a NaN with either factor, and the sum with the product or the addend. -/
theorem fltFma_isNaN (m : Rnd) {a b c : FVal} (h : a.isNaN = true ∨ b.isNaN = true ∨ c.isNaN = true) :
    (fltFma m a b c).1.isNaN = true := by
  have hterms : (fltMul a b).1.isNaN = true ∨ c.isNaN = true := (or_assoc.mpr h).imp_left keepsNaN_fltMul
  exact keepsNaN_fltAdd m hterms

variable {t : Ty}

/-- 03 R69: the rounding of a NaN. -/
theorem roundF_of_isNaN (m : Rnd) (e4ovf : Bool) {x : FVal} (h : x.isNaN = true) :
    roundF t m e4ovf x = (canonNaN t, 0) := by
  obtain ⟨sig, rfl⟩ := FVal.isNaN_iff.mp h
  rfl

/-- 04 R94: a modifier leaves the canonical NaN. -/
theorem modifyFloat_of_isNaN (m : Rnd) (e4ovf : Bool) (M : ModOp) {x : FVal} (h : x.isNaN = true) :
    modifyFloat t m e4ovf M x = (canonNaN t, 0) :=
  if_pos h

theorem deliverF_of_isNaN (m : Rnd) (e4ovf : Bool) (md : Option ModOp) {x : FVal} (h : x.isNaN = true) :
    deliverF t m e4ovf md x = (canonNaN t, 0) := by
  cases md with
  | none => exact roundF_of_isNaN m e4ovf h
  | some M => exact modifyFloat_of_isNaN m e4ovf M h

theorem fltOut_of_isNaN (c : Ctl) {r : FVal × Flags} (h : r.1.isNaN = true) : (fltOut t c r).1 = canonNaN t := by
  simp [fltOut, deliverF_of_isNaN, h]

theorem arith2_of_isNaN (ht : tyIsFloat t = true) (c : Ctl) (fi : Int → Int → Int) {ff : FVal → FVal → FVal × Flags}
    (hff : KeepsNaN ff) {x y : Nat} (h : (decodeF t x).isNaN = true ∨ (decodeF t y).isNaN = true) :
    (arith2 t c fi ff x y).1 = canonNaN t := by
  rw [arith2, if_pos ht]
  exact fltOut_of_isNaN c (hff h)

theorem laneFma_of_isNaN (ht : tyIsFloat t = true) (c : Ctl) {x y z : Nat}
    (h : (decodeF t x).isNaN = true ∨ (decodeF t y).isNaN = true ∨ (decodeF t z).isNaN = true) :
    (laneFma t c x y z).1 = canonNaN t := by
  rw [laneFma, if_pos ht]
  exact fltOut_of_isNaN c (fltFma_isNaN c.rnd h)

end Sys2Proof.Machine
open Sys2Proof Sys2Proof.Machine Sys2Proof.Claims

/-- Settles O4: the exact result of each operation is a NaN when an operand is, and a NaN is delivered as the canonical
one, with a modifier or without. -/
theorem nanOperandsGiveTheCanonicalNaN : Obligations.NaNOperandsGiveTheCanonicalNaN := by
  unfold Obligations.NaNOperandsGiveTheCanonicalNaN
  intro t c x y z htype
  have ht : tyIsFloat t = true := by
    rcases htype with rfl | rfl | rfl <;> rfl
  refine ⟨fun h => ⟨?add, ?sub, ?mul, ?div, ?min, ?max⟩, fun h => laneFma_of_isNaN ht c h⟩
  case add => exact arith2_of_isNaN ht c _ (keepsNaN_fltAdd c.rnd) h
  case sub => exact arith2_of_isNaN ht c _ (keepsNaN_fltSub c.rnd) h
  case mul => exact arith2_of_isNaN ht c _ keepsNaN_fltMul h
  case div => exact fltOut_of_isNaN c (keepsNaN_fltDiv h)
  case min => exact arith2_of_isNaN ht c _ keepsNaN_fltMin h
  case max => exact arith2_of_isNaN ht c _ keepsNaN_fltMax h
end

section
namespace Sys2Proof.Machine
open Sys2Proof.Claims

/-! ### The opcode spaces (05 R112 to R122) -/

/-- A table gives its first `e` opcodes one by one and all later ones at once: what holds of both parts holds of every opcode. -/
theorem forall_opcode_of_table {P : Nat → Prop} (e : Nat) (entries : ∀ n < e, P n) (beyond : ∀ n, P (n + e)) (n : Nat) : P n := by
  rcases Nat.lt_or_ge n e with hn | hn
  · exact entries n hn
  · simpa only [Nat.sub_add_cancel hn] using beyond (n - e)

/-- 07 R176: opcode 0x41 of the V spaces is VKMOV in every form. -/
theorem isSome_decodeV_vkmov (h : Head) (x : BitVec 46) : (decodeV 0x41 h x).isSome = true := by
  simp only [decodeV]
  split <;> rfl

/-- 05 R116: the entries of the V spaces; VKMOV alone reads a field below the opcode. -/
theorem isSome_decodeV_of_lt (h : Head) (x : BitVec 46) {n : Nat} (hn : n < 0x44) :
    (decodeV n h x).isSome = (n != 0 && !reservedOpcode .v n) := by
  rcases lt_trichotomy n 0x41 with below | rfl | above
  · interval_cases n <;> rfl
  · exact isSome_decodeV_vkmov h x
  · interval_cases n <;> rfl

/-- 05 R112: an opcode names an operation of its space exactly when it is neither 0 nor reserved there. -/
theorem isSome_decodeOp (cls : SlotCls) (n : Nat) (h : Head) (x : BitVec 46) :
    (decodeOp cls n h x).isSome = (n != 0 && !reservedOpcode cls n) := by
  revert n
  cases cls with
  | s => exact forall_opcode_of_table 0xCA (fun n hn => by interval_cases n <;> rfl) fun _ => rfl
  | v => exact forall_opcode_of_table 0x44 (fun n hn => isSome_decodeV_of_lt h x hn) fun _ => rfl
  | m => exact forall_opcode_of_table 0x16 (fun n hn => by interval_cases n <;> rfl) fun _ => rfl
  | l => exact forall_opcode_of_table 0xC (fun n hn => by interval_cases n <;> rfl) fun _ => rfl
  | w => exact forall_opcode_of_table 0xA (fun n hn => by interval_cases n <;> rfl) fun _ => rfl
  | c => exact forall_opcode_of_table 0x1B (fun n hn => by interval_cases n <;> rfl) fun _ => rfl
  | y => exact forall_opcode_of_table 0x22 (fun n hn => by interval_cases n <;> rfl) fun _ => rfl

/-- 05 R112: opcode 0, the empty slot, is reserved in no space. -/
theorem ne_zero_of_reservedOpcode {cls : SlotCls} {n : Nat} (hr : reservedOpcode cls n = true) : n ≠ 0 := by
  rintro rfl
  cases cls <;> cases hr

/-! ### What a slot holds (04 R93, 05 R112) -/

/-- 04 R93: a modifier word is no operation. -/
theorem opAt_of_modifier {b : Bundle} {k : Nat} (hm : (rawSlot b k).modf = 1) : opAt b k = none := by simp [opAt, hm]

theorem isSome_opAt {b : Bundle} {k : Nat} (hm : (rawSlot b k).modf = 0) :
    (opAt b k).isSome = ((rawSlot b k).opc != 0 && !reservedOpcode (slotCls k) (rawSlot b k).opc) := by
  rw [← isSome_decodeOp _ _ (headOf b k) ((rawSlot b k).word.extractLsb' 0 46)]
  simp [opAt, hm]

/-- 05 R112, R124: a reserved opcode is a defect of reason 1, and the slot's only one. -/
theorem slotDefects_of_reservedOpcode {b : Bundle} {k : Nat} (hm : (rawSlot b k).modf = 0)
    (hr : reservedOpcode (slotCls k) (rawSlot b k).opc = true) : slotDefects b k = [1] := by
  have hop : opAt b k = none := by simpa [hr] using isSome_opAt hm
  simp [slotDefects, hm, hop, ne_zero_of_reservedOpcode hr]

/-! ### The lowest slot with a defect (04 R107) -/

theorem firstDefect_of_lowest_slot {b : Bundle} {k : Nat} (hk : k < 8) (below : ∀ j, j < k → slotDefects b j = [])
    (hd : slotDefects b k ≠ []) : firstDefect b [] = some (k, lowest (slotDefects b k)) := by
  have hsplit : List.range 8 = List.range k ++ k :: List.range' (k + 1) (7 - k) := by interval_cases k <;> rfl
  refine List.findSome?_eq_some_iff.mpr ⟨_, _, _, hsplit, by simp [hd], fun j hj => ?_⟩
  simp [below j (List.mem_range.mp hj)]

theorem decodeBundle_of_firstDefect {b : Bundle} {k r : Nat} (h : firstDefect b [] = some (k, r)) : decodeBundle b = .illegal k r := by
  rw [decodeBundle, h]

end Sys2Proof.Machine

open Sys2Proof Sys2Proof.Machine Sys2Proof.Claims

/-- Settles O56: each opcode space holds an operation at every opcode that is neither 0 nor reserved, so a reserved opcode is
a defect of reason 1, which decides the bundle when no lower slot has one. -/
theorem reservedOpcodesAreIllegalInTheirSlot : Obligations.ReservedOpcodesAreIllegalInTheirSlot := by
  unfold Obligations.ReservedOpcodesAreIllegalInTheirSlot
  refine ⟨fun b k hk hm below hr => ?_, fun b k _ hm h0 hr => ?_, fun b k hm => opAt_of_modifier hm⟩
  · have hd : slotDefects b k = [1] := slotDefects_of_reservedOpcode hm hr
    have hfirst := firstDefect_of_lowest_slot hk below (by simp [hd])
    rw [hd] at hfirst
    exact decodeBundle_of_firstDefect hfirst
  · simp [isSome_opAt hm, h0, hr]
end

section
/-! Scalar integers: types, delivery through a modifier, and exact results (03 R65, R77, 04 R94, 06 R126 to R131). -/
namespace Sys2Proof.Machine
open Sys2Proof.Claims

/-! ### Types and their numbers (03 R65, 06 R126) -/

theorem tyWidth_le (t : Ty) : tyWidth t ≤ 64 := by revert t; decide

theorem signedOf_eq_toInt (w n : Nat) : signedOf w n = (BitVec.ofNat w n).toInt := by
  cases w with
  | zero => simp [signedOf, BitVec.toInt, Nat.mod_one]
  | succ w =>
    simp only [signedOf, BitVec.toInt, BitVec.toNat_ofNat, Nat.add_sub_cancel, Nat.pow_succ]
    split <;> split <;> omega

theorem signedOf_toNat {w : Nat} (x : BitVec w) : signedOf w x.toNat = x.toInt := by
  rw [signedOf_eq_toInt, BitVec.ofNat_toNat, BitVec.setWidth_eq]

theorem signedOf_mod (w n : Nat) : signedOf w (n % 2 ^ w) = signedOf w n := by
  simp [signedOf]

theorem intOf_mod (t : Ty) (n : Nat) : intOf t (n % 2 ^ tyWidth t) = intOf t n := by
  simp [intOf, signedOf_mod]

theorem intOf_toNat (t : Ty) (x : Word) : intOf t x.toNat = number t x := by
  simp [intOf, number, signedOf_eq_toInt, BitVec.ofNat_toNat]

theorem number_signed (x : Word) : number 3 x = x.toInt :=
  congrArg BitVec.toInt (BitVec.setWidth_eq x)

theorem number_unsigned (x : Word) : number 7 x = x.toNat :=
  congrArg (fun v : Word => (v.toNat : Int)) (BitVec.setWidth_eq x)

/-! ### What a destination receives (06 R126, 04 R94) -/

theorem setWidth_ofInt {w v : Nat} (h : w ≤ v) (r : Int) : (BitVec.ofInt v r).setWidth w = BitVec.ofInt w r := by
  have hdvd : ((2 ^ w : Nat) : Int) ∣ ((2 ^ v : Nat) : Int) := Int.natCast_dvd_natCast.mpr (Nat.pow_dvd_pow 2 h)
  have hmod : (r % (2 ^ v : Nat)).toNat % 2 ^ w = (r % (2 ^ w : Nat)).toNat := by
    zify
    rw [Int.toNat_of_nonneg (Int.emod_nonneg _ (by positivity)), Int.toNat_of_nonneg (Int.emod_nonneg _ (by positivity))]
    exact_mod_cast Int.emod_emod_of_dvd r hdvd
  apply BitVec.eq_of_toNat_eq
  rw [BitVec.toNat_setWidth, BitVec.toNat_ofInt, BitVec.toNat_ofInt, hmod]

theorem extendTo64_wrapInt (t : Ty) (r : Int) : extendTo64 t (wrapInt (tyWidth t) r) = extend t (BitVec.ofInt 64 r) := by
  rw [extend, setWidth_ofInt (tyWidth_le t), extendTo64, wrapInt, ← BitVec.toNat_ofInt]
  generalize BitVec.ofInt (tyWidth t) r = x
  cases ht : tySigned t
  · rw [intOf, ht, Nat.mod_eq_of_lt x.isLt]
    exact (BitVec.ofInt_natCast 64 x.toNat).trans (BitVec.ofNat_toNat 64 x)
  · rw [intOf, ht, if_pos rfl, signedOf_toNat]
    rfl

theorem clampInt_of_le {lo hi : Int} (h : lo ≤ hi) (x : Int) : clampInt lo hi x = min hi (max lo x) := by
  simp only [clampInt]; omega

theorem least_le_greatest (t : Ty) : least t ≤ greatest t := by revert t; decide

theorem intMin_eq_least (t : Ty) : intMin (tySigned t) (tyWidth t) = least t := rfl

theorem intMax_eq_greatest (t : Ty) : intMax (tySigned t) (tyWidth t) = greatest t := by
  cases h : tySigned t <;> simp [intMax, greatest, h]

/-- 04 R94: a scale is an exact product, or a quotient rounded down. -/
theorem scaled_eq (m : ModOp) (r : Int) : scaled m r =
    if m.scale.toInt ≥ 0 then r * (2 ^ m.scale.toInt.toNat : Nat) else r / (2 ^ (-m.scale.toInt).toNat : Nat) := by
  rw [scaled]
  cases hneg : m.scale.msb
  · rw [BitVec.toInt_eq_toNat_of_msb hneg, if_pos (Int.natCast_nonneg _), Int.toNat_natCast]
    rfl
  · have hlt : m.scale.toInt < 0 := by simpa [BitVec.msb_eq_toInt] using hneg
    rw [if_pos rfl, if_neg (not_le.mpr hlt)]

theorem modifyIntCore_eq (m : ModOp) (r : Int) : modifyIntCore m r = clamped m (signed m (scaled m r)) := by
  simp only [modifyIntCore, scaled_eq, clamped, signed, signedOf_toNat, Int.natCast_natAbs, beq_iff_eq, Bool.or_eq_true]

/-- 06 R126: what the model delivers is what the claim says, for every type and modifier. -/
theorem intResult_eq_delivered (t : Ty) (md : Option ModOp) (r : Int) : intResult t md r = delivered t md r := by
  cases md with
  | none => exact extendTo64_wrapInt t r
  | some m =>
    simp only [intResult, deliverInt, extendTo64_wrapInt, delivered, modifyIntCore_eq, intMin_eq_least, intMax_eq_greatest,
      clampInt_of_le (least_le_greatest t)]

/-! ### Exact results (03 R77, 06 R129, R130) -/

theorem divInt_signed {t : Ty} (ht : tySigned t = true) (x y : Int) : divInt true (tyWidth t) x y = quotient t x y := by
  simp [divInt, quotient, ht, ← intMin_eq_least]

/-- The overflow of a signed quotient cannot occur: no source is -1. -/
theorem divInt_unsigned {t : Ty} (ht : tySigned t = false) (x : Int) {y : Int} (hy : 0 ≤ y) :
    divInt false (tyWidth t) x y = quotient t x y := by
  have hneg : y ≠ -1 := by omega
  simp [divInt, quotient, ht, greatest, hneg]

theorem number_nonneg {t : Ty} (ht : tySigned t = false) (x : Word) : 0 ≤ number t x := by
  rw [number, ht]
  exact Int.natCast_nonneg _

/-- 03 R77: the remainder of the overflowing quotient is 0, as the truncated one is. -/
theorem remInt_eq_remainder (sg : Bool) (w : Nat) (x y : Int) : remInt sg w x y = remainder x y := by
  simp only [remInt, remainder, beq_iff_eq, Bool.and_eq_true]
  split
  · rfl
  · split
    next h => rw [h.2, Int.tmod_neg, Int.tmod_one]
    next => rfl

/-- The low bits of a bitwise result, read in the type, are the number of the whole word's result. -/
theorem bitwise_toNat (t : Ty) {op : Nat → Nat → Nat} {a b c : Word}
    (h : op (a.toNat % 2 ^ tyWidth t) (b.toNat % 2 ^ tyWidth t) = c.toNat % 2 ^ tyWidth t) :
    bitwise t op a.toNat b.toNat = number t c := by
  rw [bitwise, h, intOf_mod, intOf_toNat]

theorem bitwise_and (t : Ty) (a b : Word) : bitwise t Nat.land a.toNat b.toNat = number t (a &&& b) :=
  bitwise_toNat t (by rw [BitVec.toNat_and]; exact Nat.and_mod_two_pow.symm)

theorem bitwise_or (t : Ty) (a b : Word) : bitwise t Nat.lor a.toNat b.toNat = number t (a ||| b) :=
  bitwise_toNat t (by rw [BitVec.toNat_or]; exact Nat.or_mod_two_pow.symm)

theorem bitwise_xor (t : Ty) (a b : Word) : bitwise t Nat.xor a.toNat b.toNat = number t (a ^^^ b) :=
  bitwise_toNat t (by rw [BitVec.toNat_xor]; exact Nat.xor_mod_two_pow.symm)

theorem toNat_not_mod {w : Nat} (h : w ≤ 64) (b : Word) : (~~~b).toNat % 2 ^ w = 2 ^ w - 1 - b.toNat % 2 ^ w := by
  rw [← BitVec.toNat_setWidth, BitVec.setWidth_not h, BitVec.toNat_not, BitVec.toNat_setWidth]

theorem bitwise_andNot (t : Ty) (a b : Word) :
    bitwise t (andNot (tyWidth t)) a.toNat b.toNat = number t (a &&& ~~~b) := by
  refine bitwise_toNat t ?_
  rw [BitVec.toNat_and, Nat.and_mod_two_pow, toNat_not_mod (tyWidth_le t)]
  rfl

/-! #### Shifts and rotation -/

theorem shrBits_toNat (w : Nat) (a : Word) (n : Nat) : shrBits w a.toNat n = ((a.setWidth w >>> n).toNat : Int) := by
  simp [shrBits]

theorem sraBits_toNat (w : Nat) (a : Word) (n : Nat) : sraBits w a.toNat n = (a.setWidth w).toInt / (2 ^ n : Nat) := by
  rw [sraBits, signedOf_eq_toInt, BitVec.ofNat_toNat]

theorem rotlBits_toNat (w : Nat) (a : Word) (n : Nat) : rotlBits w a.toNat n = ((a.setWidth w).rotateLeft n).toNat := by
  have hlt : (a.toNat % 2 ^ w) >>> (w - n % w) < 2 ^ w :=
    (Nat.shiftRight_le _ _).trans_lt (Nat.mod_lt _ (Nat.two_pow_pos w))
  rw [rotlBits, BitVec.toNat_rotateLeft, BitVec.toNat_setWidth, Nat.or_mod_two_pow, Nat.mod_eq_of_lt hlt]

/-! #### Counts of bits -/

theorem bitLen_le_iff {n w : Nat} : bitLen n ≤ w ↔ n < 2 ^ w := by
  by_cases hn : n = 0
  · simp [bitLen, hn]
  · simp [bitLen, hn, Nat.log2_lt]

theorem mod_two_pow_succ_bit (x : Word) (w : Nat) :
    x.toNat % 2 ^ (w + 1) = x.toNat % 2 ^ w + 2 ^ w * (x.getLsbD w).toNat := by
  rw [Nat.mod_pow_succ, BitVec.getLsbD, Nat.toNat_testBit]

/-- The model counts from the length of the low bits, the claim from the highest bit down. -/
theorem leadingZeros_eq (w : Nat) (x : Word) : leadingZeros w x = w - bitLen (x.toNat % 2 ^ w) := by
  have hle : ∀ k, bitLen (x.toNat % 2 ^ k) ≤ k := fun k => bitLen_le_iff.mpr (Nat.mod_lt _ (Nat.two_pow_pos k))
  induction w with
  | zero => simp [leadingZeros]
  | succ w ih =>
    have hbit := mod_two_pow_succ_bit x w
    cases hx : x.getLsbD w
    · simp only [hx, Bool.toNat_false, Nat.mul_zero, Nat.add_zero] at hbit
      have hskip : leadingZeros (w + 1) x = leadingZeros w x + 1 := by simp [leadingZeros, List.range_succ, hx]
      rw [hskip, ih, hbit, Nat.succ_sub (hle w)]
    · have hlong : ¬ bitLen (x.toNat % 2 ^ (w + 1)) ≤ w := by
        rw [bitLen_le_iff, hbit, hx]
        simp
      have hstop : leadingZeros (w + 1) x = 0 := by simp [leadingZeros, List.range_succ, hx]
      have := hle (w + 1)
      omega

theorem ones_eq (w : Nat) (x : Word) : popBits w x.toNat = ones w x := by
  induction w with
  | zero => rfl
  | succ w ih =>
    have hpop : popBits (w + 1) x.toNat = if x.getLsbD w then popBits w x.toNat + 1 else popBits w x.toNat := by
      simp [popBits, List.range_succ, BitVec.getLsbD]
    have hones : ones (w + 1) x = if x.getLsbD w then ones w x + 1 else ones w x := by
      cases hx : x.getLsbD w <;> simp [ones, List.range_succ, List.filter_append, hx]
    rw [hpop, hones, ih]

/-! #### Fields and addresses -/

theorem extField_toNat (a : Word) (pos len : Nat) (sg : Bool) : extField a.toNat pos (len + 1) sg = field a pos (len + 1) sg := by
  simp only [extField, field, BitVec.toNat_ushiftRight]
  cases sg
  · simp
  · simp only [signedOf, Nat.mod_mod, true_and, Nat.add_sub_cancel, if_true]
    split <;> split <;> omega

theorem and_eq_mod_and (x : Nat) {m w : Nat} (h : m < 2 ^ w) : x &&& m = x % 2 ^ w &&& m := by
  rw [← Nat.mod_eq_of_lt (Nat.and_lt_two_pow x h), Nat.and_mod_two_pow, Nat.mod_eq_of_lt h]

theorem insField_toNat (d a : Word) (pos len : Nat) : insField d.toNat a.toNat pos len = (inserted d a pos len).toNat := by
  have hm : (BitVec.ofNat 64 (2 ^ len - 1) <<< pos).toNat = ((2 ^ len - 1) <<< pos) % 2 ^ 64 := by
    rw [BitVec.toNat_shiftLeft, BitVec.toNat_ofNat, Nat.shiftLeft_eq, Nat.shiftLeft_eq, Nat.mod_mul_mod]
  have hlt : ((2 ^ len - 1) <<< pos) % 2 ^ 64 < 2 ^ 64 := Nat.mod_lt _ (by decide)
  simp only [inserted, BitVec.toNat_or, BitVec.toNat_and, BitVec.toNat_not, hm]
  rw [BitVec.toNat_shiftLeft, ← and_eq_mod_and _ hlt]
  rfl

theorem toNat_lea (a b : Word) (k : Nat) : signedOf 64 (a.toNat + b.toNat * 2 ^ k) = (a + b <<< k).toInt := by
  rw [← signedOf_toNat, ← signedOf_mod, BitVec.toNat_add, BitVec.toNat_shiftLeft, Nat.add_mod_mod, Nat.shiftLeft_eq]

/-! #### Bits of an immediate or a source -/

theorem toNat_bits {w : Nat} (x : BitVec w) (i n : Nat) : (x.extractLsb' i n).toNat = x.toNat / 2 ^ i % 2 ^ n := by
  rw [BitVec.extractLsb'_toNat, Nat.shiftRight_eq_div_pow]

theorem toNat_bits_5_0 {w : Nat} (x : BitVec w) : (x.extractLsb' 0 6).toNat = x.toNat % 64 := by
  simp

theorem toNat_bits_11_6 {w : Nat} (x : BitVec w) : (x.extractLsb' 6 6).toNat = x.toNat / 64 % 64 := by
  simpa using toNat_bits x 6 6

theorem toNat_bits_13_8 {w : Nat} (x : BitVec w) : (x.extractLsb' 8 6).toNat = x.toNat / 256 % 64 := by
  simpa using toNat_bits x 8 6

/-! ### Fields without defects (05 R124) -/

theorem isEmpty_append_iff {l m : List Nat} : (l ++ m).isEmpty = true ↔ l.isEmpty = true ∧ m.isEmpty = true := by
  simp [List.isEmpty_iff]

theorem isEmpty_left {l m : List Nat} (h : (l ++ m).isEmpty = true) : l.isEmpty = true := (isEmpty_append_iff.mp h).1

theorem mem_of_types {l : List Nat} {t : Ty} (h : (types l t).isEmpty = true) : t.toNat ∈ l := by
  simpa [types] using h

theorem isEmpty_zero_iff {w : Nat} {x : BitVec w} : (zero x).isEmpty = true ↔ x = 0 := by
  simp [zero]

theorem bits_eq_zero {w : Nat} {x : BitVec w} {i n : Nat} (h : (zero (x.extractLsb' i n)).isEmpty = true) :
    x.toNat / 2 ^ i % 2 ^ n = 0 := by
  simp only [← toNat_bits, isEmpty_zero_iff.mp h, BitVec.ofNat_eq_ofNat, BitVec.toNat_ofNat, Nat.zero_mod]

theorem tySigned_of_mem_sInts {t : Ty} (h : t.toNat ∈ sInts) : tySigned t = true := by
  revert t; decide

theorem tySigned_of_mem_uInts {t : Ty} (h : t.toNat ∈ uInts) : tySigned t = false := by
  revert t; decide

/-! ### Operations that execute -/

section
variable {s : State} {h : Head} (hr : opRuns s h = true) {n : Nat} {e : Int}
include hr

/-- A slot operation that executes and writes one integer result. -/
theorem slotOp_delivers {k : State → State} {d : BitVec 6} {t : Ty} (hk : k s = s.writeS d (intResult t h.md e) n 0) :
    slotOp h k s = .next (s.writeS d (delivered t h.md e) n 0) := by
  rw [slotOp_runs hr, hk, intResult_eq_delivered]

theorem intOp_delivers {f : F3} {g : Int → Int → Int}
    (he : g (number f.ty (s.readS h f.a 1)) (number f.ty (s.readS h f.b 2)) = e) :
    intOp h f n g s = .next (s.writeS f.d (delivered f.ty h.md e) n 0) :=
  slotOp_delivers hr (by rw [intOf_toNat, intOf_toNat, he])

theorem rawOp_delivers {f : F3} {g : Nat → Nat → Int} (he : g (s.readS h f.a 1).toNat (s.readS h f.b 2).toNat = e) :
    rawOp h f n g s = .next (s.writeS f.d (delivered f.ty h.md e) n 0) :=
  slotOp_delivers hr (by rw [he])

theorem immOp_delivers {f : FI} {t : Ty} {b : Int} {g : Int → Int → Int} (he : g (number t (s.readS h f.a 1)) b = e) :
    immOp h f t n b g s = .next (s.writeS f.d (delivered t h.md e) n 0) :=
  slotOp_delivers hr (by rw [intOf_toNat, he])

theorem rawImm_delivers {f : FI} {t : Ty} {g : Nat → Int} (he : g (s.readS h f.a 1).toNat = e) :
    rawImm h f t n g s = .next (s.writeS f.d (delivered t h.md e) n 0) :=
  slotOp_delivers hr (by rw [he])

end

/-! ### The register forms (06 R129, R130) and the immediate forms (06 R131) -/

theorem intForm_delivers {s : State} {i : Instr} {o : IntForm} (ho : intForm s i = some o) (hf : i.fieldsOk = true)
    (hr : opRuns s o.h = true) : exec i s = .next (s.writeS o.d (delivered o.ty o.h.md o.exact) o.bound 0) := by
  cases i <;> cases ho <;> dsimp only [exec] at hr ⊢
  case add | sub | mul | mulh | mulhn | min | max | minn | maxn => exact intOp_delivers hr rfl
  case div => exact intOp_delivers hr (divInt_signed (tySigned_of_mem_sInts (mem_of_types (isEmpty_left hf))) _ _)
  case divn =>
    have ht := tySigned_of_mem_uInts (mem_of_types (isEmpty_left hf))
    exact intOp_delivers hr (divInt_unsigned ht _ (number_nonneg ht _))
  case rem | remn => exact intOp_delivers hr (remInt_eq_remainder _ _ _ _)
  case and => exact rawOp_delivers hr (bitwise_and _ _ _)
  case or => exact rawOp_delivers hr (bitwise_or _ _ _)
  case xor => exact rawOp_delivers hr (bitwise_xor _ _ _)
  case andn => exact rawOp_delivers hr (bitwise_andNot _ _ _)
  case shl h f => exact slotOp_delivers hr (by rw [intOf_toNat])
  case shr => exact rawOp_delivers hr (shrBits_toNat _ _ _)
  case sra => exact rawOp_delivers hr (sraBits_toNat _ _ _)
  case rotl => exact rawOp_delivers hr (congrArg Nat.cast (rotlBits_toNat _ _ _))
  case clz => exact rawOp_delivers hr (congrArg Nat.cast (leadingZeros_eq _ _).symm)
  case popc => exact rawOp_delivers hr (congrArg Nat.cast (ones_eq _ _))
  case sel => exact slotOp_delivers hr (by rw [intOf_toNat, apply_ite (number _)])
  case ext h f =>
    exact rawOp_delivers hr (by rw [extField_toNat, toNat_bits_13_8])
  case ins h f =>
    exact slotOp_delivers hr (by dsimp only; rw [insField_toNat, signedOf_toNat, toNat_bits_13_8])
  case lea => exact slotOp_delivers hr (by rw [toNat_lea])

/-- A shift amount with the bits above it 0 (06 R131). -/
theorem shiftAmount_eq_low_bits {imm : BitVec 34} (h : (zero (imm.extractLsb' 6 28)).isEmpty = true) :
    imm.toInt.toNat % 64 = (imm.extractLsb' 0 6).toNat := by
  have hz := bits_eq_zero h
  have hlt := imm.isLt
  rw [toNat_bits_5_0, BitVec.toInt_eq_toNat_of_lt (by omega), Int.toNat_natCast]

theorem immForm_delivers {s : State} {i : Instr} {o : IntForm} (ho : immForm s i = some o) (hf : i.fieldsOk = true)
    (hr : opRuns s o.h = true) : exec i s = .next (s.writeS o.d (delivered o.ty o.h.md o.exact) o.bound 0) := by
  cases i <;> cases ho <;> dsimp only [exec] at hr ⊢
  case addi | subi | muli | mini | maxi => exact immOp_delivers hr (by rw [number_signed])
  case mulhi => exact immOp_delivers hr (by rw [number_signed, highHalf])
  case minni | maxni => exact immOp_delivers hr (by rw [number_unsigned])
  case mulhni => exact immOp_delivers hr (by rw [number_unsigned, highHalf])
  case divi => exact immOp_delivers hr (by rw [number_signed]; exact divInt_signed (t := 3) rfl _ _)
  case divni => exact immOp_delivers hr (by rw [number_unsigned]; exact divInt_unsigned (t := 7) rfl _ (Int.natCast_nonneg _))
  case remi => exact immOp_delivers hr (by rw [number_signed, remInt_eq_remainder])
  case remni => exact immOp_delivers hr (by rw [number_unsigned, remInt_eq_remainder])
  case andi => exact rawImm_delivers hr ((bitwise_and _ _ _).trans (number_signed _))
  case ori => exact rawImm_delivers hr ((bitwise_or _ _ _).trans (number_signed _))
  case xori => exact rawImm_delivers hr ((bitwise_xor _ _ _).trans (number_signed _))
  case andni => exact rawImm_delivers hr ((bitwise_andNot 3 _ _).trans (number_signed _))
  case shli => exact immOp_delivers hr (by rw [number_signed, shiftAmount_eq_low_bits hf])
  case shri => exact rawImm_delivers hr (by rw [shrBits_toNat, toNat_bits_5_0, BitVec.setWidth_eq])
  case srai => exact rawImm_delivers hr (by rw [sraBits_toNat, toNat_bits_5_0, BitVec.setWidth_eq])
  case rotli => exact rawImm_delivers hr (by rw [rotlBits_toNat, toNat_bits_5_0, BitVec.setWidth_eq])
  case seli => exact slotOp_delivers hr (by rw [intOf_toNat, number_signed])
  case exti h f => exact rawImm_delivers hr (by rw [extField_toNat, toNat_bits_5_0, toNat_bits_11_6])
  case insi h f =>
    exact slotOp_delivers hr (by rw [insField_toNat, signedOf_toNat, toNat_bits_5_0, toNat_bits_11_6])
  case leai => exact rawImm_delivers hr (toNat_lea _ _ _)

end Sys2Proof.Machine
open Sys2Proof Sys2Proof.Machine Sys2Proof.Claims

/-- Settles O1: the exact result of each register and each immediate form, and the delivery they share. -/
theorem integerFormsDeliverTheirExactResult : Obligations.IntegerFormsDeliverTheirExactResult := by
  unfold Obligations.IntegerFormsDeliverTheirExactResult
  exact ⟨fun _ _ _ => intForm_delivers, fun _ _ _ => immForm_delivers⟩
end

section
/-! Scalar floating point (06 R127, R138). -/
namespace Sys2Proof.Machine
open Sys2Proof.Claims

theorem tyIsFloat_of_mem_flts {t : Ty} (h : t.toNat ∈ flts) : tyIsFloat t = true := by
  revert t; decide

theorem arith2_float {t : Ty} (ht : tyIsFloat t = true) (c : Ctl) (fi : Int → Int → Int) (ff : FVal → FVal → FVal × Flags)
    (x y : Nat) : arith2 t c fi ff x y = fltOut t c (ff (decodeF t x) (decodeF t y)) := if_pos ht

theorem laneFma_float {t : Ty} (ht : tyIsFloat t = true) (c : Ctl) (x y z : Nat) :
    laneFma t c x y z = fltOut t c (fltFma c.rnd (decodeF t x) (decodeF t y) (decodeF t z)) := if_pos ht

/-- An operation on two scalars whose lane function rounds the exact result `x`. -/
theorem fltOp_rounds {s : State} {h : Head} (hr : opRuns s h = true) {f : F3} {n : Nat}
    {g : Ty → Ctl → Nat → Nat → Nat × Flags} {x : FVal × Flags}
    (hg : g f.ty (ctlS s h) (s.readS h f.a 1).toNat (s.readS h f.b 2).toNat = fltOut f.ty (ctlS s h) x) :
    fltOp h f n g s = .next (s.writeS f.d (rounded s h f.ty x).1 n (rounded s h f.ty x).2) := by
  rw [fltOp, slotOp_runs hr, hg]
  rfl

theorem fltForm_rounds {s : State} {i : Instr} {o : Head × BitVec 6 × Nat × Word × Flags} (ho : fltForm s i = some o)
    (hf : i.fieldsOk = true) (hr : opRuns s o.1 = true) : exec i s = .next (s.writeS o.2.1 o.2.2.2.1 o.2.2.1 o.2.2.2.2) := by
  cases i <;> cases ho <;> dsimp only [exec] at hr ⊢
  case fadd | fsub | fmul | fmin | fmax =>
    have ht := tyIsFloat_of_mem_flts (mem_of_types (isEmpty_left hf))
    exact fltOp_rounds hr (arith2_float ht _ _ _ _ _)
  case fma =>
    have ht := tyIsFloat_of_mem_flts (mem_of_types (isEmpty_left (isEmpty_left (isEmpty_left hf))))
    rw [execFma, slotOp_runs hr, laneFma_float ht]
    rfl
  case fdiv => exact fltOp_rounds hr rfl
  case fcvt => exact slotOp_runs hr

end Sys2Proof.Machine
open Sys2Proof Sys2Proof.Machine Sys2Proof.Claims

/-- Settles O3: each operation hands its exact result to the one rounding. -/
theorem scalarFloatingPointFormsRoundOnce : Obligations.ScalarFloatingPointFormsRoundOnce := by
  unfold Obligations.ScalarFloatingPointFormsRoundOnce
  intro s i h d n w fl ho hf hr
  exact fltForm_rounds (o := (h, d, n, w, fl)) ho hf hr
end

section
/-! Moves, compares and predicates (06 R131 to R137). -/
namespace Sys2Proof.Machine
open Sys2Proof.Claims

theorem movhi_value (imm : BitVec 40) (w : Word) :
    imm.extractLsb' 0 24 ++ w.extractLsb' 0 40 = BitVec.ofNat 64 (imm.toNat * 2 ^ 40 + w.toNat % 2 ^ 40) := by
  apply BitVec.eq_of_toNat_eq
  rw [BitVec.toNat_append, toNat_bits, toNat_bits, BitVec.toNat_ofNat, ← Nat.shiftLeft_add_eq_or_of_lt (by omega)]
  omega

theorem lt_of_movhi_fieldsOk {h : Head} {f : FL} (hf : (Instr.movhi h f).fieldsOk = true) : f.imm.toNat < 2 ^ 24 := by
  have hz : f.imm.toNat / 2 ^ 24 % 2 ^ 16 = 0 := bits_eq_zero hf
  have hlt := f.imm.isLt
  omega

theorem intCond_iff (c : Nat) (x y : Int) (both : Bool) : intCond c x y both = true ↔ intHolds c x y both := by
  unfold intCond intHolds
  split <;> simp

theorem condInt_iff (t : Ty) (c : Nat) (a b : Word) :
    condInt t c a.toNat b.toNat = true ↔
      intHolds c (number t a) (number t b) ((a &&& b).toNat % 2 ^ tyWidth t != 0) := by
  rw [condInt, intCond_iff, intOf_toNat, intOf_toNat, BitVec.toNat_and, Nat.and_mod_two_pow]
  rfl

theorem tyWidth_cmpi (b : Bool) : tyWidth (if b then 7 else 3) = 64 := by cases b <;> rfl

theorem toNat_bne_zero (x : Word) : (x.toNat % 2 ^ 64 != 0) = (x != 0) := by
  rw [Nat.mod_eq_of_lt x.isLt]
  simp [bne, ← BitVec.toNat_inj]

/-- 06 R137: the entry of the truth table that two predicates name. -/
theorem truth_eq_getLsbD (tt : BitVec 4) (a b : Bool) :
    truth tt a b = tt.getLsbD ((if a then 2 else 0) + if b then 1 else 0) := by
  cases a <;> cases b <;> rfl

end Sys2Proof.Machine
open Sys2Proof Sys2Proof.Machine Sys2Proof.Claims

/-- Settles O2: each operation by the one write, or pair of writes, of its slot operation, and a compare by the condition it
writes. -/
theorem movesAndComparesWriteTheirDestinations : Obligations.MovesAndComparesWriteTheirDestinations := by
  unfold Obligations.MovesAndComparesWriteTheirDestinations
  refine ⟨fun s h hr => ⟨fun f => ?movi, fun f _ => ?movhi, fun _ => lt_of_movhi_fieldsOk, fun f => ?mov,
    fun f hf => ?movFields⟩, fun s h hr => ⟨fun f _ => ?cmp, fun f _ => ?cmpi, fun f _ => ?fcmp, fun f => ?plog⟩⟩
  case movi => exact show execMovi h f s = _ from slotOp_runs hr
  case movhi =>
    rw [← movhi_value]
    exact show execMovhi h f s = _ from slotOp_runs hr
  case mov => exact show execMov h f s = _ from slotOp_runs hr
  case movFields =>
    obtain ⟨⟨hb, hty⟩, hsub⟩ := (isEmpty_append_iff.mp hf).imp_left isEmpty_append_iff.mp
    exact ⟨isEmpty_zero_iff.mp hb, isEmpty_zero_iff.mp hty, isEmpty_zero_iff.mp hsub⟩
  case cmp => exact ⟨_, condInt_iff _ _ _ _, show execCmp h f s = _ from slotOp_runs hr⟩
  case cmpi =>
    refine ⟨_, ?_, show execCmpi h f s = _ from slotOp_runs hr⟩
    rw [condInt_iff, tyWidth_cmpi, toNat_bne_zero]
  case fcmp => exact show execFcmp h f s = _ from slotOp_runs hr
  case plog =>
    dsimp only
    rw [← truth_eq_getLsbD]
    exact show execPlog h f s = _ from slotOp_runs hr
end

section
/-! Branches (06 R140). -/
namespace Sys2Proof.Machine
open Sys2Proof.Claims

theorem codeAddr_eq (w : Word) : codeAddr w = w &&& ~~~63#64 := rfl

/-- 06 R140: the target of PBR. -/
theorem codeAddr_displaced (pc : Word) (imm : BitVec 34) :
    codeAddr (pc + imm.signExtend 64 * 64) = pc + BitVec.ofInt 64 (64 * imm.toInt) &&& ~~~63#64 := by
  rw [codeAddr_eq, BitVec.ofInt_mul, BitVec.mul_comm]
  rfl

/-- 11 R276: an operation whose place, value and accesses are in order, and which is no TRAP, raises its privilege cause alone. -/
theorem opCause_eq_privilege {s : State} {i : Instr} (hn : nestBad s i = false) (hv : valueBad s i = false)
    (hm : memCause s i = none) (hr : rangeCause s i = none) (ht : ∀ h f, i ≠ .trap h f) :
    opCause i s = (privilege s i).map fun w => ⟨3, slotOf i, 0, w⟩ := by
  unfold opCause
  rw [hn, hv, hm, hr]
  cases privilege s i with
  | some w => rfl
  | none =>
    cases i
    case trap h f => exact absurd rfl (ht h f)
    all_goals rfl

end Sys2Proof.Machine
open Sys2Proof Sys2Proof.Machine Sys2Proof.Claims

/-- Settles O8: PBR and PBRI are results of a branch register; BR, CALL and RET, which raise no cause outside a body, note their
target in the bundle being issued. -/
theorem branchOperationsSetTheirTargets : Obligations.BranchOperationsSetTheirTargets := by
  unfold Obligations.BranchOperationsSetTheirTargets
  intro s h hr
  refine ⟨fun f => ?pbr, fun f => ?pbri, fun f hn => ?br, fun f hn => ?call, fun f hn => ?ret⟩
  case pbr =>
    rw [← codeAddr_displaced]
    exact show execPbr h f s = _ from slotOp_runs hr
  case pbri => exact show execPbri h f s = _ from slotOp_runs hr
  case br => exact ⟨_, show execBr h f s = _ from slotOpC_runs hr (opCause_eq_privilege hn rfl rfl rfl (by simp)), rfl, rfl⟩
  case call => exact ⟨_, show execCall h f s = _ from slotOpC_runs hr (opCause_eq_privilege hn rfl rfl rfl (by simp)), rfl, rfl⟩
  case ret => exact ⟨_, show execRet h f s = _ from slotOpC_runs hr (opCause_eq_privilege hn rfl rfl rfl (by simp)), rfl, rfl⟩
end

section
/-! The software trap and the privilege traps of the S slot (06 R151, R152, 11 R273). -/
namespace Sys2Proof.Machine
open Sys2Proof.Claims

theorem takeTrap_cur {s : State} (hm : s.cx.hmode = false) (k : Cause) (pc : Word) : (s.takeTrap k pc).cur = s.cur := by
  simp only [State.takeTrap]
  split
  · exact absurd ‹_› (Bool.eq_false_iff.mp hm)
  split <;> simp only [State.count_cur, State.modCx_cur, State.modCc_cur, State.modIss_cur]

/-- The form in which `enterTrap_shows` takes a context: its own scalars put in place of its scalars. -/
theorem exists_scalars (c : Ctx) : ∃ v, c = { c with s := v } := ⟨c.s, rfl⟩

/-- 11 R281: the trap registers, the mode and the address that a trap outside handler mode leaves. -/
theorem takeTrap_shows {s : State} (hm : s.cx.hmode = false) (k : Cause) (pc : Word) :
    let t := s.takeTrap k pc
    t.cx.tcause = k.code.setWidth 64 ∧ t.cx.tpc = pc ∧ t.cx.tslot = k.slot.setWidth 64 ∧ t.cx.tinfo = k.info ∧
      t.cx.hmode = true ∧ t.cx.pc = s.cx.landAll.tvec := by
  have hcx : (s.takeTrap k pc).cx = s.cx.enterTrap s.cur.acc pc k := by
    rw [State.cx, takeTrap_cur hm]
    exact takeTrap_ctx hm k pc
  obtain ⟨v, hv⟩ := exists_scalars (s.cx.enterTrap s.cur.acc pc k)
  obtain ⟨hcode, hpc, -, hslot, -, hinfo, hmode, hvec, -⟩ := enterTrap_shows (hcx.trans hv)
  exact ⟨hcode, hpc, hslot, hinfo, hmode, hvec⟩

theorem opCause_trap (s : State) (h : Head) (f : FI) : opCause (.trap h f) s = some ⟨7, 0, 0, f.imm.setWidth 64⟩ := rfl

theorem opCause_rft {s : State} (hm : s.cx.hmode = false) (h : Head) (f : F3) :
    opCause (.rft h f) s = some ⟨3, h.slot, 0, 6⟩ := by
  have hp : privilege s (.rft h f) = some 6 := by simp [privilege, hm]
  rw [opCause_eq_privilege rfl rfl rfl rfl (by simp), hp]
  rfl

/-- 02 R52: the refusal to write a system register. -/
theorem opCause_setsr {s : State} (hm : s.cx.hmode = false) (h : Head) {f : FI} (hfmt : f.imm.toNat ≠ 0x40)
    (hreg : sysRO f.imm.toNat = true ∨ sysRH f.imm.toNat = true) :
    opCause (.setsr h f) s =
      some ⟨3, h.slot, 0, BitVec.ofNat 64 (f.imm.toNat * 256 + if sysRO f.imm.toNat then 4 else 5)⟩ := by
  have hv : valueBad s (.setsr h f) = false := by simp [valueBad, hfmt]
  have hp : privilege s (.setsr h f) =
      some (BitVec.ofNat 64 (f.imm.toNat * 256 + if sysRO f.imm.toNat then 4 else 5)) := by
    cases hro : sysRO f.imm.toNat <;> simp_all [privilege]
  rw [opCause_eq_privilege rfl hv rfl rfl (by simp), hp]
  rfl

end Sys2Proof.Machine
open Sys2Proof Sys2Proof.Machine Sys2Proof.Claims

/-- Settles O11: the cause that each operation raises, and what taking it leaves. -/
theorem softwareAndPrivilegeTrapsAreTaken : Obligations.SoftwareAndPrivilegeTrapsAreTaken := by
  unfold Obligations.SoftwareAndPrivilegeTrapsAreTaken
  refine ⟨fun s h f hr hm => ?trap, fun s h hr hm => ⟨fun f _ hfmt hreg => ?setsr, fun f => ?rft⟩⟩
  case trap =>
    obtain ⟨hcode, hpc, hslot, hinfo, hmode, hvec⟩ := takeTrap_shows hm ⟨7, 0, 0, f.imm.setWidth 64⟩ s.cur.pc
    exact ⟨_, show execTrap h f s = _ from slotOpC_traps hr (opCause_trap s h f), hcode, hpc, hslot, hinfo, hmode, hvec,
      fun a => by rw [State.takeTrap_mem hm]⟩
  case setsr => exact ⟨_, show execSetsr h f s = _ from slotOpC_traps hr (opCause_setsr hm h hfmt hreg), takeTrap_shows hm _ _⟩
  case rft => exact ⟨_, show execRft h f s = _ from slotOpC_traps hr (opCause_rft hm h f), takeTrap_shows hm _ _⟩
end

section
/-! SUPPORT. What memory reads as after a number has been stored (08 R183). -/
namespace Sys2Proof.Machine
open Sys2Proof.Claims

theorem getD_bytesOfNat (x : Nat) : ∀ {n i : Nat}, i < n → (bytesOfNat x n).getD i 0 = BitVec.ofNat 8 (x / 256 ^ i)
  | _ + 1, 0, _ => by simp [bytesOfNat]
  | n + 1, i + 1, h => by
    rw [bytesOfNat, List.getD_cons_succ, getD_bytesOfNat (x / 256) (Nat.lt_of_succ_lt_succ h), Nat.div_div_eq_div_mul, Nat.pow_succ']

theorem readByte_writeBytes_bytesOfNat {m : Memory} (h : m.wf = true) (k n x a : Nat) :
    readByte (writeBytes m k (bytesOfNat x n)) a = storedByte m k n x a := by
  rw [readByte_writeBytes h, length_bytesOfNat, storedByte]
  split
  · exact getD_bytesOfNat x (by omega)
  · rfl

theorem readByte_storeAt {s : State} (h : s.memOk = true) (k n x a : Nat) :
    readByte (s.storeAt k (bytesOfNat x n)).mem a = storedByte s.mem k n x a :=
  readByte_writeBytes_bytesOfNat h k n x a

theorem natOfBytes_lt : ∀ l : List Byte, natOfBytes l < 256 ^ l.length
  | [] => Nat.one_pos
  | b :: l => by
    have hb : b.toNat < 256 := b.isLt
    have hl := natOfBytes_lt l
    simp only [natOfBytes, List.length_cons, Nat.pow_succ]
    omega

theorem readNat_lt (m : Memory) (k n : Nat) : readNat m k n < 256 ^ n :=
  (natOfBytes_lt (readBytes m k n)).trans_eq (congrArg (256 ^ ·) (length_readBytes m k n))

end Sys2Proof.Machine
end

section
/-! Arrival words (08 R199). -/
namespace Sys2Proof.Machine
open Sys2Proof.Claims

/-- 08 R199: the first arrival for a core is taken, and no other leaves. -/
theorem takeArrival_of_first {c : CoreRef} {a : Arrival} : ∀ {l : List Arrival}, firstArrival c l = some a →
    ∃ r, takeArrival c l = some (a, r) ∧ r.length + 1 = l.length
  | [], h => by cases h
  | b :: l, h => by
    by_cases hb : b.core = c
    · have e : b = a := by simpa [firstArrival, hb] using h
      exact ⟨l, by simp [takeArrival, e ▸ hb, e], rfl⟩
    · have h' : firstArrival c l = some a := by simpa [firstArrival, hb] using h
      obtain ⟨r, hr, hl⟩ := takeArrival_of_first h'
      exact ⟨b :: r, by simp [takeArrival, hb, hr], congrArg (· + 1) hl⟩

/-- Four words of 32 bits, one above the other. -/
theorem toNat_append_words (f g c t : BitVec 32) :
    (f ++ g ++ c ++ t : BitVec 128).toNat = t.toNat + 2 ^ 32 * c.toNat + 2 ^ 64 * g.toNat + 2 ^ 96 * f.toNat := by
  have ht := t.isLt
  have hc := c.isLt
  have hg := g.isLt
  rw [BitVec.toNat_append, BitVec.toNat_append, BitVec.toNat_append, ← Nat.shiftLeft_add_eq_or_of_lt ht,
    ← Nat.shiftLeft_add_eq_or_of_lt hc, ← Nat.shiftLeft_add_eq_or_of_lt hg]
  simp only [Nat.shiftLeft_eq]
  omega

theorem bitsOf_toNat {w : Nat} (x : BitVec w) (hi lo : Nat) : bitsOf x.toNat hi lo = (x.extractLsb' lo (hi + 1 - lo)).toNat := by
  rw [toNat_bits, bitsOf, Nat.shiftRight_eq_div_pow]

/-- 08 R199: the arrival word that a burst without an error leaves. -/
theorem arrivalWord_eq (w : BitVec 128) (b : Nat) : arrivalWord w.toNat b false = (countedWord w b).toNat := by
  have htarget : bitsOf w.toNat 31 0 = (w.extractLsb' 0 32).toNat := bitsOf_toNat w 31 0
  have hcount : bitsOf w.toNat 63 32 = (w.extractLsb' 32 32).toNat := bitsOf_toNat w 63 32
  have hgen : bitsOf w.toNat 95 64 = (w.extractLsb' 64 32).toNat := bitsOf_toNat w 95 64
  have hfl : bitsOf w.toNat 127 96 = (w.extractLsb' 96 32).toNat := bitsOf_toNat w 127 96
  simp only [arrivalWord, countedWord, htarget, hcount, hgen, hfl]
  generalize w.extractLsb' 0 32 = target
  generalize w.extractLsb' 32 32 = count
  generalize w.extractLsb' 64 32 = gen
  generalize w.extractLsb' 96 32 = fl
  have hauto : fl.toNat.testBit 0 = fl.getLsbD 0 := rfl
  have hzero : (target.toNat != 0) = decide (target ≠ 0) := by
    simp [bne, ← BitVec.toNat_inj]
    rfl
  simp only [hauto, hzero, Bool.false_eq_true, if_false, ← Bool.decide_and, decide_eq_true_eq]
  split
  · rw [toNat_append_words]
    rw [apply_ite BitVec.toNat, apply_ite BitVec.toNat, BitVec.toNat_or, BitVec.toNat_add, BitVec.toNat_ofNat]
    rfl
  · rw [toNat_append_words]
    simp

/-- The race detector's record of a burst that lands. -/
def arrivalProbe (c : CoreRef) (a : Arrival) : Probe :=
  ⟨a.agent, a.path, a.tenant, a.coreIdx, spadKey c.die c.core a.off, 16, true, true⟩

theorem exec_arrivalWordUpdate {s u : State} {c : CoreRef} {a : Arrival} {r : List Arrival} (h : takeArrival c s.arrivals = some (a, r))
    (hu : ({ s with arrivals := r } : State).recordRace (arrivalProbe c a) = u) :
    exec (.arrivalWordUpdate c) s = .next (u.storeAt (spadKey c.die c.core a.off)
      (bytesOfNat (arrivalWord (readNat u.mem (spadKey c.die c.core a.off) 16) a.bytes a.err) 16)) := by
  show execArrivalWordUpdate c s = _
  rw [execArrivalWordUpdate, h, ← hu]
  rfl

end Sys2Proof.Machine

open Sys2Proof Sys2Proof.Machine Sys2Proof.Claims

/-- Settles O29: the burst taken is the first of its core, and the word it leaves is the counted one. -/
theorem arrivalWordsCountTheirBytes : Obligations.ArrivalWordsCountTheirBytes := by
  unfold Obligations.ArrivalWordsCountTheirBytes
  intro s c a ha he hm
  obtain ⟨r, hr, hl⟩ := takeArrival_of_first ha
  generalize hu : ({ s with arrivals := r } : State).recordRace (arrivalProbe c a) = u
  have hmem : u.mem = s.mem := by rw [← hu, State.recordRace_mem]
  refine ⟨_, exec_arrivalWordUpdate hr hu, ?bytes, ?left, ?cores, ?reqs, ?dies⟩
  case bytes =>
    intro x
    have hw : (BitVec.ofNat 128 (readNat s.mem (spadKey c.die c.core a.off) 16)).toNat = readNat s.mem (spadKey c.die c.core a.off) 16 :=
      Nat.mod_eq_of_lt (readNat_lt _ _ 16)
    rw [hmem, he, readByte_storeAt (by rw [State.memOk, hmem]; exact hm), hmem, ← arrivalWord_eq, hw]
  case left => rw [State.storeAt_arrivals, ← hu, State.recordRace_arrivals]; exact hl
  case cores => rw [State.storeAt_cores, ← hu, State.recordRace_cores]
  case reqs => rw [State.storeAt_reqs, ← hu, State.recordRace_reqs]
  case dies => rw [State.storeAt_dies, ← hu, State.recordRace_dies]
end

section
/-! Requests and dies as the ends of times leave them (08 R192, 18 R399, R401, R403, R409). -/
namespace Sys2Proof.Machine
open Sys2Proof.Claims

/-! ### Requests by their numbers -/

theorem req?_id {s : State} {id : Nat} {r : Req} (h : s.req? id = some r) : r.id = id := by
  simpa using List.find?_some h

theorem req?_of_reqs {s t : State} (h : t.reqs = s.reqs) (id : Nat) : t.req? id = s.req? id :=
  congrArg (List.find? fun r : Req => r.id == id) h

theorem req?_dropReq (s : State) (id : Nat) : (s.dropReq id).req? id = none := by
  simp [State.req?, State.dropReq]

theorem failReq_req? (s : State) {r : Req} {id : Nat} (h : r.id = id) (code : Nat) (a i : Word) (e : Nat) (w : Word) :
    (s.failReq r code a i e w).req? id = none :=
  (req?_of_reqs (State.modCtx_reqs _ _ _ _) id).trans (h ▸ req?_dropReq s r.id)

/-! ### Attributed causes -/

theorem withdraw_rest (c : Ctx) (id : Nat) (l : List Reg) : ({ c.withdraw id l with score := c.score, q := c.q } : Ctx) = c := by
  refine foldl_keeps (p := fun d : Ctx => ({ d with score := c.score, q := c.q } : Ctx) = c) ?_ l _ rfl
  intro d r hd
  cases r <;> exact hd

/-- 11 R278: the cause of a request of a context that runs is reported last. -/
theorem reportReq_reports (s : State) (r : Req) (hl : (s.ctx r.core r.ctx).life = .running) (code : Nat) (a i : Word) (e : Nat) (w : Word) :
    ((s.reportReq r code a i e w).ctx r.core r.ctx).reports = (s.ctx r.core r.ctx).reports ++
      [⟨r.id, r.acc, r.bundle, e, r.handler, ⟨BitVec.ofNat 9 code, r.slot, a, i⟩, w, 0⟩] := by
  have hw := withdraw_rest (s.ctx r.core r.ctx) r.id r.dests
  rw [State.reportReq, State.ctx_modCtx]
  generalize s.ctx r.core r.ctx = c at hl hw ⊢
  have hlife : (c.withdraw r.id r.dests).life = .running := (congrArg Ctx.life hw).trans hl
  have hrep : (c.withdraw r.id r.dests).reports = c.reports := (congrArg Ctx.reports hw :)
  simp only [hlife, ← hrep]
  rfl

theorem failReq_reports (s : State) (r : Req) (hl : (s.ctx r.core r.ctx).life = .running) (code : Nat) (a i : Word) (e : Nat) (w : Word) :
    ((s.failReq r code a i e w).ctx r.core r.ctx).reports = (s.ctx r.core r.ctx).reports ++
      [⟨r.id, r.acc, r.bundle, e, r.handler, ⟨BitVec.ofNat 9 code, r.slot, a, i⟩, w, 0⟩] :=
  reportReq_reports (s.dropReq r.id) r hl code a i e w

/-! ### The end of a migration -/

/-- The migrations and the reserve of a die, and every core, are as before. -/
def SameFrames (d : BitVec 2) (s t : State) : Prop :=
  (t.die d).migr = (s.die d).migr ∧ (t.die d).reserve = (s.die d).reserve ∧ t.cores = s.cores

theorem sameFrames_refl (d : BitVec 2) (s : State) : SameFrames d s s := ⟨rfl, rfl, rfl⟩

theorem sameFrames_trans {d : BitVec 2} {s t u : State} (h : SameFrames d s t) (k : SameFrames d t u) : SameFrames d s u :=
  ⟨k.1.trans h.1, k.2.1.trans h.2.1, k.2.2.trans h.2.2⟩

theorem sameFrames_count (d : BitVec 2) (s : State) (i n : Nat) : SameFrames d s (s.count d i n) := by
  simp [SameFrames, State.count]

theorem sameFrames_putPte (d : BitVec 2) (s : State) (asid : BitVec 12) (o : Nat) (l : Leaf) (e : Pte) :
    SameFrames d s (s.putPte d asid o l e) := by
  unfold State.putPte
  generalize writeNat s.mem (hbmKey d l.at_) 16 e.toNat = m
  simp only [SameFrames, State.die_modDie, State.modDie_cores, and_true]
  exact ⟨rfl, rfl⟩

theorem sameFrames_reissue (d : BitVec 2) (s : State) (l : List Req) : SameFrames d s (l.foldl (fun s r => s.reissue r) s) :=
  foldl_keeps (p := SameFrames d s) (f := fun s r => s.reissue r) (fun _ _ h => h) l s (sameFrames_refl d s)

/-- 18 R403: a migration of a page leaves its die's list, and the frame of an outward one is back in the reserve. -/
def Die.migrated (x : Die) (asid : BitVec 12) (page : Nat) (m : Migration) : Die :=
  { x with
    migr := x.migr.filter fun y => !(y.asid == asid && y.page == page)
    reserve := if m.inward then x.reserve else x.reserve ++ [Pte.addr m.pte] }

theorem exec_migrationComplete {s : State} {d : BitVec 2} {asid : BitVec 12} {page : Nat} {m : Migration}
    (h : ((s.die d).migr.find? fun m => m.asid == asid && m.page == page) = some m) :
    answers (.migrationComplete d asid page) s (SameFrames d (s.modDie d fun x => x.migrated asid page m)) := by
  refine ⟨_, show execMigrationComplete d asid page s = _ by rw [execMigrationComplete, h], ?_⟩
  refine sameFrames_trans (sameFrames_count d _ 24 1) (sameFrames_trans ?_ (sameFrames_reissue d _ _))
  split
  · split
    · exact sameFrames_refl d _
    · exact sameFrames_putPte d _ _ _ _ _
  · exact sameFrames_refl d _

/-! ### The end of a wait for a frame -/

/-- 18 R401: an access of a context that has waited too long for a frame is not performed. -/
theorem exec_faultwaitExpiry {s : State} {id : Nat} {r : Req} {x : Nat} (hr : s.req? id = some r) (hp : r.phase = .held (.frames x))
    (ht : x + (s.die (vaDie r.heldVa)).faultWait < s.time) (hi : r.instr ≠ .nop) (ho : r.office = false) :
    exec (.faultwaitExpiry id) s = .next (s.failReq r 0x112 r.heldVa (kindInfo 5) 0 0) := by
  show execFaultwaitExpiry id s = _
  simp [execFaultwaitExpiry, hr, hp, ht, State.giveUp, ho, hi]

theorem exec_splitQuiesceEnd {s : State} {d : BitVec 2} {k : BitVec 1} {x : Nat}
    (h : (s.die d).quiesce.getD k.toNat none = some x) (hx : x ≤ s.time) :
    exec (.splitQuiesceEnd d k) s =
      .next (s.setDie d { s.die d with quiesce := (s.die d).quiesce.setIfInBounds k.toNat none }) := by
  show execSplitQuiesceEnd d k s = _
  simp only [execSplitQuiesceEnd, State.modDie, h, if_pos hx]

end Sys2Proof.Machine

open Sys2Proof Sys2Proof.Machine Sys2Proof.Claims

/-- Settles O28: each expiry filters or clears what it ends, or fails the request that has waited. -/
theorem expiredTimesEndWhatTheyHold : Obligations.ExpiredTimesEndWhatTheyHold := by
  unfold Obligations.ExpiredTimesEndWhatTheyHold
  refine fun s d => ⟨fun asid word => ?reservation, fun asid page => ?lease, fun k x h hx => ?quiesce,
    fun id r x hr hp ht hi ho hl => ?frames, fun asid page m h => ?migration⟩
  case reservation => exact ⟨_, rfl, congrArg Die.resvs (State.die_modDie s d _), rfl, rfl, rfl⟩
  case lease => exact ⟨_, rfl, congrArg Die.tlb (State.die_modDie s d _), rfl, rfl, rfl⟩
  case quiesce =>
    refine ⟨_, exec_splitQuiesceEnd h hx, ?_, rfl, rfl, rfl⟩
    rw [State.die_setDie]
    simp [Vector.getD, k.isLt]
  case frames =>
    exact ⟨_, exec_faultwaitExpiry hr hp ht hi ho, failReq_req? s (req?_id hr) _ _ _ _ _, rfl, _,
      failReq_reports s r hl _ _ _ _ _, rfl, rfl, rfl⟩
  case migration =>
    obtain ⟨t, ht, hm, hv, hc⟩ := exec_migrationComplete h
    rw [State.die_modDie] at hm hv
    refine ⟨t, ht, hm, hv.trans ?_, hc⟩
    rw [Die.migrated]
    split <;> simp
end

section
/-! Where a scratchpad access lies and how many bytes it touches (08 R178, R180, 01 R28). -/
namespace Sys2Proof.Machine
open Sys2Proof.Claims

/-- 01 R28: a sum taken level by level from a first address. -/
theorem foldl_add_eq {α : Type} (g : α → Word) : ∀ (l : List α) (a : Word),
    l.foldl (fun a i => a + g i) a = a + (l.map g).foldr (· + ·) 0
  | [], a => (BitVec.add_zero a).symm
  | i :: l, a => by rw [List.foldl_cons, foldl_add_eq g l, List.map_cons, List.foldr_cons, BitVec.add_assoc]

theorem genAddress_eq_address (s : State) (h : Head) {f : FM} (hk : f.kind ≠ 0) (off : Word) :
    genAddress s h.slot (f.base.setWidth 3) off = address s h f off := by
  simp only [genAddress, address, if_neg hk]
  split
  · exact foldl_add_eq _ _ _
  · rfl

/-- 08 R178: the effective address of an operation, with its long or its short offset. -/
theorem effAddr_eq_address (s : State) (h : Head) (f : FM) (short : Bool) :
    effAddr s h f short = address s h f (if short then (f.offs.extractLsb' 0 16).signExtend 64 else f.offs.signExtend 64) := by
  by_cases hk : f.kind = 0
  · simp [effAddr, address, hk]
  · simp only [effAddr, beq_iff_eq, if_neg hk]
    exact genAddress_eq_address s h hk _

/-- 08 R180: the bytes of a type's element. -/
theorem bytesOf_eq : ∀ t : Ty, bytesOf t = (tyWidth t + 7) / 8 := by decide

theorem high_or_low (c : BitVec 8) (e : BitVec 4) : (c &&& 0xF0) ||| e.setWidth 8 = (c.extractLsb' 4 4 ++ e : BitVec (4 + 4)) := by
  apply BitVec.eq_of_getLsbD_eq
  intro i hi
  rw [BitVec.getLsbD_append]
  interval_cases i <;> simp

/-- 08 R178: bits 23:20 of an address of space 01 pick a core of the own cluster. -/
theorem peer_eq (c : BitVec 8) (ea : Word) :
    (c &&& 0xF0) ||| (ea.extractLsb' 20 4).setWidth 8 = BitVec.ofNat 8 (c.toNat / 16 * 16 + ea.toNat / 2 ^ 20 % 16) := by
  have hc := c.isLt
  apply BitVec.eq_of_toNat_eq
  rw [high_or_low, BitVec.toNat_append, ← Nat.shiftLeft_add_eq_or_of_lt (ea.extractLsb' 20 4).isLt, toNat_bits, toNat_bits,
    BitVec.toNat_ofNat, Nat.shiftLeft_eq]
  omega

theorem space_of_le {x : BitVec 2} (h : x.toNat ≤ 1) : x = 0 ∨ x = 1 := by
  revert x; decide

/-- 08 R178: the key at which a scratchpad access lies. -/
theorem spadProbe_key (s : State) {m : MemOp} (h : m.space.toNat ≤ 1) : (spadProbe s m).key = scratchKey s m.space m.ea := by
  obtain hs | hs := space_of_le h
  · simp [spadProbe, spadTarget, scratchKey, hs]
  · have hoff : (m.ea.extractLsb' 0 20).toNat = m.ea.toNat % 2 ^ 20 := by simp
    simp only [spadProbe, spadTarget, scratchKey, hs, peer_eq, hoff]
    rfl

/-- 08 R180: the access of a load, of a store and of an atomic. -/
theorem theOp_loadForm {s : State} {i : Instr} {o : LoadForm} (ho : loadForm s i = some o) :
    (theOp s i).space = o.f.space ∧ (theOp s i).ea = address s o.h o.f (o.f.offs.signExtend 64) ∧ (theOp s i).bytes = o.bytes := by
  unfold loadForm at ho
  split at ho <;> cases ho
  · exact ⟨rfl, effAddr_eq_address s _ _ false, bytesOf_eq _⟩
  · exact ⟨rfl, effAddr_eq_address s _ _ false, bytesOf_eq _⟩
  · exact ⟨rfl, effAddr_eq_address s _ _ false, rfl⟩
  · exact ⟨rfl, effAddr_eq_address s _ _ false, rfl⟩
  · exact ⟨rfl, effAddr_eq_address s _ _ false, bytesOf_eq _⟩
  · exact ⟨rfl, effAddr_eq_address s _ _ false, rfl⟩

theorem theOp_storeForm {s : State} {i : Instr} {h : Head} {f : FM} {n : Nat} {v : Vec} (ho : storeForm s i = some (h, f, n, v)) :
    (theOp s i).space = f.space ∧ (theOp s i).ea = address s h f (f.offs.signExtend 64) ∧ (theOp s i).bytes = n := by
  unfold storeForm at ho
  split at ho <;> cases ho
  · exact ⟨rfl, effAddr_eq_address s _ _ false, bytesOf_eq _⟩
  · exact ⟨rfl, effAddr_eq_address s _ _ false, bytesOf_eq _⟩
  · exact ⟨rfl, effAddr_eq_address s _ _ false, rfl⟩
  · exact ⟨rfl, effAddr_eq_address s _ _ false, rfl⟩
  · exact ⟨rfl, effAddr_eq_address s _ _ false, bytesOf_eq _⟩

theorem theOp_atomicForm {s : State} {i : Instr} {u : BitVec 32} {h : Head} {f : FM} {n : Nat} {g : Nat → Nat → Prop} {l : List Reg}
    (ho : atomicForm s i u = some (h, f, n, g, l)) :
    (theOp s i).space = f.space ∧
    (theOp s i).ea = address s h f (if shortOffset i then (f.offs.extractLsb' 0 16).signExtend 64 else f.offs.signExtend 64) ∧
    (theOp s i).bytes = n := by
  unfold atomicForm at ho
  split at ho <;> cases ho
  · exact ⟨rfl, effAddr_eq_address s _ _ true, bytesOf_eq _⟩
  · exact ⟨rfl, effAddr_eq_address s _ _ true, bytesOf_eq _⟩
  · exact ⟨rfl, effAddr_eq_address s _ _ false, rfl⟩

end Sys2Proof.Machine

open Sys2Proof Sys2Proof.Machine Sys2Proof.Claims

/-- Settles O19: the access of the checks has the address and the bytes that the rules give, and its key follows. -/
theorem scratchpadAccessesLieAtTheirEffectiveAddress : Obligations.ScratchpadAccessesLieAtTheirEffectiveAddress := by
  unfold Obligations.ScratchpadAccessesLieAtTheirEffectiveAddress
  refine fun s i => ⟨fun o ho _ hs => ?load, fun h f n v ho _ hs => ?store, fun u h f n g l ho _ hs => ?atomic⟩
  case load =>
    obtain ⟨hsp, hea, hn⟩ := theOp_loadForm ho
    exact ⟨hea, hn, hsp ▸ spadProbe_key s (hsp ▸ hs)⟩
  case store =>
    obtain ⟨hsp, hea, hn⟩ := theOp_storeForm ho
    exact ⟨hea, hn, hsp ▸ spadProbe_key s (hsp ▸ hs)⟩
  case atomic =>
    obtain ⟨hsp, hea, hn⟩ := theOp_atomicForm ho
    exact ⟨hea, hn, hsp ▸ spadProbe_key s (hsp ▸ hs)⟩
end

section
/-! The acquire time as a register shows it (02 R52, 10 R267). -/
namespace Sys2Proof.Machine
open Sys2Proof.Claims Sys2Proof.Tests

theorem getReg_acqTime (c : Ctx) : c.getReg (.sr 0x46) = (BitVec.ofNat 64 c.acqTime).setWidth 2048 := rfl

/-- An AMO of acquire order on the own scratchpad, five cycles after the reset. -/
def amoAcquire : Instr := .amo h7 ⟨5, 0, 0, 0, 3, 0, 1, 0x7FF8⟩
def fiveLater : State := { live with time := 5 }

theorem amoAcquire_runs : amoAcquire.fieldsOk = true ∧ opRuns fiveLater h7 = true ∧ opCause amoAcquire fiveLater = none ∧
    fiveLater.memOk = true ∧ (∀ r ∈ fiveLater.reqs, r.id < fiveLater.nextId) ∧
    fiveLater.actsNow amoAcquire [((spadProbe fiveLater (theOp fiveLater amoAcquire)).key, 8)] = true ∧
    isPoisoned fiveLater.poison (spadProbe fiveLater (theOp fiveLater amoAcquire)).key 8 = false := by decide +kernel

theorem amoAcquire_acquires : fiveLater.cx.acqTime = 0 ∧ acquired fiveLater amoAcquire = 5 := by decide +kernel

end Sys2Proof.Machine

open Sys2Proof Sys2Proof.Machine Sys2Proof.Claims

/-- Refutes O21: an atomic of acquire order raises ACQTIME, which system register 0x46 shows, so that not every register reads
as before. -/
theorem not_scratchpadAtomicsReplaceTheirWord : ¬ Obligations.ScratchpadAtomicsReplaceTheirWord := by
  unfold Obligations.ScratchpadAtomicsReplaceTheirWord
  intro hall
  obtain ⟨hf, hr, hc, hm, hids, hnow, hp⟩ := amoAcquire_runs
  obtain ⟨t, -, -, -, -, hacq, -, hreg, -⟩ :=
    hall fiveLater amoAcquire _ _ _ _ _ rfl hf hr hc (by decide) hm hids hnow hp
  have h := hreg (.sr 0x46)
  rw [getReg_acqTime, getReg_acqTime, hacq, amoAcquire_acquires.1, amoAcquire_acquires.2] at h
  exact absurd h (by decide)
end

section
/-! SUPPORT. What a request of the current context leaves (08 R178, 04 R101), and the operands read before it. -/
namespace Sys2Proof.Machine
open Sys2Proof.Claims

/-! ### Only the current context differs -/

theorem cx_of_cores {s t : State} {f : Ctx → Ctx} (hc : t.cores = (s.modCx f).cores) (hcur : t.cur = s.cur) : t.cx = f s.cx := by
  rw [← State.cx_modCx s f]
  simp only [State.cx, State.ctx, State.core, hc, hcur, State.modCx_cur]

theorem ctxOnly_of_cores {s t : State} {f : Ctx → Ctx} (hc : t.cores = (s.modCx f).cores) : CtxOnly s t := by
  obtain ⟨-, -, -, -, -, -, -, -, -, -, -, -, -, -, -, -, -, hctx, hapart⟩ := othersKept_modCx s f
  have hcore (c : CoreRef) : t.core c = (s.modCx f).core c := by simp only [State.core, hc]
  exact ⟨fun c x h => (congrArg (Core.getCtx · x) (hcore c)).trans (hctx c x h), fun c => (congrArg apart (hcore c)).trans (hapart c)⟩

theorem ctxOnly_trans {s t u : State} (h : CtxOnly s t) (hcur : t.cur = s.cur) (k : CtxOnly t u) : CtxOnly s u :=
  ⟨fun c x hn => (k.1 c x (hcur ▸ hn)).trans (h.1 c x hn), fun c => (k.2 c).trans (h.2 c)⟩

theorem ctxOnly_same {s t : State} (h : t.cores = s.cores) : CtxOnly s t := by
  have hcore (c : CoreRef) : t.core c = s.core c := by simp only [State.core, h]
  exact ⟨fun c x _ => congrArg (Core.getCtx · x) (hcore c), fun c => congrArg apart (hcore c)⟩

/-! ### A request -/

/-- The request that an operation of the current context makes. -/
def State.asks (s : State) (slot : BitVec 3) (i : Instr) (path : BitVec 3) (va : Word) (space : BitVec 2)
    (data idx : Vec) (mask aux : Word) (store : Bool) (dests : List Reg) : Req :=
  { id := s.nextId, core := s.cur.core, ctx := s.cur.ctx, acc := s.cur.acc, slot := slot
    bundle := if s.cur.acc then s.cx.countA else s.cx.issueX
    handler := s.cx.hmode, path := path, instr := i, asid := (s.stream s.cx.stream).asid, tenant := (s.stream s.cx.stream).tenant
    stream := s.cx.stream, va := va, space := space, data := data, idx := idx, mask := mask, aux := aux, budget := s.cx.retry.toNat
    waits := s.cx.holdIds path (store || isRelease i), admitted := false, phase := .issued, dests := dests, res := 0
    res2 := 0, replay := false, heldAt := 0, heldTurn := 0, failed := false, turn := 0, office := false }

/-- 04 R101: the destinations of a request are pending. -/
def Ctx.awaiting (c : Ctx) (id : Nat) (acc : Bool) (dests : List Reg) : Ctx :=
  { c with
    score := c.score ++ dests.map fun d => (⟨id, d⟩ : Score)
    wrote := if c.decoupled then c.wrote ++ dests.map fun d => (⟨acc, d⟩ : Wrote) else c.wrote }

section
variable (s : State) (slot : BitVec 3) (i : Instr) (path : BitVec 3) (va : Word) (space : BitVec 2)
  (data idx : Vec) (mask aux : Word) (store : Bool) (dests : List Reg)

theorem request_adds : (s.request slot i path va space data idx mask aux store dests).reqs =
    s.reqs ++ [s.asks slot i path va space data idx mask aux store dests] := rfl

theorem request_cores : (s.request slot i path va space data idx mask aux store dests).cores =
    (s.modCx fun c => c.awaiting s.nextId s.cur.acc dests).cores := rfl

theorem request_cx : (s.request slot i path va space data idx mask aux store dests).cx = s.cx.awaiting s.nextId s.cur.acc dests :=
  cx_of_cores (request_cores s slot i path va space data idx mask aux store dests) rfl

end

/-- A request without a destination leaves its context as it was. -/
theorem awaiting_nil (c : Ctx) (id : Nat) (acc : Bool) : c.awaiting id acc [] = c := by
  simp [Ctx.awaiting]

/-! ### Operands read, and entries reserved, before a request -/

/-- Operands have been read, and an entry of the queue that is pushed has been reserved; nothing else has changed. -/
structure Prepared (s u : State) (push : Option (BitVec 2)) : Prop where
  queues : Reserved s u push
  ctx : ({ u.cx with q := s.cx.q } : Ctx) = s.cx
  others : CtxOnly s u
  rest : ({ u with cores := s.cores, nextId := s.nextId, issue := s.issue } : State) = s
  ids : s.nextId ≤ u.nextId

theorem prepared_issue (s : State) (x : Option Issue) : Prepared s { s with issue := x } none where
  queues := fun _ => (List.append_nil _).symm
  ctx := rfl
  others := ctxOnly_same rfl
  rest := rfl
  ids := Nat.le_refl _

/-- 04 R99: reading a vector source notes a pop at most. -/
theorem readV_issue (s : State) (f : BitVec 6) (n : Nat) : ∃ x, (s.readV f n).1 = { s with issue := x } := by
  simp only [State.readV]
  split
  · exact ⟨_, rfl⟩
  · split
    · exact ⟨_, rfl⟩
    · split <;> exact ⟨_, rfl⟩

/-- 04 R99: a vector destination is a register, or an entry reserved at the tail of a queue. -/
theorem destV_snd (s : State) (d : BitVec 6) : (s.destV d).2 = (vectorDest s d).1 := by
  simp only [State.destV, vectorDest]
  split <;> rfl

theorem reserve_cx (s : State) (n : BitVec 2) (b : Bool) : (s.reserve n b).cx = s.cx.push n ⟨s.nextId, 0, b, false⟩ :=
  cx_of_cores (s := s) (f := fun c => c.push n ⟨s.nextId, 0, b, false⟩) rfl rfl

/-- 04 R99: the entries of the queues after a push. -/
theorem push_ents (c : Ctx) (n : BitVec 2) (e : QEntry) (m : Fin 4) :
    ((c.push n e).q[m]).ents = (c.q[m]).ents ++ if m.val = n.toNat then [e] else [] := by
  by_cases hm : n.toNat = m.val
  · simp [Ctx.push, ← hm]
  · simp [Ctx.push, hm, Ne.symm hm]

theorem val_eq_toNat (n : BitVec 2) (m : Fin 4) : m.val = n.toNat ↔ some n = some (BitVec.ofFin m) := by
  rw [Option.some.injEq, ← BitVec.toNat_inj]
  exact eq_comm

theorem prepared_reserve (s : State) (n : BitVec 2) : Prepared s (s.reserve n false) (some n) where
  queues := fun m => by
    rw [reserve_cx, push_ents]
    simp only [val_eq_toNat]
  ctx := by rw [reserve_cx]; rfl
  others := ctxOnly_of_cores (f := fun c => c.push n ⟨s.nextId, 0, false, false⟩) rfl
  rest := rfl
  ids := Nat.le_succ _

theorem prepared_destV (s : State) (d : BitVec 6) : Prepared s (s.destV d).1 (vectorDest s d).2 := by
  simp only [State.destV, vectorDest]
  split
  · exact prepared_issue s s.issue
  · exact prepared_reserve s _

/-! ### An operation that has become a request -/

/-- The operation has become the request that is asked for, and nothing else has changed. -/
def BecomesRequest (s : State) (i : Instr) (o : Asked) (t : State) : Prop :=
  (∃ r, t.reqs = s.reqs ++ [r] ∧ s.nextId ≤ r.id ∧ r.id < t.nextId ∧ r.core = s.cur.core ∧ r.ctx = s.cur.ctx ∧
    r.acc = s.cur.acc ∧ r.slot = o.h.slot ∧ r.instr = i ∧ r.path = o.path ∧ r.va = o.va ∧ r.space = o.space ∧
    r.data = o.data ∧ r.idx = o.idx ∧ r.mask = o.mask ∧ r.dests = o.dests ∧ r.phase = .issued ∧
    r.asid = (s.stream s.cx.stream).asid ∧ r.tenant = (s.stream s.cx.stream).tenant ∧ r.budget = s.cx.retry.toNat ∧
    t.cx.score = s.cx.score ++ o.dests.map fun d => ⟨r.id, d⟩) ∧
  Reserved s t o.push ∧
  ({ t.cx with score := s.cx.score, q := s.cx.q, wrote := s.cx.wrote } : Ctx) = s.cx ∧ CtxOnly s t ∧
  ({ t with cores := s.cores, reqs := s.reqs, nextId := s.nextId, issue := s.issue } : State) = s

theorem request_becomes {s u : State} {i : Instr} {o : Asked} (hp : Prepared s u o.push) (aux : Word) (store : Bool) :
    BecomesRequest s i o (u.request o.h.slot i o.path o.va o.space o.data o.idx o.mask aux store o.dests) := by
  obtain ⟨hq, hctx, hoth, hrest, hid⟩ := hp
  have hcur : u.cur = s.cur := (congrArg State.cur hrest :)
  have hstream (k : Nat) : u.stream k = s.stream k := stream_of_streams (congrArg State.streams hrest :) k
  have hreqs : u.reqs = s.reqs := (congrArg State.reqs hrest :)
  have hk : u.cx.stream = s.cx.stream := (congrArg Ctx.stream hctx :)
  have hretry : u.cx.retry = s.cx.retry := (congrArg Ctx.retry hctx :)
  have hscore : u.cx.score = s.cx.score := (congrArg Ctx.score hctx :)
  have hcx := request_cx u o.h.slot i o.path o.va o.space o.data o.idx o.mask aux store o.dests
  refine ⟨⟨u.asks o.h.slot i o.path o.va o.space o.data o.idx o.mask aux store o.dests, ?_, hid, Nat.lt_succ_self _,
    congrArg Env.core hcur, congrArg Env.ctx hcur, congrArg Env.acc hcur, rfl, rfl, rfl, rfl, rfl, rfl, rfl, rfl, rfl, rfl,
    ?_, ?_, congrArg BitVec.toNat hretry, ?_⟩, ?_, ?_, ?_, ?_⟩
  · rw [request_adds, hreqs]
  · exact (congrArg Stream.asid (hstream _)).trans (congrArg (fun k => (s.stream k).asid) hk)
  · exact (congrArg Stream.tenant (hstream _)).trans (congrArg (fun k => (s.stream k).tenant) hk)
  · rw [hcx, Ctx.awaiting, hscore]; rfl
  · intro n
    rw [hcx]
    exact hq n
  · rw [hcx]
    exact (congrArg (fun c : Ctx => ({ c with score := s.cx.score, wrote := s.cx.wrote } : Ctx)) hctx :)
  · exact ctxOnly_trans hoth hcur (ctxOnly_of_cores (request_cores u _ _ _ _ _ _ _ _ _ _ _))
  · exact (congrArg (fun x : State => ({ x with reqs := s.reqs } : State)) hrest :)

end Sys2Proof.Machine
end

section
/-! Accesses that become requests (08 R178, R185 to R201, 10 R256). -/
namespace Sys2Proof.Machine
open Sys2Proof.Claims

theorem not_own_space {x : BitVec 2} (h : 2 ≤ x.toNat) : (x == 0 || x == 1) = false := by
  revert x; decide

theorem not_spaces {f : FM} (hf : (spaces [0, 1, 2] f).isEmpty = true) (h : 2 ≤ f.space.toNat) : f.space = 2 := by
  have hmem : f.space.toNat ∈ [0, 1, 2] := by
    by_contra hn
    simp [spaces, hn] at hf
  apply BitVec.eq_of_toNat_eq
  simp at hmem ⊢
  omega

/-! ### What a bundle has noted is no part of an access or of the order -/

section
variable (s : State) (x : Option Issue)

theorem theOp_issue (i : Instr) : theOp { s with issue := x } i = theOp s i := rfl

theorem spanFrom_issue (asid : BitVec 12) (rd wr tags : Bool) : ∀ (fuel : Nat) (va : Word) (n : Nat) (l : List (Place × Nat)),
    ({ s with issue := x } : State).spanFrom asid rd wr tags va n fuel l = s.spanFrom asid rd wr tags va n fuel l
  | 0, _, _, _ => rfl
  | fuel + 1, va, n, l => by
    have hplace : ({ s with issue := x } : State).place asid va rd wr tags = s.place asid va rd wr tags := rfl
    simp only [State.spanFrom, hplace, spanFrom_issue asid rd wr tags fuel]

theorem chipSegs_issue (d : BitVec 2) (tenant : BitVec 8) : ∀ (fuel : Nat) (ea : Word) (n : Nat),
    ({ s with issue := x } : State).chipSegs d tenant fuel ea n = s.chipSegs d tenant fuel ea n
  | 0, _, _ => rfl
  | fuel + 1, ea, n => by
    have hat : ({ s with issue := x } : State).chipAt d tenant ea = s.chipAt d tenant ea := rfl
    simp only [State.chipSegs, hat, chipSegs_issue d tenant fuel]

theorem reqRanges_issue (r : Req) : ({ s with issue := x } : State).reqRanges r = s.reqRanges r := by
  have hrouted (d : BitVec 2) (va : Word) : ({ s with issue := x } : State).routed d va = s.routed d va := rfl
  simp only [State.reqRanges, State.rangeAt, State.span, State.chipPlace, spanFrom_issue, chipSegs_issue, hrouted]

theorem actsNow_issue (i : Instr) (l : List (Nat × Nat)) : ({ s with issue := x } : State).actsNow i l = s.actsNow i l := by
  simp only [State.actsNow, State.lsFree, reqRanges_issue]
  rfl

end

/-! ### The operations that make one request -/

theorem loadTo_far {s : State} {h : Head} {f : FM} {i : Instr} {dest : State → State × Reg} (hs : 2 ≤ f.space.toNat) :
    s.loadTo h f i dest = (dest s).1.request h.slot i 0 (theOp s i).ea f.space 0 0 0 0 (theOp s i).write [(dest s).2] := by
  rw [State.loadTo, not_own_space hs]
  rfl

theorem storeFrom_requests {s : State} {h : Head} {f : FM} {i : Instr} {v : Vec}
    (hs : 2 ≤ f.space.toNat ∨ (!s.actsNow i [((spadProbe s (theOp s i)).key, (theOp s i).bytes)]) = true) :
    s.storeFrom h f i v = s.request h.slot i 0 (theOp s i).ea f.space v 0 0 0 true [] := by
  have hno : ((f.space == 0 || f.space == 1) && s.actsNow i [((spadProbe s (theOp s i)).key, (theOp s i).bytes)]) = false := by
    obtain hs | hs := hs
    · rw [not_own_space hs, Bool.false_and]
    · rw [(Bool.not_eq_true' _).mp hs, Bool.and_false]
  simp only [State.storeFrom, hno]
  rfl

theorem atomicOp_requests {s : State} {h : Head} {f : FM} {i : Instr} {x y : Word} {l : List Reg} (hf : (spaces [0, 1, 2] f).isEmpty = true)
    (hs : 2 ≤ f.space.toNat ∨ (!s.actsNow i [((spadProbe s (theOp s i)).key, (theOp s i).bytes)]) = true) :
    s.atomicOp h f i x y l = s.request h.slot i 0 (theOp s i).ea f.space (x.setWidth 2048) (y.setWidth 2048) 0 0 true l := by
  have hyes : (f.space == 2 || !s.actsNow i [((spadProbe s (theOp s i)).key, (theOp s i).bytes)]) = true := by
    obtain hs | hs := hs
    · rw [not_spaces hf hs]; rfl
    · rw [hs, Bool.or_true]
  simp only [State.atomicOp, hyes, if_true]

theorem some_of_ite {α : Type} {c : Prop} [Decidable c] {x y : α} (h : (if c then some x else none) = some y) : c ∧ y = x := by
  split at h
  · exact ⟨‹_›, (Option.some.inj h).symm⟩
  · cases h

section
variable {s u : State} {i : Instr} {o : Asked} {va : Word} {l : List Reg} {aux : Word} {store : Bool}

/-- An operation that answers with a request after its operands have been read has become that request. -/
theorem answers_request (he : exec i s = .next (u.request o.h.slot i o.path va o.space o.data o.idx o.mask aux store l))
    (hp : Prepared s u o.push) (hva : va = o.va) (hl : l = o.dests) : answers i s (BecomesRequest s i o) := by
  subst hva hl
  exact ⟨_, he, request_becomes hp aux store⟩

theorem becomes_of_request (he : exec i s = .next (s.request o.h.slot i o.path va o.space o.data o.idx o.mask aux store l))
    (hpush : o.push = none) (hva : va = o.va) (hl : l = o.dests) : answers i s (BecomesRequest s i o) :=
  answers_request he (hpush ▸ prepared_issue s s.issue) hva hl

end

section
variable {s : State} {i : Instr} {h : Head} {f : FM}

theorem scalarLoad_becomes (he : exec i s = .next (s.loadTo h f i fun s => (s, .s f.data))) (hea : (theOp s i).ea = effAddr s h f false)
    (hs : 2 ≤ f.space.toNat) :
    answers i s (BecomesRequest s i ⟨h, 0, address s h f (f.offs.signExtend 64), f.space, 0, 0, 0, [.s f.data], none⟩) :=
  becomes_of_request (he.trans (congrArg _ (loadTo_far hs))) rfl (hea.trans (effAddr_eq_address s h f false)) rfl

theorem vectorLoad_becomes (he : exec i s = .next (s.loadTo h f i fun s => s.destV f.data)) (hea : (theOp s i).ea = effAddr s h f false)
    (hs : 2 ≤ f.space.toNat) :
    answers i s (BecomesRequest s i ⟨h, 0, address s h f (f.offs.signExtend 64), f.space, 0, 0, 0, [(vectorDest s f.data).1],
      (vectorDest s f.data).2⟩) :=
  answers_request (he.trans (congrArg _ (loadTo_far hs))) (prepared_destV s f.data) (hea.trans (effAddr_eq_address s h f false))
    (congrArg (fun r => [r]) (destV_snd s f.data))

theorem scalarStore_becomes {v : Vec} (he : exec i s = .next (s.storeFrom h f i v)) (hea : (theOp s i).ea = effAddr s h f false)
    (hs : 2 ≤ f.space.toNat ∨ (!s.actsNow i [((spadProbe s (theOp s i)).key, (theOp s i).bytes)]) = true) :
    answers i s (BecomesRequest s i ⟨h, 0, address s h f (f.offs.signExtend 64), f.space, v, 0, 0, [], none⟩) :=
  becomes_of_request (he.trans (congrArg _ (storeFrom_requests hs))) rfl (hea.trans (effAddr_eq_address s h f false)) rfl

theorem vectorStore_becomes {n : Nat}
    (he : exec i s = .next ((s.readV f.data n).1.storeFrom h f i (s.readV f.data n).2)) (hea : (theOp s i).ea = effAddr s h f false)
    (hs : 2 ≤ f.space.toNat ∨ (!s.actsNow i [((spadProbe s (theOp s i)).key, (theOp s i).bytes)]) = true) :
    answers i s (BecomesRequest s i ⟨h, 0, address s h f (f.offs.signExtend 64), f.space, (s.readV f.data n).2, 0, 0, [], none⟩) := by
  obtain ⟨x, hx⟩ := readV_issue s f.data n
  rw [hx, storeFrom_requests (by rwa [actsNow_issue, theOp_issue])] at he
  exact answers_request he (prepared_issue s x) (hea.trans (effAddr_eq_address s h f false)) rfl

theorem atomic_becomes {x y : Word} {l : List Reg} {short : Bool} {idx : Vec} (he : exec i s = .next (s.atomicOp h f i x y l))
    (hea : (theOp s i).ea = effAddr s h f short) (hf : (spaces [0, 1, 2] f).isEmpty = true)
    (hy : y.setWidth 2048 = idx)
    (hs : 2 ≤ f.space.toNat ∨ (!s.actsNow i [((spadProbe s (theOp s i)).key, (theOp s i).bytes)]) = true) :
    answers i s (BecomesRequest s i ⟨h, 0, address s h f (if short then (f.offs.extractLsb' 0 16).signExtend 64 else f.offs.signExtend 64),
      f.space, x.setWidth 2048, idx, 0, l, none⟩) := by
  subst hy
  exact becomes_of_request (he.trans (congrArg _ (atomicOp_requests hf hs))) rfl (hea.trans (effAddr_eq_address s h f short)) rfl

end

theorem elements_becomes {s : State} {i : Instr} {h : Head} {f : F4} {data : Vec} {store : Bool} {l : List Reg} {n : Nat}
    (he : exec i s = .next ((s.readV f.a n).1.request h.slot i 4 (s.readS h f.b 2) 2 data (s.readV f.a n).2 (s.readK h f.k 14) 0 store l)) :
    answers i s (BecomesRequest s i ⟨h, 4, s.readS h f.b 2, 2, data, (s.readV f.a n).2, s.readK h f.k 14, l, none⟩) := by
  obtain ⟨x, hx⟩ := readV_issue s f.a n
  rw [hx] at he
  exact answers_request he (prepared_issue s x) rfl rfl

/-- 05 R122: the spaces that a legal atomic or barrier operation names. -/
theorem spaces_barr {h : Head} {f : FM} (hf : (Instr.barr h f).fieldsOk = true) : (spaces [0, 1, 2] f).isEmpty = true :=
  (isEmpty_append_iff.mp (isEmpty_left (isEmpty_left hf))).2
theorem spaces_amo {h : Head} {f : FM} (hf : (Instr.amo h f).fieldsOk = true) : (spaces [0, 1, 2] f).isEmpty = true :=
  (isEmpty_append_iff.mp (isEmpty_left (isEmpty_left hf))).2
theorem spaces_cas {h : Head} {f : FM} (hf : (Instr.cas h f).fieldsOk = true) : (spaces [0, 1, 2] f).isEmpty = true :=
  (isEmpty_append_iff.mp (isEmpty_left (isEmpty_left (isEmpty_left hf)))).2

theorem bwait_far {s : State} {h : Head} {f : FM} (hr : opRuns s h = true) (hc : opCause (.bwait h f) s = none) (hs : f.space = 2) :
    exec (.bwait h f) s =
      .next (s.request h.slot (.bwait h f) 0 (theOp s (.bwait h f)).ea 2 ((s.readS h f.data 1).setWidth 2048) 0 0 0 false []) := by
  show execBwait h f s = _
  rw [execBwait, slotOpC_runs hr hc, hs]
  rfl

theorem aarm_held {s : State} {h : Head} {f : FC} (hr : opRuns s h = true) (hc : opCause (.aarm h f) s = none)
    (hs : (!s.actsNow (.aarm h f) [((spadProbe s (theOp s (.aarm h f))).key, (theOp s (.aarm h f)).bytes)]) = true) :
    exec (.aarm h f) s =
      .next (s.request h.slot (.aarm h f) 0 (s.readS h f.a 1) 0 ((s.readS h f.b 2).setWidth 2048) 0 0 0 true []) := by
  show execAarm h f s = _
  rw [execAarm, slotOpC_runs hr hc]
  exact congrArg _ (if_neg fun hn => by rw [Bool.not_eq_true'] at hs; exact Bool.false_ne_true (hs.symm.trans hn))

theorem askedOf_becomes {s : State} {i : Instr} {o : Asked} (ho : askedOf s i = some o) (hf : i.fieldsOk = true)
    (hr : opRuns s o.h = true) (hc : opCause i s = none) : answers i s (BecomesRequest s i o) := by
  simp only [askedOf] at ho
  split at ho
  case h_1 h f =>
    obtain ⟨hs, rfl⟩ := some_of_ite ho
    exact scalarLoad_becomes (show execLd h f s = _ from slotOpC_runs hr hc) rfl hs
  case h_2 h f =>
    obtain ⟨hs, rfl⟩ := some_of_ite ho
    exact scalarLoad_becomes (show execLdg h f s = _ from slotOpC_runs hr hc) rfl hs
  case h_3 h f =>
    obtain ⟨hs, rfl⟩ := some_of_ite ho
    exact vectorLoad_becomes (show execLdv h f s = _ from slotOpC_runs hr hc) rfl hs
  case h_4 h f =>
    obtain ⟨hs, rfl⟩ := some_of_ite ho
    exact vectorLoad_becomes (show execLdgv h f s = _ from slotOpC_runs hr hc) rfl hs
  case h_5 h f =>
    obtain ⟨hs, rfl⟩ := some_of_ite ho
    exact vectorLoad_becomes (show execLdvs h f s = _ from slotOpC_runs hr hc) rfl hs
  case h_6 h f =>
    obtain ⟨hs, rfl⟩ := some_of_ite ho
    exact scalarStore_becomes (show execSt h f s = _ from slotOpC_runs hr hc) rfl hs
  case h_7 h f =>
    obtain ⟨hs, rfl⟩ := some_of_ite ho
    exact scalarStore_becomes (show execStg h f s = _ from slotOpC_runs hr hc) rfl hs
  case h_8 h f =>
    obtain ⟨hs, rfl⟩ := some_of_ite ho
    exact vectorStore_becomes (show execStv h f s = _ from slotOpC_runs hr hc) rfl hs
  case h_9 h f =>
    obtain ⟨hs, rfl⟩ := some_of_ite ho
    exact vectorStore_becomes (show execStgv h f s = _ from slotOpC_runs hr hc) rfl hs
  case h_10 h f =>
    obtain ⟨hs, rfl⟩ := some_of_ite ho
    exact vectorStore_becomes (show execStvs h f s = _ from slotOpC_runs hr hc) rfl hs
  case h_11 h f =>
    obtain ⟨hs, rfl⟩ := some_of_ite ho
    exact scalarLoad_becomes (show execLdw h f s = _ from slotOpC_runs hr hc) rfl hs
  case h_12 h f =>
    obtain ⟨hs, rfl⟩ := some_of_ite ho
    exact scalarLoad_becomes (show execLdc h f s = _ from slotOpC_runs hr hc) rfl hs
  case h_13 h f =>
    obtain ⟨-, rfl⟩ := some_of_ite ho
    exact becomes_of_request (show execLdt h f s = _ from slotOpC_runs hr hc) rfl (effAddr_eq_address s h f false) rfl
  case h_14 h f =>
    obtain ⟨hs, rfl⟩ := some_of_ite ho
    exact scalarStore_becomes (show execStf h f s = _ from slotOpC_runs hr hc) rfl (.inl hs)
  case h_15 h f =>
    obtain ⟨hs, rfl⟩ := some_of_ite ho
    exact scalarStore_becomes (show execSts h f s = _ from slotOpC_runs hr hc) rfl (.inl hs)
  case h_16 h f =>
    obtain ⟨hs, rfl⟩ := some_of_ite ho
    exact scalarStore_becomes (show execTage h f s = _ from slotOpC_runs hr hc) rfl (.inl hs)
  case h_17 h f =>
    obtain rfl := Option.some.inj ho
    exact elements_becomes (show execGath h f s = _ from slotOpC_runs hr hc)
  case h_18 h f =>
    obtain rfl := Option.some.inj ho
    exact elements_becomes (show execProbe h f s = _ from slotOpC_runs hr hc)
  case h_19 h f =>
    obtain rfl := Option.some.inj ho
    exact elements_becomes (show execScat h f s = _ from slotOpC_runs hr hc)
  case h_20 h f =>
    obtain rfl := Option.some.inj ho
    exact becomes_of_request (show execPark h f s = _ from slotOpC_runs hr hc) rfl (effAddr_eq_address s h f true) rfl
  case h_21 h f =>
    obtain rfl := Option.some.inj ho
    exact becomes_of_request (show execWake h f s = _ from slotOpC_runs hr hc) rfl (effAddr_eq_address s h f true) rfl
  case h_22 h f =>
    obtain ⟨hs, rfl⟩ := some_of_ite ho
    exact becomes_of_request (bwait_far hr hc hs) rfl (effAddr_eq_address s h f false) rfl
  case h_23 h f =>
    obtain ⟨hs, rfl⟩ := some_of_ite ho
    exact atomic_becomes (short := false) (i := .barr h f) (show execBarr h f s = _ from slotOpC_runs hr hc) rfl (spaces_barr hf)
      (BitVec.setWidth_zero _ _) hs
  case h_24 h f =>
    obtain ⟨hs, rfl⟩ := some_of_ite ho
    exact atomic_becomes (short := true) (i := .amo h f) (show execAmo h f s = _ from slotOpC_runs hr hc) rfl (spaces_amo hf)
      (BitVec.setWidth_zero _ _) hs
  case h_25 h f =>
    obtain ⟨hs, rfl⟩ := some_of_ite ho
    exact atomic_becomes (short := true) (i := .cas h f) (show execCas h f s = _ from slotOpC_runs hr hc) rfl (spaces_cas hf) rfl hs
  case h_26 h f =>
    obtain ⟨hs, rfl⟩ := some_of_ite ho
    exact becomes_of_request (aarm_held hr hc hs) rfl rfl rfl
  case h_27 h f =>
    obtain ⟨hs, rfl⟩ := some_of_ite ho
    exact becomes_of_request ((show execFpost h f s = _ from slotOp_runs hr).trans (congrArg _ (if_neg (by simp [hs])))) rfl rfl rfl
  case h_28 => cases ho

end Sys2Proof.Machine

open Sys2Proof Sys2Proof.Machine Sys2Proof.Claims

/-- Settles O22: each operation answers with one request, made after its operands have been read. -/
theorem farAccessesBecomeRequests : Obligations.FarAccessesBecomeRequests := by
  unfold Obligations.FarAccessesBecomeRequests
  exact fun s i o ho hf hr hc => askedOf_becomes ho hf hr hc
end

section
/-! Loads and stores of the scratchpads (08 R182 to R184, 18 R414). -/
namespace Sys2Proof.Machine
open Sys2Proof.Claims

/-! ### Values of loads -/

theorem wrapInt_natCast (w x : Nat) : wrapInt w (x : Int) = x % 2 ^ w := by
  simp only [wrapInt]
  norm_cast

/-- 08 R183: what a scalar load shows. -/
theorem widenS_eq_element (t : Ty) (x : Nat) : widenS t x = element t x := by
  have hint : extendTo64 t x = extend t (BitVec.ofNat 64 x) := by
    have hmod : extendTo64 t (wrapInt (tyWidth t) (x : Int)) = extendTo64 t x := by
      rw [wrapInt_natCast, extendTo64, extendTo64, intOf_mod]
    rw [← hmod, extendTo64_wrapInt, BitVec.ofInt_natCast]
  rw [widenS, element, fltResult, hint]

/-- 08 R183: a broadcast of an element. -/
theorem bcast_eq {t : Ty} {x : Nat} (h : x < 2 ^ 64) :
    bcast t (BitVec.ofNat 64 x) = ofLanes (tyWidth t) (List.replicate (2048 / tyWidth t) x) := by
  rw [bcast, tyLanes, BitVec.toNat_ofNat, Nat.mod_eq_of_lt h]

theorem element_lt (m : Memory) (k : Nat) (t : Ty) : readNat m k ((tyWidth t + 7) / 8) < 2 ^ 64 := by
  have hw := tyWidth_le t
  have hpow : 256 ^ ((tyWidth t + 7) / 8) ≤ 256 ^ 8 := Nat.pow_le_pow_right (by decide) (by omega)
  exact (readNat_lt m k _).trans_le (hpow.trans (by decide))

/-! ### The end of an acquire -/

theorem acquireIf_cx (s : State) (i : Instr) : (s.acquireIf i).cx = if isAcquire i then s.cx.acquired s.time else s.cx := by
  rw [State.acquireIf]
  split
  · exact State.cx_modCx s _
  · rfl

theorem acquireIf_rest (s : State) (i : Instr) : ({ s.acquireIf i with cores := s.cores } : State) = s := by
  rw [State.acquireIf]
  split <;> rfl

theorem ctxOnly_acquireIf (s : State) (i : Instr) : CtxOnly s (s.acquireIf i) := by
  rw [State.acquireIf]
  split
  · exact ctxOnly_of_cores (f := fun c => c.acquired s.time) rfl
  · exact ctxOnly_same rfl

/-! ### A load that delivers -/

/-- The value goes to the destination of the load at its bound, and nothing else of the state changes. -/
def Delivers (s : State) (i : Instr) (o : LoadForm) (v : Vec) (t : State) : Prop :=
  t.cx.pend = (s.cx.addResult s.cur.acc o.dest v allBits o.bound 0 (s.nextId + if o.push.isSome then 1 else 0)).pend ∧
  Reserved s t o.push ∧ t.cx.acqTime = acquired s i ∧
  ({ t.cx with pend := s.cx.pend, q := s.cx.q, wrote := s.cx.wrote, acqTime := s.cx.acqTime } : Ctx) = s.cx ∧ CtxOnly s t ∧
  ({ t with cores := s.cores, races := s.races, nextId := s.nextId } : State) = s

/-- The destination of a load has been made ready: a register, or an entry reserved in the queue that it pushes. -/
structure Ready (s u : State) (o : LoadForm) : Prop where
  prepared : Prepared s u o.push
  issue : u.issue = s.issue
  nextId : u.nextId = s.nextId + if o.push.isSome then 1 else 0

theorem delivers_of_ready {s u : State} {p : Probe} {o : LoadForm} (hu : Ready (s.recordRace p) u o) (i : Instr) (v : Vec) :
    Delivers s i o v ((u.result o.dest v allBits o.bound 0).acquireIf i) := by
  obtain ⟨⟨hq, hctx, hoth, hrest, -⟩, hissue, hid⟩ := hu
  have hcur : u.cur = s.cur := (congrArg State.cur hrest :)
  have htime : u.time = s.time := (congrArg State.time hrest :)
  have hcx : u.cx = { s.cx with q := u.cx.q } := (congrArg (fun c : Ctx => ({ c with q := u.cx.q } : Ctx)) hctx :)
  have ht := acquireIf_cx (u.result o.dest v allBits o.bound 0) i
  rw [State.cx_result, State.result_time, hcur, hid, htime, hcx] at ht
  refine ⟨?pend, ?queues, ?acquired, ?ctx, ?others, ?rest⟩
  case pend => rw [ht]; split <;> rfl
  case queues =>
    intro n
    have hents : (((u.result o.dest v allBits o.bound 0).acquireIf i).cx.q[n]).ents = (u.cx.q[n]).ents := by rw [ht]; split <;> rfl
    exact hents.trans (hq n)
  case acquired => rw [ht, acquired]; split <;> rfl
  case ctx => rw [ht]; split <;> rfl
  case others =>
    refine ctxOnly_trans hoth hcur (ctxOnly_trans (ctxOnly_of_cores rfl) rfl (ctxOnly_acquireIf _ i))
  case rest =>
    have hacq := congrArg (fun x : State => ({ x with cores := s.cores, races := s.races, nextId := s.nextId } : State))
      (acquireIf_rest (u.result o.dest v allBits o.bound 0) i)
    have hissue : u.issue = s.issue := hissue
    have hu : ({ u with cores := s.cores, races := s.races, nextId := s.nextId } : State) =
        ({ u with cores := s.cores, races := s.races, nextId := s.nextId, issue := s.issue } : State) := by rw [← hissue]
    exact hacq.trans (hu.trans (congrArg (fun x : State => ({ x with races := s.races } : State)) hrest))

theorem ready_register (s : State) {o : LoadForm} (h : o.push = none) : Ready s s o where
  prepared := h ▸ prepared_issue s s.issue
  issue := rfl
  nextId := by rw [h]; rfl

theorem ready_destV (s : State) {o : LoadForm} {d : BitVec 6} (h : o.push = (vectorDest s d).2) : Ready s (s.destV d).1 o where
  prepared := h ▸ prepared_destV s d
  issue := by rw [State.destV]; split <;> rfl
  nextId := by rw [h, State.destV, vectorDest]; split <;> rfl

/-- 08 R182, R183: the loads of spaces 00 and 01 as the scratchpad performs them. -/
def LoadsAs (s : State) (i : Instr) (o : LoadForm) : Prop :=
  ∃ (dest : State → State × Reg) (g : Nat → Vec), exec i s = .next (s.spadLoad o.h i o.bound dest g) ∧
    (∀ p, Ready (s.recordRace p) (dest (s.recordRace p)).1 o ∧ (dest (s.recordRace p)).2 = o.dest) ∧
    ∀ k, g (readNat s.mem k o.bytes) = o.value (readNat s.mem k o.bytes)

theorem own_space {x : BitVec 2} (h : x.toNat ≤ 1) : (x == 0 || x == 1) = true := by
  revert x; decide

theorem loadTo_near {s : State} {h : Head} {f : FM} {i : Instr} {dest : State → State × Reg} (hs : f.space.toNat ≤ 1) :
    s.loadTo h f i dest = s.spadLoad h i (if f.space = 0 then 5 else 12) dest (loadValue i) := by
  simp only [State.loadTo, own_space hs, spadBound, beq_iff_eq, if_true]

theorem loadForm_loads {s : State} {i : Instr} {o : LoadForm} (ho : loadForm s i = some o) (hr : opRuns s o.h = true)
    (hc : opCause i s = none) (hs : o.f.space.toNat ≤ 1) : LoadsAs s i o := by
  unfold loadForm at ho
  split at ho <;> cases ho
  case h_1 h f =>
    exact ⟨_, _, (show execLd h f s = _ from slotOpC_runs hr hc).trans (congrArg _ (loadTo_near hs)),
      fun _ => ⟨ready_register _ rfl, rfl⟩, fun k => widenS_eq_element _ _⟩
  case h_2 h f =>
    exact ⟨_, _, (show execLdg h f s = _ from slotOpC_runs hr hc).trans (congrArg _ (loadTo_near hs)),
      fun _ => ⟨ready_register _ rfl, rfl⟩, fun k => widenS_eq_element _ _⟩
  case h_3 h f =>
    exact ⟨_, _, (show execLdv h f s = _ from slotOpC_runs hr hc).trans (congrArg _ (loadTo_near hs)),
      fun _ => ⟨ready_destV _ rfl, destV_snd _ _⟩, fun k => rfl⟩
  case h_4 h f =>
    exact ⟨_, _, (show execLdgv h f s = _ from slotOpC_runs hr hc).trans (congrArg _ (loadTo_near hs)),
      fun _ => ⟨ready_destV _ rfl, destV_snd _ _⟩, fun k => rfl⟩
  case h_5 h f =>
    exact ⟨_, _, (show execLdvs h f s = _ from slotOpC_runs hr hc).trans (congrArg _ (loadTo_near hs)),
      fun _ => ⟨ready_destV _ rfl, destV_snd _ _⟩, fun k => bcast_eq (element_lt s.mem k f.ty)⟩
  case h_6 h f =>
    refine ⟨fun s => (s, .v (f.data.setWidth 5)), _, (show execLdx h f s = _ from slotOpC_runs hr hc).trans ?_,
      fun _ => ⟨ready_register _ rfl, rfl⟩, fun k => rfl⟩
    simp only [beq_iff_eq]

/-- 18 R414: a load that meets no marker delivers the value of its bytes. -/
theorem spadLoad_delivers {s : State} {h : Head} {i : Instr} {n : Nat} {dest : State → State × Reg} {g : Nat → Vec}
    (hp : isPoisoned s.poison (spadProbe s (theOp s i)).key (theOp s i).bytes = false) :
    s.spadLoad h i n dest g =
      ((dest (s.recordRace (spadProbe s (theOp s i)))).1.result (dest (s.recordRace (spadProbe s (theOp s i)))).2
        (g (readNat s.mem (spadProbe s (theOp s i)).key (theOp s i).bytes)) allBits n 0).acquireIf i := by
  simp only [State.spadLoad, hp]
  rfl

/-- 18 R414: a load that meets one reports it. -/
theorem spadLoad_reports {s : State} {h : Head} {i : Instr} {n : Nat} {dest : State → State × Reg} {g : Nat → Vec}
    (hp : isPoisoned s.poison (spadProbe s (theOp s i)).key (theOp s i).bytes = true) :
    s.spadLoad h i n dest g = s.reportNow h.slot 0x111
      (poisonVa s.poison (spadProbe s (theOp s i)).key (theOp s i).bytes (theOp s i).ea) (kindInfo 2) := by
  simp only [State.spadLoad, hp, if_true]

theorem reportNow_cx (s : State) (slot : BitVec 3) (code : Nat) (addr info : Word) :
    (s.reportNow slot code addr info).cx = { s.cx with reports := s.cx.reports ++
      [⟨s.nextId, s.cur.acc, if s.cur.acc then s.cx.countA else s.cx.issueX, 0, s.cx.hmode,
        ⟨BitVec.ofNat 9 code, slot, addr, info⟩, 0, 0⟩] } :=
  State.cx_modCx _ _

end Sys2Proof.Machine

open Sys2Proof Sys2Proof.Machine Sys2Proof.Claims

/-- 08 R182, R184, 18 R414: what a load of the scratchpad answers. -/
theorem loadForm_answers {s : State} {i : Instr} {o : LoadForm} (ho : loadForm s i = some o) (hr : opRuns s o.h = true)
    (hc : opCause i s = none) (hs : o.f.space.toNat ≤ 1) :
    (isPoisoned s.poison (spadProbe s (theOp s i)).key o.bytes = false →
      answers i s (Delivers s i o (o.value (readNat s.mem (spadProbe s (theOp s i)).key o.bytes)))) ∧
    (isPoisoned s.poison (spadProbe s (theOp s i)).key o.bytes = true → answers i s fun t =>
      (∃ r, t.cx.reports = s.cx.reports ++ [r] ∧ r.cause.code = 0x111 ∧
        r.cause.addr = poisonVa s.poison (spadProbe s (theOp s i)).key o.bytes (theOp s i).ea) ∧
      t.cx.pend = s.cx.pend ∧ t.mem = s.mem) := by
  obtain ⟨dest, g, he, hdest, hg⟩ := loadForm_loads ho hr hc hs
  obtain ⟨-, -, hn⟩ := theOp_loadForm ho
  rw [← hn]
  refine ⟨fun hp => ?_, fun hp => ?_⟩
  · obtain ⟨hready, hd⟩ := hdest (spadProbe s (theOp s i))
    refine ⟨_, he.trans (congrArg _ (spadLoad_delivers hp)), ?_⟩
    rw [hd, hn, hg]
    exact delivers_of_ready hready i _
  · have hcx := reportNow_cx s o.h.slot 0x111 (poisonVa s.poison (spadProbe s (theOp s i)).key (theOp s i).bytes (theOp s i).ea) (kindInfo 2)
    exact ⟨_, he.trans (congrArg _ (spadLoad_reports hp)), ⟨_, congrArg Ctx.reports hcx, rfl, rfl⟩, (congrArg Ctx.pend hcx :), rfl⟩

namespace Sys2Proof.Machine

/-- 08 R183: a store of spaces 00 and 01 that nothing earlier holds back. -/
theorem storeFrom_stores {s : State} {h : Head} {f : FM} {i : Instr} {v : Vec} {n : Nat} (hs : f.space.toNat ≤ 1)
    (hn : (theOp s i).bytes = n) (hnow : s.actsNow i [((spadProbe s (theOp s i)).key, n)] = true) (hb : storeBytes i v = bytesOfNat v.toNat n) :
    s.storeFrom h f i v =
      (s.recordRace (spadProbe s (theOp s i))).storeAt (spadProbe s (theOp s i)).key (bytesOfNat v.toNat n) := by
  subst hn
  simp only [State.storeFrom, own_space hs, hnow, hb, Bool.and_true, if_true]

/-- 08 R183: the bytes of a store, what else may differ, and the cores. -/
def Stores (s : State) (k n x : Nat) (t : State) : Prop :=
  (∀ a, readByte t.mem a = storedByte s.mem k n x a) ∧ t.cores = s.cores ∧
  ({ t with mem := s.mem, poison := s.poison, races := s.races, issue := s.issue } : State) = s

theorem stores_storeAt {s : State} (hm : s.memOk = true) (x : Option Issue) (p : Probe) (k n y : Nat) :
    Stores s k n y ((({ s with issue := x } : State).recordRace p).storeAt k (bytesOfNat y n)) :=
  ⟨fun a => readByte_storeAt hm k n y a, rfl, rfl⟩

section
variable {s : State} {i : Instr} {h : Head} {f : FM} {n : Nat}

theorem scalarStore_stores {v : Vec} (hm : s.memOk = true) (he : exec i s = .next (s.storeFrom h f i v)) (hs : f.space.toNat ≤ 1)
    (hn : (theOp s i).bytes = n) (hnow : s.actsNow i [((spadProbe s (theOp s i)).key, n)] = true) (hb : storeBytes i v = bytesOfNat v.toNat n) :
    answers i s (Stores s (spadProbe s (theOp s i)).key n v.toNat) :=
  ⟨_, he.trans (congrArg _ (storeFrom_stores hs hn hnow hb)), stores_storeAt hm s.issue _ _ _ _⟩

theorem vectorStore_stores {k : Nat} (hm : s.memOk = true)
    (he : exec i s = .next ((s.readV f.data k).1.storeFrom h f i (s.readV f.data k).2)) (hs : f.space.toNat ≤ 1)
    (hn : (theOp s i).bytes = n) (hnow : s.actsNow i [((spadProbe s (theOp s i)).key, n)] = true)
    (hb : ∀ v, storeBytes i v = bytesOfNat v.toNat n) :
    answers i s (Stores s (spadProbe s (theOp s i)).key n (s.readV f.data k).2.toNat) := by
  obtain ⟨x, hx⟩ := readV_issue s f.data k
  rw [hx, storeFrom_stores (s := { s with issue := x }) hs hn (by rwa [actsNow_issue]) (hb _)] at he
  exact ⟨_, he, stores_storeAt hm x _ _ _ _⟩

theorem storeForm_stores {v : Vec} (ho : storeForm s i = some (h, f, n, v)) (hr : opRuns s h = true) (hc : opCause i s = none)
    (hs : f.space.toNat ≤ 1) (hm : s.memOk = true) (hnow : s.actsNow i [((spadProbe s (theOp s i)).key, n)] = true) :
    answers i s (Stores s (spadProbe s (theOp s i)).key n v.toNat) := by
  obtain ⟨-, -, hn⟩ := theOp_storeForm ho
  unfold storeForm at ho
  split at ho <;> cases ho
  case h_1 => exact scalarStore_stores hm (show execSt h f s = _ from slotOpC_runs hr hc) hs hn hnow (congrArg _ (bytesOf_eq _))
  case h_2 => exact scalarStore_stores hm (show execStg h f s = _ from slotOpC_runs hr hc) hs hn hnow (congrArg _ (bytesOf_eq _))
  case h_3 => exact vectorStore_stores hm (show execStv h f s = _ from slotOpC_runs hr hc) hs hn hnow fun _ => rfl
  case h_4 => exact vectorStore_stores hm (show execStgv h f s = _ from slotOpC_runs hr hc) hs hn hnow fun _ => rfl
  case h_5 =>
    exact vectorStore_stores hm (show execStvs h f s = _ from slotOpC_runs hr hc) hs hn hnow fun _ => congrArg _ (bytesOf_eq _)

end

end Sys2Proof.Machine

/-- Settles O20: a load delivers the value of its bytes or reports the marker, a store writes its bytes. -/
theorem scratchpadLoadsAndStoresMoveTheirBytes : Obligations.ScratchpadLoadsAndStoresMoveTheirBytes := by
  unfold Obligations.ScratchpadLoadsAndStoresMoveTheirBytes
  exact ⟨fun s i o ho _ hr hc hs => loadForm_answers ho hr hc hs,
    fun s i h f n v ho _ hr hc hs hm hnow => storeForm_stores ho hr hc hs hm hnow⟩
end

section
/-! Fences (08 R202, R204, R205, 10 R256, R257). -/
namespace Sys2Proof.Machine
open Sys2Proof.Claims

/-! ### A fence that waits is one request more -/

theorem mapReqs_last {l : List Req} {r : Req} (h : ∀ x ∈ l, x.id ≠ r.id) (f : Req → Req) : mapReqs (l ++ [r]) r.id f = l ++ [f r] := by
  have hl : l.map (fun x => if x.id == r.id then f x else x) = l := by
    refine (List.map_congr_left fun x hx => ?_).trans (List.map_id l)
    simp [h x hx]
  rw [mapReqs, List.map_append, hl]
  simp

/-- Requests have been added and the current context has become `c`; nothing else has changed. -/
structure Fencing (s t : State) (c : Ctx) (l : List Req) : Prop where
  cx : t.cx = c
  reqs : t.reqs = s.reqs ++ l
  others : CtxOnly s t
  rest : ({ t with cores := s.cores, reqs := s.reqs, nextId := s.nextId } : State) = s
  ids : (∀ r ∈ s.reqs, r.id < s.nextId) → ∀ r ∈ t.reqs, r.id < t.nextId

theorem fencing_refl (s : State) : Fencing s s s.cx [] where
  cx := rfl
  reqs := (List.append_nil _).symm
  others := ctxOnly_same rfl
  rest := rfl
  ids := fun h => h

theorem fencing_modCx (s : State) (f : Ctx → Ctx) : Fencing s (s.modCx f) (f s.cx) [] where
  cx := State.cx_modCx s f
  reqs := (List.append_nil _).symm
  others := ctxOnly_of_cores rfl
  rest := rfl
  ids := fun h => h

theorem fencing_trans {s t u : State} {c d : Ctx} {l m : List Req} (h : Fencing s t c l) (k : Fencing t u d m) :
    Fencing s u d (l ++ m) where
  cx := k.cx
  reqs := by rw [k.reqs, h.reqs, List.append_assoc]
  others := ctxOnly_trans h.others (congrArg State.cur h.rest :) k.others
  rest := (congrArg (fun x : State => ({ x with cores := s.cores, reqs := s.reqs, nextId := s.nextId } : State)) k.rest).trans h.rest
  ids := fun hs => k.ids (h.ids hs)

/-- The request of a fence that waits for `ids`. -/
def State.fenceAsks (s : State) (slot : BitVec 3) (i : Instr) (path : BitVec 3) (ids : List Nat) : Req :=
  { s.asks slot i path 0 2 0 0 0 0 false [] with waits := ids }

theorem fenceRequest_reqs {s : State} (hs : ∀ r ∈ s.reqs, r.id < s.nextId) (slot : BitVec 3) (i : Instr) (path : BitVec 3) (ids : List Nat) :
    (s.fenceRequest slot i path ids).reqs = s.reqs ++ [s.fenceAsks slot i path ids] :=
  mapReqs_last (r := s.asks slot i path 0 2 0 0 0 0 false []) (fun x hx => Nat.ne_of_lt (hs x hx)) fun r => { r with waits := ids }

theorem fencing_fenceRequest {s : State} (hs : ∀ r ∈ s.reqs, r.id < s.nextId) (slot : BitVec 3) (i : Instr) (path : BitVec 3) (ids : List Nat) :
    Fencing s (s.fenceRequest slot i path ids) s.cx [s.fenceAsks slot i path ids] where
  cx := (request_cx s slot i path 0 2 0 0 0 0 false []).trans (awaiting_nil _ _ _)
  reqs := fenceRequest_reqs hs slot i path ids
  others := ctxOnly_of_cores (request_cores s slot i path 0 2 0 0 0 0 false [])
  rest := rfl
  ids := fun _ r hr => by
    rw [fenceRequest_reqs hs, List.mem_append, List.mem_singleton] at hr
    obtain hr | rfl := hr
    · exact Nat.lt_succ_of_lt (hs r hr)
    · exact Nat.lt_succ_self _

/-- A hold, and the request for whose end it stands. -/
theorem fencing_held {s : State} (hs : ∀ r ∈ s.reqs, r.id < s.nextId) (k : HoldRec) (slot : BitVec 3) (i : Instr) (path : BitVec 3) (ids : List Nat) :
    Fencing s ((s.hold k).fenceRequest slot i path ids) { s.cx with holds := liveHolds s ++ [k] }
      [(s.hold k).fenceAsks slot i path ids] := by
  have h := fencing_trans (fencing_modCx s fun c => { c with holds := (c.holds.filter fun h => h.ids.any (s.pendingId s.cur.core)) ++ [k] })
    (fencing_fenceRequest (s := s.hold k) hs slot i path ids)
  rwa [State.hold, State.cx_modCx] at h

theorem fenceReq_of_fencing {s t u : State} {c : Ctx} {slot : BitVec 3} {i : Instr} {path : BitVec 3} {ids : List Nat} (hid : u.nextId = s.nextId)
    (hcur : u.cur = s.cur) (hi : isFence i = true) (h : Fencing s t c [u.fenceAsks slot i path ids]) : FenceReq s t path ids :=
  ⟨_, h.reqs, hid, rfl, rfl, hi, rfl, congrArg Env.core hcur, congrArg Env.ctx hcur⟩

/-! ### FENCE (08 R204) -/

theorem lsLoads_ids (s : State) :
    ((s.reqs.filter fun r => r.mine s.cur.core s.cur.ctx && r.path == 0 && !r.dests.isEmpty).map (·.id)) = (lsLoads s).map (·.id) := by
  rw [lsLoads, lsReqs, ownReqs, List.filter_filter]
  simp only [Bool.and_comm]

/-- There is something that a release comes after (08 R204). -/
def releaseWaits (s : State) : Prop := lsReqs s ≠ [] ∨ replaying s = true

theorem not_releaseWaits {s : State} : ¬releaseWaits s ↔ (((lsReqs s).map (·.id)).isEmpty && !replaying s) = true := by
  simp [releaseWaits]

theorem releaseFence_now {s : State} (h : ¬releaseWaits s) (hd : Head) (f : FM) : s.releaseFence hd f = s :=
  if_pos (not_releaseWaits.mp h)

theorem releaseFence_held {s : State} (h : releaseWaits s) (hd : Head) (f : FM) :
    s.releaseFence hd f = (s.hold ⟨1, false, [s.nextId]⟩).fenceRequest hd.slot (.fence hd { f with order := 2 }) 7 ((lsReqs s).map (·.id)) :=
  if_neg fun hn => not_releaseWaits.mpr hn h

/-- The instruction of an acquire that waits. -/
def acquireInstr (slot : BitVec 3) : Instr := .fence ⟨slot, 0, 0, 0, 0, none⟩ ⟨0, 0, 0, 0, 0, 0, 1, 0⟩

theorem acquireAfter_now (s : State) (slot : BitVec 3) : s.acquireAfter slot [] = s.modCx fun c => c.acquired s.time := rfl

theorem acquireAfter_waits (s : State) (slot : BitVec 3) {ids : List Nat} (h : ids ≠ []) :
    s.acquireAfter slot ids = s.fenceRequest slot (acquireInstr slot) 0 ids :=
  if_neg fun hn => h (List.isEmpty_iff.mp hn)

/-- What a FENCE does once its release part, if it has one, has left `u`. -/
def State.fenceEnds (u : State) (h : Head) (f : FM) (loads : List Nat) : State :=
  if f.order.getLsbD 0 then u.acquireAfter h.slot loads else u

theorem exec_fence {s : State} {h : Head} (hr : opRuns s h = true) (f : FM) :
    exec (.fence h f) s =
      .next ((if f.order.getLsbD 1 then s.releaseFence h f else s).fenceEnds h f ((lsLoads s).map (·.id))) := by
  show execFence h f s = _
  rw [execFence, slotOp_runs hr, lsLoads_ids]
  rfl

theorem fenceReq_of_reqs {s t u : State} {path : BitVec 3} {ids : List Nat} (h : FenceReq s t path ids) (hu : u.reqs = t.reqs) :
    FenceReq s u path ids := by
  obtain ⟨r, hr, h⟩ := h
  exact ⟨r, hu.trans hr, h⟩

section
variable {s u : State} (h : Head) (f : FM)

/-- 08 R204: the release part of a FENCE. -/
theorem fence_releases (hs : ∀ r ∈ s.reqs, r.id < s.nextId) :
    let rel := f.order.getLsbD 1 = true ∧ (lsReqs s ≠ [] ∨ replaying s = true)
    ∃ u l, (if f.order.getLsbD 1 then s.releaseFence h f else s) = u ∧
      Fencing s u { s.cx with holds := if rel then liveHolds s ++ [⟨1, false, [s.nextId]⟩] else s.cx.holds } l ∧
      (¬rel → u = s) ∧ (rel → FenceReq s u 7 ((lsReqs s).map (·.id))) := by
  intro rel
  by_cases hrel : rel
  · have hf := fencing_held hs ⟨1, false, [s.nextId]⟩ h.slot (.fence h { f with order := 2 }) 7 ((lsReqs s).map (·.id))
    rw [if_pos hrel.1, releaseFence_held hrel.2, if_pos hrel]
    exact ⟨_, _, rfl, hf, fun hn => absurd hrel hn, fun _ => fenceReq_of_fencing (u := s.hold _) rfl rfl rfl hf⟩
  · have hsame : (if f.order.getLsbD 1 then s.releaseFence h f else s) = s := by
      split
      · exact releaseFence_now (fun hw => hrel ⟨‹_›, hw⟩) h f
      · rfl
    rw [hsame, if_neg hrel]
    exact ⟨s, [], rfl, fencing_refl s, fun _ => rfl, fun hr => absurd hr hrel⟩

/-- 08 R204: the acquire part: it waits for the loads, it completes at once, or there is none. -/
theorem fence_acquires (hs : ∀ r ∈ u.reqs, r.id < u.nextId) (l : List Req) :
    let acq := f.order.getLsbD 0 = true ∧ l ≠ []
    ∃ m, Fencing u (u.fenceEnds h f (l.map (·.id)))
        { u.cx with acqTime := if f.order.getLsbD 0 = true ∧ l = [] then max u.cx.acqTime u.time else u.cx.acqTime } m ∧
      (¬acq → m = []) ∧ (acq → m = [u.fenceAsks h.slot (acquireInstr h.slot) 0 (l.map (·.id))]) := by
  intro acq
  by_cases hb : f.order.getLsbD 0 = true
  · rw [State.fenceEnds, if_pos hb]
    by_cases hl : l = []
    · rw [if_pos ⟨hb, hl⟩, hl, List.map_nil, acquireAfter_now]
      exact ⟨[], fencing_modCx u fun c => c.acquired u.time, fun _ => rfl, fun ha => absurd hl ha.2⟩
    · rw [if_neg fun hn => hl hn.2, acquireAfter_waits u h.slot (mt List.map_eq_nil_iff.mp hl)]
      exact ⟨_, fencing_fenceRequest hs _ _ _ _, fun hn => absurd ⟨hb, hl⟩ hn, fun _ => rfl⟩
  · rw [State.fenceEnds, if_neg hb, if_neg fun hn => hb hn.1]
    exact ⟨[], fencing_refl u, fun _ => rfl, fun ha => absurd ha.1 hb⟩

end

/-! ### FENCEX and the fences of waits (08 R202, R205) -/

theorem fencePaths_now {s : State} {mask : BitVec 8} (hp : pathIds s mask = []) (hr : replaying s = false) (slot : BitVec 3) :
    s.fencePaths slot mask =
      s.modCx fun c => { c with acqTime := s.time, gsAcqTime := if mask.getLsbD 4 then s.time else c.gsAcqTime } :=
  if_pos (by
    show ((pathIds s mask).isEmpty && !replaying s) = true
    rw [hp, hr]; rfl)

theorem fencePaths_held {s : State} {mask : BitVec 8} (h : pathIds s mask ≠ [] ∨ replaying s = true) (slot : BitVec 3) :
    s.fencePaths slot mask = (s.hold ⟨mask, true, s.nextId :: pathIds s mask⟩).fenceRequest slot
      (.fencex ⟨slot, 0, 0, 0, 0, none⟩ ⟨0, 0, 0, 0, 0, 0, mask, 0⟩) 7 (pathIds s mask) :=
  if_neg fun (hn : ((pathIds s mask).isEmpty && !replaying s) = true) => by
    simp only [Bool.and_eq_true, List.isEmpty_iff, Bool.not_eq_true'] at hn
    obtain h | h := h
    · exact h hn.1
    · rw [hn.2] at h; cases h

/-- 08 R202, R205: what a fence over paths leaves: ACQTIME, or a request and a hold. -/
theorem fencePaths_fences {s : State} (hs : ∀ r ∈ s.reqs, r.id < s.nextId) (slot : BitVec 3) (mask : BitVec 8) :
    Fenced s (s.fencePaths slot mask) mask := by
  refine ⟨fun hp hr => ?_, fun h => ?_⟩
  · rw [fencePaths_now hp hr, State.cx_modCx]
    exact ⟨rfl, rfl, rfl, rfl⟩
  · have hf := fencing_held hs ⟨mask, true, s.nextId :: pathIds s mask⟩ slot
      (.fencex ⟨slot, 0, 0, 0, 0, none⟩ ⟨0, 0, 0, 0, 0, 0, mask, 0⟩) 7 (pathIds s mask)
    rw [fencePaths_held h]
    exact ⟨fenceReq_of_fencing (u := s.hold _) rfl rfl rfl hf, by rw [hf.cx]⟩

/-- A fence over paths changes of its context only ACQTIME, its counterpart of the GS path and the holds. -/
theorem fencePaths_cx (s : State) (slot : BitVec 3) (mask : BitVec 8) :
    ({ (s.fencePaths slot mask).cx with acqTime := s.cx.acqTime, gsAcqTime := s.cx.gsAcqTime, holds := s.cx.holds } : Ctx) = s.cx := by
  rw [State.fencePaths]
  split
  · rw [State.cx_modCx]
  · have hcx : ((s.hold ⟨mask, true, s.nextId :: s.causedOn mask⟩).fenceRequest slot
        (.fencex ⟨slot, 0, 0, 0, 0, none⟩ ⟨0, 0, 0, 0, 0, 0, mask, 0⟩) 7 (s.causedOn mask)).cx =
        (s.hold ⟨mask, true, s.nextId :: s.causedOn mask⟩).cx :=
      (request_cx _ slot _ 7 0 2 0 0 0 0 false []).trans (awaiting_nil _ _ _)
    rw [hcx, State.hold, State.cx_modCx]

theorem fencePaths_mem (s : State) (slot : BitVec 3) (mask : BitVec 8) : (s.fencePaths slot mask).mem = s.mem := by
  rw [State.fencePaths]
  split <;> rfl

/-- 02 R52: of the system registers, only 0x46 shows ACQTIME. -/
theorem getSys_acqTime (c : Ctx) {n : Nat} (hn : n ≠ 0x46) (x y : Nat) (l : List HoldRec) :
    ({ c with acqTime := x, gsAcqTime := y, holds := l } : Ctx).getSys n = c.getSys n := by
  unfold Ctx.getSys
  split
  case h_7 => exact absurd rfl hn
  all_goals rfl

theorem getReg_of_acquired {c d : Ctx}
    (h : ({ d with acqTime := c.acqTime, gsAcqTime := c.gsAcqTime, holds := c.holds } : Ctx) = c) {r : Reg} (hr : r ≠ .sr 0x46) :
    d.getReg r = c.getReg r := by
  generalize c.acqTime = x, c.gsAcqTime = y, c.holds = l at h
  subst h
  cases r with
  | sr n =>
    have hn : n.toNat ≠ 0x46 := fun e => hr (congrArg Reg.sr (BitVec.eq_of_toNat_eq e))
    exact congrArg (·.setWidth 2048) (getSys_acqTime d hn x y l).symm
  | _ => rfl

end Sys2Proof.Machine

open Sys2Proof Sys2Proof.Machine Sys2Proof.Claims

/-- Settles O31: a FENCE by its release and acquire parts, a FENCEX by its paths. -/
theorem fencesHoldLaterAccesses : Obligations.FencesHoldLaterAccesses := by
  unfold Obligations.FencesHoldLaterAccesses
  refine fun s h hr hs => ⟨fun f => ?fence, fun f => ?fencex⟩
  case fence =>
    intro rel acq
    obtain ⟨u, l, hu, hrel, hsame, hreq⟩ := fence_releases h f hs
    obtain ⟨m, hacq, hnone, hone⟩ := fence_acquires h f (hrel.ids hs) (lsLoads s)
    have hboth := fencing_trans hrel hacq
    have htime : u.time = s.time := (congrArg State.time hrel.rest :)
    refine ⟨_, hu ▸ exec_fence hr f, ?_, hboth.others, hboth.rest, fun hnr hna => ?_, fun hr' hna => ?_, fun hnr ha => ?_, fun hr' ha => ?_⟩
    · rw [hboth.cx, hrel.cx, htime]
    · rw [hacq.reqs, hnone hna, hsame hnr, List.append_nil]
    · exact fenceReq_of_reqs (hreq hr') (by rw [hacq.reqs, hnone hna, List.append_nil])
    · obtain rfl := hsame hnr
      rw [hone ha] at hacq
      exact fenceReq_of_fencing rfl rfl rfl hacq
    · exact ⟨u, _, hreq hr', hone ha ▸ hacq.reqs, rfl, rfl, rfl, rfl⟩
  case fencex =>
    exact ⟨_, show execFencex h f s = _ from slotOp_runs hr, fencePaths_fences hs h.slot f.path, fencePaths_mem _ _ _,
      fun r hreg => getReg_of_acquired (fencePaths_cx s h.slot f.path) hreg⟩
end

section
/-! Flags and arrival words (08 R198 to R200, R202, 10 R256, R259). -/
namespace Sys2Proof.Machine
open Sys2Proof.Claims

/-! ### A wait that has passed -/

theorem lsSyncs_ids (s : State) :
    ((s.reqs.filter fun r => r.mine s.cur.core s.cur.ctx && r.path == 0 && (isAcquire r.instr || isRelease r.instr)).map (·.id)) =
      (lsSyncs s).map (·.id) := by
  rw [lsSyncs, lsReqs, ownReqs, List.filter_filter]
  simp only [Bool.and_comm]

theorem waitPassed_eq (s : State) (slot : BitVec 3) (mask : BitVec 8) : s.waitPassed slot mask =
    if mask == 0 then s.acquireAfter slot ((lsSyncs s).map (·.id))
    else (s.acquireAfter slot ((lsSyncs s).map (·.id))).fencePaths slot mask := by
  rw [← lsSyncs_ids]
  rfl

theorem fencing_acquireAfter {s : State} (hs : ∀ r ∈ s.reqs, r.id < s.nextId) (slot : BitVec 3) (ids : List Nat) :
    ∃ c l, Fencing s (s.acquireAfter slot ids) c l := by
  by_cases h : ids = []
  · rw [h, acquireAfter_now]
    exact ⟨_, _, fencing_modCx s fun c => c.acquired s.time⟩
  · exact ⟨_, _, acquireAfter_waits s slot h ▸ fencing_fenceRequest hs _ _ _ _⟩

theorem fencing_fencePaths {s : State} (hs : ∀ r ∈ s.reqs, r.id < s.nextId) (slot : BitVec 3) (mask : BitVec 8) :
    ∃ c l, Fencing s (s.fencePaths slot mask) c l := by
  by_cases h : pathIds s mask ≠ [] ∨ replaying s = true
  · exact ⟨_, _, fencePaths_held h slot ▸ fencing_held hs _ _ _ _ _⟩
  · rw [not_or, not_not, Bool.not_eq_true] at h
    exact ⟨_, _, fencePaths_now h.1 h.2 slot ▸ fencing_modCx s _⟩

theorem fencing_waitPassed {s : State} (hs : ∀ r ∈ s.reqs, r.id < s.nextId) (slot : BitVec 3) (mask : BitVec 8) :
    ∃ c l, Fencing s (s.waitPassed slot mask) c l := by
  obtain ⟨c, l, hacq⟩ := fencing_acquireAfter hs slot ((lsSyncs s).map (·.id))
  rw [waitPassed_eq]
  split
  · exact ⟨c, l, hacq⟩
  · obtain ⟨d, m, hf⟩ := fencing_fencePaths (hacq.ids hs) slot mask
    exact ⟨d, l ++ m, fencing_trans hacq hf⟩

/-! ### States that a fence sees alike -/

/-- Two states in which the current context has the same before it: its holds, the requests, the commands, the array
operations and the bytes that have landed. -/
structure SeenAlike (s u : State) : Prop where
  holds : u.cx.holds = s.cx.holds
  gsAcqTime : u.cx.gsAcqTime = s.cx.gsAcqTime
  cur : u.cur = s.cur
  reqs : u.reqs = s.reqs
  arrivals : u.arrivals = s.arrivals
  nextId : u.nextId = s.nextId
  time : u.time = s.time
  mem : u.mem = s.mem
  cmds : u.cc.cmds = s.cc.cmds
  arrayQ : u.cc.arrayQ = s.cc.arrayQ

section
variable {s u t : State} (h : SeenAlike s u)
include h

theorem ownReqs_alike (p : Req → Bool) : ownReqs u p = ownReqs s p := by rw [ownReqs, h.reqs, h.cur, ownReqs]

theorem lsSyncs_alike : lsSyncs u = lsSyncs s := by rw [lsSyncs, lsReqs, ownReqs_alike h, lsSyncs, lsReqs]

theorem pathIds_alike (mask : BitVec 8) : pathIds u mask = pathIds s mask := by
  rw [pathIds, ownReqs_alike h, h.cmds, h.arrayQ, h.arrivals, h.cur, pathIds]

theorem replaying_alike : replaying u = replaying s := by rw [replaying, State.replays, h.reqs, h.cur, replaying, State.replays]

theorem liveHolds_alike : liveHolds u = liveHolds s := by
  have hid : u.pendingId u.cur.core = s.pendingId s.cur.core := by
    funext id
    show (_ || u.cc.cmds.any _ || u.cc.arrayQ.any _ || _) = (_ || s.cc.cmds.any _ || s.cc.arrayQ.any _ || _)
    rw [h.reqs, h.cmds, h.arrayQ, h.arrivals]
  rw [liveHolds, h.holds, hid, liveHolds]

theorem fenceReq_alike {path : BitVec 3} {ids : List Nat} (hf : FenceReq u t path ids) : FenceReq s t path ids := by
  rw [FenceReq, h.reqs, h.nextId, h.cur] at hf
  exact hf

theorem fenced_alike {mask : BitVec 8} (hf : Fenced u t mask) : Fenced s t mask := by
  rw [Fenced, pathIds_alike h, replaying_alike h, liveHolds_alike h, h.time, h.gsAcqTime, h.holds, h.reqs, h.nextId] at hf
  exact ⟨hf.1, fun hw => ⟨fenceReq_alike h (hf.2 hw).1, (hf.2 hw).2⟩⟩

theorem waitPassed_alike {mask : BitVec 8} (hcx : u.cx = s.cx) (hw : WaitPassed u t mask) : WaitPassed s t mask := by
  rw [WaitPassed, lsSyncs_alike h, h.mem, h.reqs, hcx, h.time] at hw
  obtain ⟨hm, hnow, hfence, hreq⟩ := hw
  exact ⟨hm, hnow, fun hl hmask => fenced_alike h (hfence hl hmask), fun hl hmask => ⟨fenceReq_alike h (hreq hl hmask).1, (hreq hl hmask).2⟩⟩

end

/-- An acquire that completes leaves what a fence sees. -/
theorem seenAlike_acquired (s : State) : SeenAlike s (s.modCx fun c => c.acquired s.time) := by
  have hcore := (ctxOnly_of_cores (s := s) (t := s.modCx fun c => c.acquired s.time) rfl).2 s.cur.core
  exact ⟨by rw [State.cx_modCx]; rfl, by rw [State.cx_modCx]; rfl, rfl, rfl, rfl, rfl, rfl, rfl, (congrArg Core.cmds hcore :),
    (congrArg Core.arrayQ hcore :)⟩

/-- 10 R256, R259: what a wait that has passed leaves. -/
theorem waitPassed_passes {s : State} (hs : ∀ r ∈ s.reqs, r.id < s.nextId) (slot : BitVec 3) (mask : BitVec 8) :
    WaitPassed s (s.waitPassed slot mask) mask := by
  obtain ⟨_, _, hrest⟩ := fencing_waitPassed hs slot mask
  refine ⟨(congrArg State.mem hrest.rest :), fun hl hm => ?_, fun hl hm => ?_, fun hl hm => ?_⟩
  · subst hm
    rw [waitPassed_eq, hl]
    exact ⟨rfl, State.cx_modCx s fun c => c.acquired s.time⟩
  · have hw : s.waitPassed slot mask = (s.modCx fun c => c.acquired s.time).fencePaths slot mask := by
      rw [waitPassed_eq, hl, if_neg (by simpa using hm)]
      rfl
    rw [hw]
    exact fenced_alike (seenAlike_acquired s) (fencePaths_fences (s := s.modCx fun c => c.acquired s.time) hs slot mask)
  · subst hm
    rw [waitPassed_eq]
    have hf := fencing_fenceRequest hs slot (acquireInstr slot) 0 ((lsSyncs s).map (·.id))
    rw [if_pos (by rfl), acquireAfter_waits s slot (mt List.map_eq_nil_iff.mp hl)]
    exact ⟨fenceReq_of_fencing rfl rfl rfl hf, hf.cx⟩

/-! ### Flags (08 R198) -/

/-- The flags of a core with one of them set. -/
def Core.setFlag (k : Core) (f : BitVec 5) (v : BitVec 16) : Core := { k with f := k.f.set f.toNat v f.isLt }

theorem flag_setFlag (k : Core) (f g : BitVec 5) (v : BitVec 16) : flag (k.setFlag f v) g = if g = f then v else flag k g := by
  have hg := g.isLt
  by_cases h : g = f
  · subst h
    simp [flag, Core.setFlag, Vector.getD, hg]
  · have hn : f.toNat ≠ g.toNat := fun e => h (BitVec.eq_of_toNat_eq e.symm)
    simp [flag, Core.setFlag, Vector.getD, hg, h, hn]

theorem flag_eq (k : Core) (f : BitVec 5) : flag k f = k.f[f.toNat]'f.isLt := by
  simp [flag, Vector.getD, f.isLt]

/-- Waits that the count does not serve are passed over. -/
theorem testWaits_append {f : BitVec 5} (m : List FlagWait) : ∀ {l : List FlagWait} {v : BitVec 16},
    (∀ w ∈ l, w.flag = f → w.granted = true ∨ v.toNat < w.n.toNat) →
    testWaits f (l ++ m) v = (l ++ (testWaits f m v).1, (testWaits f m v).2)
  | [], _, _ => rfl
  | w :: l, v, h => by
    have hw : (w.flag == f && !w.granted && decide (w.n.toNat ≤ v.toNat)) = false := by
      rw [Bool.eq_false_iff]
      intro hn
      simp only [Bool.and_eq_true, beq_iff_eq, Bool.not_eq_true', decide_eq_true_eq] at hn
      obtain ⟨⟨hf, hg⟩, hle⟩ := hn
      obtain hg' | hlt := h w (List.mem_cons_self) hf
      · rw [hg] at hg'; cases hg'
      · omega
    have ih := testWaits_append m fun x hx => h x (List.mem_cons_of_mem _ hx)
    rw [List.cons_append, testWaits, hw, ih]
    rfl

/-- A core with a flag set and its standing waits replaced. -/
def Core.waiting (k : Core) (f : BitVec 5) (v : BitVec 16) (l : List FlagWait) : Core := { k.setFlag f v with fwaits := l }

theorem flag_waiting (k : Core) (f g : BitVec 5) (v : BitVec 16) (l : List FlagWait) :
    flag (k.waiting f v l) g = if g = f then v else flag k g := flag_setFlag k f g v

theorem testFlag_of_noneServed {k : Core} {f : BitVec 5} {l m : List FlagWait} (hw : k.fwaits = l ++ m)
    (h : ∀ w ∈ l, w.flag = f → w.granted = true ∨ (flag k f).toNat < w.n.toNat) :
    k.testFlag f = k.waiting f (testWaits f m (flag k f)).2 (l ++ (testWaits f m (flag k f)).1) := by
  rw [Core.testFlag, ← flag_eq, hw, testWaits_append m h]
  rfl

/-- 08 R198: a post that serves no wait. -/
theorem post_of_noneServed {k : Core} {f : BitVec 5} {n : BitVec 16} (h : NoneServed k f (flag k f + n)) :
    k.post f n = k.setFlag f (flag k f + n) := by
  have hpost : k.post f n = (k.setFlag f (flag k f + n)).testFlag f := by rw [Core.post, ← flag_eq]; rfl
  have hflag : flag (k.setFlag f (flag k f + n)) f = flag k f + n := by rw [flag_setFlag, if_pos rfl]
  rw [hpost, testFlag_of_noneServed (k := k.setFlag f (flag k f + n)) (l := k.fwaits) (m := []) (List.append_nil _).symm
    (by rw [hflag]; exact h), hflag]
  simp [testWaits, Core.waiting, Core.setFlag]

/-! ### Changes of a core that its contexts do not see -/

theorem cx_modCc (s : State) {g : Core → Core} (h : ∀ k, (g k).ctx = k.ctx) : (s.modCc g).cx = s.cx := by
  have hcc : ((s.modCc g).cc).ctx = s.cc.ctx := by rw [State.cc_modCc, h]
  show ((s.modCc g).cc).ctx[s.cur.ctx.toNat]'_ = _
  simp only [hcc]
  rfl

theorem seenAlike_modCc (s : State) {g : Core → Core} (h : ∀ k, (g k).ctx = k.ctx) (hc : ∀ k, (g k).cmds = k.cmds)
    (ha : ∀ k, (g k).arrayQ = k.arrayQ) : SeenAlike s (s.modCc g) := by
  have hcx := cx_modCc s h
  exact ⟨congrArg Ctx.holds hcx, congrArg Ctx.gsAcqTime hcx, rfl, rfl, rfl, rfl, rfl, rfl, by rw [State.cc_modCc, hc],
    by rw [State.cc_modCc, ha]⟩

theorem seenAlike_trans {s t u : State} (h : SeenAlike s t) (k : SeenAlike t u) : SeenAlike s u :=
  ⟨k.holds.trans h.holds, k.gsAcqTime.trans h.gsAcqTime, k.cur.trans h.cur, k.reqs.trans h.reqs, k.arrivals.trans h.arrivals,
    k.nextId.trans h.nextId, k.time.trans h.time, k.mem.trans h.mem, k.cmds.trans h.cmds, k.arrayQ.trans h.arrayQ⟩

/-! ### FWAIT (08 R198) -/

/-- The wait that an FWAIT of the current slice leaves standing. -/
def State.waits (s : State) (f : FC) (n : BitVec 16) : FlagWait := ⟨s.cur.ctx, s.cur.acc, s.cur.pc, f.tgt, n, f.sub == 0, n == 0⟩

theorem standing_waits (s : State) (f : FC) (n : BitVec 16) : standing s.cur (s.waits f n) = true := by
  simp [standing, State.waits]

/-- A wait that is presented is the last to be tested. -/
theorem presentWait_eq {s : State} {f : FC} {n v : BitVec 16} {w : FlagWait} (hno : ∀ w ∈ s.cc.fwaits, standing s.cur w = false)
    (hserved : NoneServed s.cc f.tgt (flag s.cc f.tgt)) (ht : testWaits f.tgt [s.waits f n] (flag s.cc f.tgt) = ([w], v)) :
    s.presentWait f.tgt n (f.sub == 0) = s.modCc fun k => k.waiting f.tgt v (s.cc.fwaits ++ [w]) := by
  have hany : s.cc.fwaits.any (standing s.cur) = false := by
    rw [List.any_eq_false]
    exact fun w hw => by rw [hno w hw]; exact Bool.false_ne_true
  have htest : Core.testFlag { s.cc with fwaits := s.cc.fwaits ++ [s.waits f n] } f.tgt = s.cc.waiting f.tgt v (s.cc.fwaits ++ [w]) := by
    have h := testFlag_of_noneServed (k := { s.cc with fwaits := s.cc.fwaits ++ [s.waits f n] }) (l := s.cc.fwaits) rfl hserved
    have hflag : flag { s.cc with fwaits := s.cc.fwaits ++ [s.waits f n] } f.tgt = flag s.cc f.tgt := rfl
    rw [h, hflag, ht]
    rfl
  rw [State.presentWait, hany]
  exact congrArg (s.setCore s.cur.core) htest

theorem testWaits_served {f : BitVec 5} {w : FlagWait} {v : BitVec 16} (hf : w.flag = f) (hg : w.granted = (w.n == 0)) (hn : w.n.toNat ≤ v.toNat) :
    testWaits f [w] v = ([{ w with granted := true }], if w.consume then v - w.n else v) := by
  by_cases h0 : w.n = 0
  · obtain ⟨c, a, p, fl, n, co, g⟩ := w
    simp_all [testWaits]
  · have hwaits : w.granted = false := hg.trans (beq_eq_false_iff_ne.mpr h0)
    simp [testWaits, hf, hwaits, hn]

theorem testWaits_unserved {f : BitVec 5} {w : FlagWait} {v : BitVec 16} (hn : v.toNat < w.n.toNat) : testWaits f [w] v = ([w], v) := by
  simp [testWaits, hn]

/-- A core without the wait of a slice. -/
def Core.without (k : Core) (e : Env) : Core := { k with fwaits := k.fwaits.filter fun w => !standing e w }

/-- What a slice that waits for a flag does once the wait has been tested. -/
def State.fwaitEnds (u : State) (h : Head) (f : FC) : State :=
  if u.waitGranted then (u.modCc fun k => k.without u.cur).waitPassed h.slot f.path else u

theorem exec_fwait {s : State} {h : Head} (hr : opRuns s h = true) (f : FC) :
    exec (.fwait h f) s = .next ((s.presentWait f.tgt ((s.readS h f.a 1).setWidth 16) (f.sub == 0)).fwaitEnds h f) := by
  show execFwait h f s = _
  rw [execFwait, slotOp_runs hr]
  rfl

section
variable {s : State} {h : Head} {f : FC} {n : BitVec 16}
variable (hno : ∀ w ∈ s.cc.fwaits, standing s.cur w = false) (hserved : NoneServed s.cc f.tgt (flag s.cc f.tgt))
include hno hserved

/-- An FWAIT whose flag holds its count passes: its wait no longer stands, and the count is taken where it consumes. -/
theorem fwaitEnds_granted (hn : n.toNat ≤ (flag s.cc f.tgt).toNat) :
    ∃ u, (s.presentWait f.tgt n (f.sub == 0)).fwaitEnds h f = u.waitPassed h.slot f.path ∧ SeenAlike s u ∧ u.cx = s.cx ∧
      u.cc.fwaits = s.cc.fwaits ∧ (∀ g, flag u.cc g = if g = f.tgt ∧ f.sub = 0 then flag s.cc f.tgt - n else flag s.cc g) := by
  have hp := presentWait_eq (n := n) hno hserved (testWaits_served (w := s.waits f n) rfl rfl hn)
  generalize hw : ({ s.waits f n with granted := true } : FlagWait) = w at hp
  generalize hv : (if (s.waits f n).consume = true then flag s.cc f.tgt - (s.waits f n).n else flag s.cc f.tgt) = v at hp
  have hstands : standing s.cur w = true := hw ▸ standing_waits s f n
  have hgranted : (s.presentWait f.tgt n (f.sub == 0)).waitGranted = true := by
    rw [hp, State.waitGranted, State.cc_modCc, Core.waiting, List.any_eq_true]
    exact ⟨w, List.mem_append_right _ (List.mem_singleton_self w), by
      rw [State.modCc_cur, hstands, ← hw]; rfl⟩
  obtain ⟨t, ht⟩ : ∃ t, s.presentWait f.tgt n (f.sub == 0) = t := ⟨_, rfl⟩
  rw [ht] at hp hgranted ⊢
  have hcur : t.cur = s.cur := by rw [hp, State.modCc_cur]
  have hcc : (t.modCc fun k => k.without t.cur).cc = (s.cc.waiting f.tgt v (s.cc.fwaits ++ [w])).without s.cur := by
    rw [State.cc_modCc, hcur, hp, State.cc_modCc]
  have hst := seenAlike_modCc s (g := fun k => k.waiting f.tgt v (s.cc.fwaits ++ [w])) (fun _ => rfl) (fun _ => rfl) (fun _ => rfl)
  have htu := seenAlike_modCc t (g := fun k => k.without t.cur) (fun _ => rfl) (fun _ => rfl) (fun _ => rfl)
  have hcx : t.cx = s.cx := hp ▸ cx_modCc s (g := fun k => k.waiting f.tgt v (s.cc.fwaits ++ [w])) fun _ => rfl
  refine ⟨_, if_pos hgranted, seenAlike_trans (hp ▸ hst) htu, (cx_modCc t (g := fun k => k.without t.cur) fun _ => rfl).trans hcx, ?_, fun g => ?_⟩
  · rw [hcc]
    show (s.cc.fwaits ++ [w]).filter _ = _
    rw [List.filter_append, List.filter_eq_self.mpr fun x hx => by rw [hno x hx]; rfl]
    simp [hstands]
  · rw [hcc]
    refine (flag_waiting s.cc f.tgt g v _).trans ?_
    rw [← hv]
    simp only [State.waits, beq_iff_eq, ite_and]
    split
    · next hg => rw [hg]
    · rfl

/-- An FWAIT whose flag does not hold its count stands. -/
theorem fwaitEnds_stands (hn : (flag s.cc f.tgt).toNat < n.toNat) :
    (s.presentWait f.tgt n (f.sub == 0)).fwaitEnds h f =
      s.modCc fun k => k.waiting f.tgt (flag s.cc f.tgt) (s.cc.fwaits ++ [s.waits f n]) := by
  have hp := presentWait_eq (n := n) hno hserved (testWaits_unserved (w := s.waits f n) hn)
  have hwaits : (s.waits f n).granted = false := by
    have h0 : n ≠ 0 := by rintro rfl; simp at hn
    simpa [State.waits] using h0
  have hgranted : (s.presentWait f.tgt n (f.sub == 0)).waitGranted = false := by
    rw [hp, State.waitGranted, State.cc_modCc, List.any_eq_false]
    intro w hw
    obtain hw | hw := List.mem_append.mp hw
    · rw [State.modCc_cur, hno w hw]; simp
    · rw [List.mem_singleton.mp hw, hwaits]; simp
  rw [State.fwaitEnds, hgranted, if_neg Bool.false_ne_true, hp]

end

/-! ### AARM and AWAIT (08 R200) -/

theorem bytesOfNat_zeros (x n : Nat) : ∀ m : Nat, bytesOfNat x m ++ bytesOfNat 0 n = bytesOfNat (x % 256 ^ m) (m + n)
  | 0 => by simp [bytesOfNat, Nat.mod_one]
  | m + 1 => by
    have hlow : BitVec.ofNat 8 (x % 256 ^ (m + 1)) = BitVec.ofNat 8 x := by
      apply BitVec.eq_of_toNat_eq
      rw [BitVec.toNat_ofNat, BitVec.toNat_ofNat, Nat.pow_succ']
      exact Nat.mod_mul_right_mod x 256 (256 ^ m)
    have hhigh : x % 256 ^ (m + 1) / 256 = x / 256 % 256 ^ m := by rw [Nat.pow_succ', Nat.mod_mul_right_div_self]
    rw [Nat.add_right_comm, bytesOfNat, bytesOfNat, hlow, hhigh, List.cons_append, bytesOfNat_zeros (x / 256) n]
  termination_by m => m

/-- 08 R200: the bytes of an armed arrival word: TARGET and COUNT, GEN as before, AUTO. -/
theorem readByte_armWord {s : State} (hm : s.memOk = true) (k target auto a : Nat) :
    readByte (s.armWord k target auto).mem a =
      if k ≤ a ∧ a < k + 8 then BitVec.ofNat 8 (target % 2 ^ 32 / 256 ^ (a - k))
      else if k + 12 ≤ a ∧ a < k + 16 then BitVec.ofNat 8 (auto / 256 ^ (a - (k + 12)))
      else readByte s.mem a := by
  have hzeros : bytesOfNat target 4 ++ bytesOfNat 0 4 = bytesOfNat (target % 2 ^ 32) 8 := bytesOfNat_zeros target 4 4
  rw [State.armWord, hzeros, readByte_storeAt (State.storeAt_memOk hm _ _), storedByte, readByte_storeAt hm, storedByte]
  split_ifs
  all_goals grind

@[simp] theorem armWord_cores (s : State) (k target auto : Nat) : (s.armWord k target auto).cores = s.cores := by
  rw [State.armWord, State.storeAt_cores, State.storeAt_cores]

@[simp] theorem armWord_reqs (s : State) (k target auto : Nat) : (s.armWord k target auto).reqs = s.reqs := by
  rw [State.armWord, State.storeAt_reqs, State.storeAt_reqs]

@[simp] theorem armWord_dies (s : State) (k target auto : Nat) : (s.armWord k target auto).dies = s.dies := by
  rw [State.armWord, State.storeAt_dies, State.storeAt_dies]

theorem exec_aarm {s : State} {h : Head} {f : FC} (hr : opRuns s h = true) (hc : opCause (.aarm h f) s = none)
    (hnow : s.actsNow (.aarm h f) [(arrivalKey s h f, 16)] = true) :
    exec (.aarm h f) s = .next ((s.recordRace (spadProbe s (theOp s (.aarm h f)))).armWord (arrivalKey s h f) (s.readS h f.b 2).toNat
      (f.sub.extractLsb' 0 1).toNat) := by
  show execAarm h f s = _
  rw [execAarm, slotOpC_runs hr hc]
  exact congrArg _ (if_pos hnow)

/-- What an AWAIT finds to pass. -/
theorem genPassed_iff (m : Memory) (k : Nat) (old : BitVec 32) :
    genPassed m k old = true ↔
      1 ≤ (BitVec.ofNat 32 (readNat m (k + 8) 4) - old).toNat ∧ (BitVec.ofNat 32 (readNat m (k + 8) 4) - old).toNat < 2 ^ 31 := by
  simp only [genPassed, Bool.and_eq_true, bne_iff_ne, ne_eq, decide_eq_true_eq]
  refine and_congr_left fun _ => ?_
  rw [Nat.one_le_iff_ne_zero, ← BitVec.toNat_inj]
  rfl

/-- A GEN that is the operand, or lies behind it, has not passed. -/
theorem genPassed_of_behind {m : Memory} {k : Nat} {old : BitVec 32}
    (h : BitVec.ofNat 32 (readNat m (k + 8) 4) - old = 0 ∨ 2 ^ 31 ≤ (BitVec.ofNat 32 (readNat m (k + 8) 4) - old).toNat) :
    genPassed m k old = false := by
  rw [← Bool.not_eq_true, genPassed_iff]
  rintro ⟨h1, h2⟩
  obtain hd | hd := h
  · rw [hd] at h1
    exact absurd h1 (by decide)
  · omega

section
variable {s : State} {h : Head} {f : FC} (hr : opRuns s h = true) (hc : opCause (.await h f) s = none)
  (hp : isPoisoned s.poison (arrivalKey s h f) 16 = false)
include hr hc hp

theorem exec_await_passes (hfree : s.lsFree s.cur.core s.cur.ctx (.await h f) false [(arrivalKey s h f, 16)] = true)
    (hpass : genPassed s.mem (arrivalKey s h f) ((s.readS h f.b 2).setWidth 32) = true) :
    exec (.await h f) s = .next (s.waitPassed h.slot f.path) := by
  have hpass' : awaitPasses s h f = true := hpass
  show execAwait h f s = _
  rw [execAwait, slotOpC_runs hr hc]
  simp [hfree, hp, hpass']

theorem exec_await_waits (hno : s.lsFree s.cur.core s.cur.ctx (.await h f) false [(arrivalKey s h f, 16)] = false ∨
    genPassed s.mem (arrivalKey s h f) ((s.readS h f.b 2).setWidth 32) = false) :
    exec (.await h f) s =
      .next (s.request h.slot (.await h f) 0 (s.readS h f.a 1) 0 ((s.readS h f.b 2).setWidth 2048) 0 0 0 false []) := by
  have hno' : s.lsFree s.cur.core s.cur.ctx (.await h f) false [(arrivalKey s h f, 16)] = false ∨ awaitPasses s h f = false := hno
  show execAwait h f s = _
  rw [execAwait, slotOpC_runs hr hc]
  refine congrArg _ (if_pos ?_)
  rw [hp]
  obtain hno' | hno' := hno' <;> rw [hno'] <;> simp

end

theorem exec_fpost {s : State} {h : Head} {f : FC} (hr : opRuns s h = true) (hnow : s.actsNow (.fpost h f) [] = true) :
    exec (.fpost h f) s = .next (s.modCc fun k => k.post f.tgt ((s.readS h f.a 1).setWidth 16)) := by
  show execFpost h f s = _
  rw [execFpost, slotOp_runs hr]
  exact congrArg _ (if_pos hnow)

end Sys2Proof.Machine

open Sys2Proof Sys2Proof.Machine Sys2Proof.Claims

/-- 08 R200: an AARM that nothing holds back writes its arrival word but for GEN. -/
theorem aarm_answers {s : State} {h : Head} {f : FC} (hr : opRuns s h = true) (hc : opCause (.aarm h f) s = none) (hm : s.memOk = true)
    {k : Nat} (hk : arrivalKey s h f = k) (hnow : s.actsNow (.aarm h f) [(k, 16)] = true) :
    answers (.aarm h f) s fun t =>
      (∀ a, readByte t.mem a =
        if k ≤ a ∧ a < k + 8 then BitVec.ofNat 8 (((s.readS h f.b 2).toNat % 2 ^ 32) / 256 ^ (a - k))
        else if k + 12 ≤ a ∧ a < k + 16 then BitVec.ofNat 8 ((f.sub.toNat % 2) / 256 ^ (a - (k + 12)))
        else readByte s.mem a) ∧ t.cores = s.cores ∧ t.reqs = s.reqs ∧ t.dies = s.dies := by
  subst hk
  have hsub : (f.sub.extractLsb' 0 1).toNat = f.sub.toNat % 2 := by rw [toNat_bits]; simp
  have hm' : (s.recordRace (spadProbe s (theOp s (.aarm h f)))).memOk = true := by rw [State.memOk, State.recordRace_mem]; exact hm
  refine ⟨_, exec_aarm hr hc hnow, fun a => ?_, (armWord_cores ..).trans (State.recordRace_cores ..),
    (armWord_reqs ..).trans (State.recordRace_reqs ..), (armWord_dies ..).trans (State.recordRace_dies ..)⟩
  rw [readByte_armWord hm', hsub, State.recordRace_mem]

/-- Settles O30: the flags under FPOST and FWAIT, the arrival words under AARM and AWAIT. -/
theorem flagsAndArrivalWordsSynchronise : Obligations.FlagsAndArrivalWordsSynchronise := by
  unfold Obligations.FlagsAndArrivalWordsSynchronise
  intro s h f hr n v k
  refine ⟨fun hn hnow => ?fpost, fun hno hserved hle hs => ?passes, fun hno hserved hlt => ?stands, fun hc hm hnow => ?aarm,
    fun hc hp hs => ?await⟩
  case fpost =>
    have hcc : (s.modCc fun k => k.post f.tgt n) = s.modCc fun k => k.setFlag f.tgt (v + n) :=
      congrArg (s.setCore s.cur.core) (post_of_noneServed hn)
    refine ⟨_, exec_fpost hr hnow, ?_⟩
    rw [hcc]
    refine ⟨fun g => ?_, ?_, rfl, rfl, cx_modCc s (g := fun k => k.setFlag f.tgt (v + n)) fun _ => rfl⟩
    · rw [State.cc_modCc, flag_setFlag]
    · rw [State.cc_modCc]; rfl
  case passes =>
    obtain ⟨u, hu, halike, hcx, hfw, hfl⟩ := fwaitEnds_granted (h := h) hno hserved hle
    have hsu : ∀ r ∈ u.reqs, r.id < u.nextId := by rw [halike.reqs, halike.nextId]; exact hs
    obtain ⟨_, _, hrest⟩ := fencing_waitPassed hsu h.slot f.path
    have hcore : apart (u.waitPassed h.slot f.path).cc = apart u.cc := by
      rw [State.cc, (congrArg State.cur hrest.rest : _ = u.cur)]
      exact hrest.others.2 u.cur.core
    refine ⟨_, hu ▸ exec_fwait hr f, fun g => ?_, ?_, waitPassed_alike halike hcx (waitPassed_passes hsu h.slot f.path)⟩
    · exact (congrArg (fun k => flag k g) hcore : _).trans (hfl g)
    · exact (congrArg Core.fwaits hcore : _).trans hfw
  case stands =>
    have hn0 : (n == 0) = false := by
      rw [beq_eq_false_iff_ne]
      intro h0
      rw [h0] at hlt
      exact Nat.not_lt_zero _ hlt
    refine ⟨_, (exec_fwait hr f).trans (congrArg _ (fwaitEnds_stands hno hserved hlt)), fun g => ?_, ?_, rfl,
      cx_modCc s (g := fun k => k.waiting f.tgt v (s.cc.fwaits ++ [s.waits f n])) fun _ => rfl⟩
    · rw [State.cc_modCc, flag_waiting]
      split
      · next hg => rw [hg]
      · rfl
    · rw [State.cc_modCc, State.waits, hn0]; rfl
  case aarm =>
    exact aarm_answers hr hc hm rfl hnow
  case await =>
    intro d free
    refine ⟨fun hfree h1 h2 => ⟨_, exec_await_passes hr hc hp hfree ((genPassed_iff _ _ _).mpr ⟨h1, h2⟩), waitPassed_passes hs _ _⟩,
      fun hno => ⟨_, exec_await_waits hr hc hp ?_, ⟨_, request_adds .., rfl, rfl, rfl, rfl, rfl⟩, rfl, ?_⟩⟩
    · exact hno.imp id genPassed_of_behind
    · exact (request_cx ..).trans (awaiting_nil ..)
end

section
/-! Barriers and the tokens of the operand queues (08 R201, R203, R206, R207). -/
namespace Sys2Proof.Machine
open Sys2Proof.Claims

/-! ### BWAIT (08 R201) -/

theorem phase_of_word (m : Memory) (k : Nat) :
    (BitVec.ofNat 64 (readNat m k 8)).extractLsb' 48 16 = BitVec.ofNat 16 (readNat m k 8 / 2 ^ 48) := by
  have hlt := readNat_lt m k 8
  apply BitVec.eq_of_toNat_eq
  rw [toNat_bits, BitVec.toNat_ofNat, BitVec.toNat_ofNat, Nat.mod_eq_of_lt (b := 2 ^ 64) hlt]

/-- 08 R201: how far the phase of a barrier word lies past the operand when it has passed. -/
theorem barrierPassed_iff (m : Memory) (k : Nat) (p : BitVec 16) :
    barrierPassed (BitVec.ofNat 64 (readNat m k 8)) p = true ↔
      1 ≤ (BitVec.ofNat 16 (readNat m k 8 / 2 ^ 48) - p).toNat ∧ (BitVec.ofNat 16 (readNat m k 8 / 2 ^ 48) - p).toNat ≤ 32767 := by
  rw [barrierPassed, phase_of_word]
  simp only [Bool.and_eq_true, bne_iff_ne, ne_eq, decide_eq_true_eq]
  refine and_congr_left fun _ => ?_
  rw [Nat.one_le_iff_ne_zero, ← BitVec.toNat_inj]
  rfl

theorem acquireIf_mem (s : State) (i : Instr) : (s.acquireIf i).mem = s.mem := (congrArg State.mem (acquireIf_rest s i) :)
theorem acquireIf_reqs (s : State) (i : Instr) : (s.acquireIf i).reqs = s.reqs := (congrArg State.reqs (acquireIf_rest s i) :)

theorem recordRace_cx (s : State) (p : Probe) : (s.recordRace p).cx = s.cx := by
  simp only [State.cx, State.ctx, State.core, State.recordRace_cores, State.recordRace_cur]

/-- A phase that is the operand, or lies behind it, has not passed. -/
theorem barrierPassed_of_behind {m : Memory} {k : Nat} {p : BitVec 16}
    (h : BitVec.ofNat 16 (readNat m k 8 / 2 ^ 48) - p = 0 ∨ 32767 < (BitVec.ofNat 16 (readNat m k 8 / 2 ^ 48) - p).toNat) :
    barrierPassed (BitVec.ofNat 64 (readNat m k 8)) p = false := by
  rw [← Bool.not_eq_true, barrierPassed_iff]
  rintro ⟨h1, h2⟩
  obtain hd | hd := h
  · rw [hd] at h1
    exact absurd h1 (by decide)
  · omega

section
variable {s : State} {h : Head} {f : FM} (hr : opRuns s h = true) (hc : opCause (.bwait h f) s = none)
  (hp : isPoisoned s.poison (spadProbe s (theOp s (.bwait h f))).key 8 = false)
include hr hc hp

theorem exec_bwait_passes (hs : f.space.toNat ≤ 1)
    (hfree : s.lsFree s.cur.core s.cur.ctx (.bwait h f) false [((spadProbe s (theOp s (.bwait h f))).key, 8)] = true)
    (hpass : bwaitPasses s (.bwait h f) (theOp s (.bwait h f)) = true) :
    exec (.bwait h f) s = .next ((s.recordRace (spadProbe s (theOp s (.bwait h f)))).acquireIf (.bwait h f)) := by
  have hfar : (f.space == 2) = false := beq_eq_false_iff_ne.mpr fun he => by rw [he] at hs; exact absurd hs (by decide)
  show execBwait h f s = _
  rw [execBwait, slotOpC_runs hr hc]
  simp only [hfree, hp, hpass, hfar, Bool.not_true, Bool.or_true, Bool.or_self, Bool.false_eq_true, if_false]

theorem exec_bwait_waits
    (hno : s.lsFree s.cur.core s.cur.ctx (.bwait h f) false [((spadProbe s (theOp s (.bwait h f))).key, 8)] = false ∨
      bwaitPasses s (.bwait h f) (theOp s (.bwait h f)) = false) :
    exec (.bwait h f) s = .next (s.request h.slot (.bwait h f) 0 (theOp s (.bwait h f)).ea f.space ((s.readS h f.data 1).setWidth 2048)
      0 0 0 false []) := by
  show execBwait h f s = _
  rw [execBwait, slotOpC_runs hr hc]
  refine congrArg _ (if_pos ?_)
  rw [hp]
  obtain hno | hno := hno <;> rw [hno] <;> simp

end

/-! ### HBAR (08 R203) -/

/-- An arrival at a phase of a group: GROUP, phase, the party count and how many have arrived. -/
abbrev Party := BitVec 3 × Nat × Nat × Nat

/-- The entry of a phase of a group. -/
def Party.at (g : BitVec 3) (ph : Nat) (e : Party) : Bool := e.1 == g && e.2.1 == ph

/-- Entries with one more arrival at a phase: its own entry counts it, or a new one begins. -/
def tally (old : Option Party) (g : BitVec 3) (ph n : Nat) (l : List Party) : List Party :=
  match old with
  | some _ => l.map fun e => if Party.at g ph e then (e.1, e.2.1, e.2.2.1, e.2.2.2 + 1) else e
  | none => l ++ [(g, ph, n, 1)]

/-- 08 R203: a stream with one more arrival at a phase. -/
def Stream.tallied (y : Stream) (old : Option Party) (g : BitVec 3) (ph n : Nat) : Stream :=
  { y with hbar := tally old g ph n y.hbar }

/-- A party count that cannot be: none, more than the row, or another than the phase has. -/
def badParties (l : List Party) (g : BitVec 3) (ph n row : Nat) : Bool :=
  n == 0 || decide (row < n) || (match l.find? (Party.at g ph) with | some e => e.2.2.1 != n | none => false)

/-- The phase that a context reaches next at a group. -/
def Ctx.nextPhase (c : Ctx) (g : BitVec 3) : Nat := c.hbarPhase[g.toNat]'(g.isLt)

theorem nextPhase_eq (c : Ctx) (g : BitVec 3) : c.hbarPhase.getD g.toNat 0 = c.nextPhase g := by
  simp [Ctx.nextPhase, Vector.getD, g.isLt]

theorem arrive_eq (s : State) (c : CoreRef) (x : BitVec 2) (id : Nat) (w : Word) :
    s.arrive c x id w =
      if badParties (s.stream (s.ctx c x).stream).hbar (hbarGroup w) ((s.ctx c x).nextPhase (hbarGroup w)) (hbarParties w)
          (s.ctx c x).rowsize.toNat
      then s.killStream (s.ctx c x).stream 5 (c, x)
      else (s.modStream (s.ctx c x).stream fun y => y.tallied
          ((s.stream (s.ctx c x).stream).hbar.find? (Party.at (hbarGroup w) ((s.ctx c x).nextPhase (hbarGroup w))))
          (hbarGroup w) ((s.ctx c x).nextPhase (hbarGroup w)) (hbarParties w)).modCtx c x
        fun k => k.arrived id (hbarGroup w) ((s.ctx c x).nextPhase (hbarGroup w)) := rfl

theorem at_counts (g : BitVec 3) (ph : Nat) (e : Party) :
    Party.at g ph (if Party.at g ph e then (e.1, e.2.1, e.2.2.1, e.2.2.2 + 1) else e) = Party.at g ph e := by
  split <;> rfl

section
variable {l : List Party} {g : BitVec 3} {ph m n row : Nat} {e : Option Nat}
  (hl : ((l.find? (Party.at g ph)).map fun e => e.2.2) = e.map fun k => (m, k))
include hl

/-- 08 R203: one more party has arrived at the phase. -/
theorem find_tally (hm : e ≠ none → m = n) :
    (((tally (l.find? (Party.at g ph)) g ph n l).find? (Party.at g ph)).map fun e => e.2.2) = some (n, e.getD 0 + 1) := by
  cases hf : l.find? (Party.at g ph) with
  | none =>
    rw [hf] at hl
    obtain rfl : e = none := Option.map_eq_none_iff.mp hl.symm
    have hself : Party.at g ph (g, ph, n, 1) = true := by simp [Party.at]
    simp [tally, List.find?_append, hf, hself]
  | some p =>
    rw [hf] at hl
    obtain ⟨k, rfl, hk⟩ := Option.map_eq_some_iff.mp hl.symm
    have hp : Party.at g ph p = true := List.find?_some hf
    have hfun : Party.at g ph ∘ (fun e => if Party.at g ph e then (e.1, e.2.1, e.2.2.1, e.2.2.2 + 1) else e) = Party.at g ph :=
      funext (at_counts g ph)
    rw [tally, List.find?_map, hfun, hf, Option.map_some, Option.map_some, if_pos hp]
    exact congrArg some (Prod.ext ((congrArg Prod.fst hk).symm.trans (hm (Option.some_ne_none k)))
      (congrArg (·.2 + 1) hk.symm))

theorem badParties_iff : badParties l g ph n row = true ↔ n = 0 ∨ row < n ∨ (e ≠ none ∧ m ≠ n) := by
  rw [badParties]
  cases hf : l.find? (Party.at g ph) with
  | none =>
    rw [hf] at hl
    obtain rfl : e = none := Option.map_eq_none_iff.mp hl.symm
    simp
  | some p =>
    rw [hf] at hl
    obtain ⟨k, rfl, hk⟩ := Option.map_eq_some_iff.mp hl.symm
    have hcount : p.2.2.1 = m := congrArg Prod.fst hk.symm
    simp [hcount, or_assoc]

end

/-- The slice that issues an HBAR stands at its arrival. -/
def Ctx.arriving (c : Ctx) (acc : Bool) (id : Nat) : Ctx :=
  if acc then { c with waitA := .arrive id } else { c with waitX := .arrive id }

section
variable (c : Ctx) (acc : Bool) (id : Nat)
@[simp] theorem arriving_stream : (c.arriving acc id).stream = c.stream := by cases acc <;> rfl
@[simp] theorem arriving_rowsize : (c.arriving acc id).rowsize = c.rowsize := by cases acc <;> rfl
@[simp] theorem arriving_nextPhase (g : BitVec 3) : (c.arriving acc id).nextPhase g = c.nextPhase g := by cases acc <;> rfl
end

theorem waitOf_arriving (c : Ctx) (acc : Bool) (id : Nat) :
    (if acc then (c.arriving acc id).waitA else (c.arriving acc id).waitX) = .arrive id := by
  cases acc <;> rfl

/-- The state whose slice stands at its arrival. -/
def State.standing (s : State) : State := { s.modCx (Ctx.arriving · s.cur.acc s.nextId) with nextId := s.nextId + 1 }

theorem standing_ctx (s : State) : s.standing.ctx s.cur.core s.cur.ctx = s.cx.arriving s.cur.acc s.nextId :=
  State.cx_modCx s (Ctx.arriving · s.cur.acc s.nextId)

theorem standing_mem (s : State) : s.standing.mem = s.mem := rfl

theorem standing_stream (s : State) (k : Nat) : s.standing.stream k = s.stream k := stream_of_streams rfl k

/-- What an HBAR changes of its context when it has been counted. -/
theorem arrived_arriving (c : Ctx) (acc : Bool) (id : Nat) (g : BitVec 3) (ph : Nat) :
    (if acc then ((c.arriving acc id).arrived id g ph).waitA else ((c.arriving acc id).arrived id g ph).waitX) = .hbar g ph ∧
    ((c.arriving acc id).arrived id g ph).hbarPhase.getD g.toNat 0 = ph + 1 ∧
    ((c.arriving acc id).arrived id g ph).acqTime = c.acqTime ∧ ((c.arriving acc id).arrived id g ph).s = c.s ∧
    ((c.arriving acc id).arrived id g ph).pend = c.pend := by
  have hset : (c.hbarPhase.set g.toNat (ph + 1) g.isLt).getD g.toNat 0 = ph + 1 := by simp [Vector.getD, g.isLt]
  cases acc <;> exact ⟨by simp [Ctx.arriving, Ctx.arrived], hset, rfl, rfl, rfl⟩

section
variable {s : State} {h : Head} {f : F3} (hr : opRuns s h = true)
include hr

theorem exec_hbar_held (hnow : s.actsNow (.hbar h f) [] = false) :
    exec (.hbar h f) s = .next ((s.modCx (Ctx.arriving · s.cur.acc s.nextId)).request h.slot (.hbar h f) 0 0 0
      ((s.readS h f.a 1).setWidth 2048) 0 0 0 true []) := by
  show execHbar h f s = _
  rw [execHbar, slotOp_runs hr]
  exact congrArg _ (if_neg (by rw [hnow]; exact Bool.false_ne_true))

section
variable (hnow : s.actsNow (.hbar h f) [] = true) {g : BitVec 3} {ph n : Nat} (hg : hbarGroup (s.readS h f.a 1) = g)
  (hn : hbarParties (s.readS h f.a 1) = n) (hph : s.cx.nextPhase g = ph)
include hnow hg hn hph

/-- 08 R203: an arrival that nothing earlier holds back is counted, or kills its stream. -/
theorem exec_hbar_now :
    exec (.hbar h f) s = .next (
      if badParties (s.stream s.cx.stream).hbar g ph n s.cx.rowsize.toNat then
        s.standing.killStream s.cx.stream 5 (s.cur.core, s.cur.ctx)
      else (s.standing.modStream s.cx.stream fun y => y.tallied ((s.stream s.cx.stream).hbar.find? (Party.at g ph)) g ph n).modCx
        fun c => c.arrived s.nextId g ph) := by
  subst hg hn hph
  show execHbar h f s = _
  rw [execHbar, slotOp_runs hr]
  refine congrArg _ ((if_pos hnow).trans ?_)
  show s.standing.arrive s.cur.core s.cur.ctx s.nextId (s.readS h f.a 1) = _
  rw [arrive_eq, standing_ctx, standing_stream]
  simp only [arriving_stream, arriving_rowsize, arriving_nextPhase]
  rfl

/-- 08 R203: what the counted arrival leaves. -/
theorem hbar_counts (hany : (s.streams.any fun x => x.key == s.cx.stream) = true)
    (hfit : badParties (s.stream s.cx.stream).hbar g ph n s.cx.rowsize.toNat = false) :
    answers (.hbar h f) s fun t =>
      t.cx = (s.cx.arriving s.cur.acc s.nextId).arrived s.nextId g ph ∧ t.cur = s.cur ∧
      t.stream s.cx.stream = (s.stream s.cx.stream).tallied ((s.stream s.cx.stream).hbar.find? (Party.at g ph)) g ph n ∧
      t.mem = s.mem ∧ t.reqs = s.reqs := by
  refine ⟨_, (exec_hbar_now hr hnow hg hn hph).trans (congrArg _ (if_neg (by rw [hfit]; exact Bool.false_ne_true))), ?_, rfl, ?_, rfl, rfl⟩
  · rw [State.cx_modCx]
    exact congrArg (Ctx.arrived · s.nextId g ph) (standing_ctx s)
  · exact (stream_of_streams (State.modCx_streams _ _) _).trans (stream_modStream (s := s.standing)
      (f := fun y => y.tallied ((s.stream s.cx.stream).hbar.find? (Party.at g ph)) g ph n) (fun _ => rfl) hany)

end
end

/-! ### A slice that stands at a barrier (08 R203, 10 R267) -/

section
variable {s : State} {g : BitVec 3} {ph : Nat} (hx : s.cx.waitX = .hbar g ph) (ha : s.cx.waitA = .none)
include hx ha

theorem passBarrier_goes (hd : s.phaseDone s.cx.stream g ph = true) :
    (s.passBarrier s.cur.core s.cur.ctx).cx = { s.cx with waitX := .none, acqTime := max s.cx.acqTime s.time } := by
  have hx' : (s.ctx s.cur.core s.cur.ctx).waitX = .hbar g ph := hx
  have ha' : (s.ctx s.cur.core s.cur.ctx).waitA = .none := ha
  have hd' : s.phaseDone (s.ctx s.cur.core s.cur.ctx).stream g ph = true := hd
  rw [State.passBarrier, if_pos (by simp [hx', hd'])]
  refine (State.ctx_modCtx s s.cur.core s.cur.ctx _).trans ?_
  simp only [hx', ha', hd', if_true]
  rw [← ha]
  rfl

theorem passBarrier_stays (hd : s.phaseDone s.cx.stream g ph = false) : s.passBarrier s.cur.core s.cur.ctx = s := by
  have hx' : (s.ctx s.cur.core s.cur.ctx).waitX = .hbar g ph := hx
  have ha' : (s.ctx s.cur.core s.cur.ctx).waitA = .none := ha
  have hd' : s.phaseDone (s.ctx s.cur.core s.cur.ctx).stream g ph = false := hd
  simp [State.passBarrier, hx', ha', hd']

end

/-! ### QDRAIN (08 R207) -/

/-- 08 R207: entries that have landed and are no tokens, up to and with the first token. -/
theorem drainCount_token {l : List QEntry} {x : QEntry} (r : List QEntry) (hl : ∀ y ∈ l, y.landed = true ∧ y.token = false)
    (hx : x.landed = true) (ht : x.token = true) : drainCount (l ++ x :: r) = (l.length + 1, true) := by
  induction l with
  | nil => simp [drainCount, hx, ht]
  | cons y l ih =>
    obtain ⟨hy, hyt⟩ := hl y List.mem_cons_self
    rw [List.cons_append, drainCount, ih fun z hz => hl z (List.mem_cons_of_mem y hz), hy, hyt]
    rfl

end Sys2Proof.Machine

open Sys2Proof Sys2Proof.Machine Sys2Proof.Claims

/-- Settles O32: BWAIT, HBAR and the slice that stands at it, QEOS and QDRAIN. -/
theorem barriersPassAndTokensMark : Obligations.BarriersPassAndTokensMark := by
  unfold Obligations.BarriersPassAndTokensMark
  intro s h hr
  refine ⟨fun f hs hc => ?bwait, fun f e m => ?hbar, fun f hnow => ?held, fun g ph hx ha => ⟨fun hd => ?goes, fun hd => ?stays⟩,
    fun f => ?qeos, fun f l x r => ?qdrain⟩
  case bwait =>
    intro k d free hp
    refine ⟨fun hfree h1 h2 => ⟨_, exec_bwait_passes hr hc hp hs hfree ((barrierPassed_iff ..).mpr ⟨h1, h2⟩), ?mem, ?reqs, ?cx⟩,
      fun hno => ⟨_, exec_bwait_waits hr hc hp ?waits, ⟨_, request_adds .., rfl, rfl, rfl, rfl, rfl, rfl⟩, rfl,
        (request_cx ..).trans (awaiting_nil ..)⟩⟩
    case mem => rw [acquireIf_mem, State.recordRace_mem]
    case reqs => rw [acquireIf_reqs, State.recordRace_reqs]
    case cx =>
      rw [acquireIf_cx, acquired, recordRace_cx, State.recordRace_time]
      split <;> rfl
    case waits =>
      exact hno.imp id barrierPassed_of_behind
  case hbar =>
    intro g n st ph mine hany hnow hl
    have hph := (nextPhase_eq s.cx g).symm
    refine ⟨fun h1 h2 h3 => ?counts, fun hbad hk => ?kills⟩
    case counts =>
      have hfit : badParties st.hbar g ph n s.cx.rowsize.toNat = false := by
        rw [← Bool.not_eq_true, badParties_iff hl]
        rintro (h0 | hrow | ⟨he, hne⟩)
        · exact absurd (h0 ▸ h1) (by decide)
        · exact absurd h2 (Nat.not_le.mpr hrow)
        · exact hne (h3 he)
      obtain ⟨t, hexec, hcx, hcur, hst, hmem, hreqs⟩ := hbar_counts hr hnow (g := g) (n := n) rfl rfl hph hany hfit
      obtain ⟨hwait, hphase, hacq, hs, hpend⟩ := arrived_arriving s.cx s.cur.acc s.nextId g ph
      refine ⟨t, hexec, ?_, ?_, ?_⟩
      · rw [waitOf, hcx, hcur]
        exact hwait
      · rw [hst]
        exact find_tally hl h3
      · rw [hcx]
        exact ⟨hphase, hacq, hs, hpend, hmem, hreqs⟩
    case kills =>
      refine ⟨_, (exec_hbar_now hr hnow (g := g) (n := n) rfl rfl hph).trans (congrArg _ (if_pos ((badParties_iff hl).mpr hbad))), ?_,
        (State.KeepsData.of_mem (standing_mem s)).trans (State.killStream_keeps _ _ _ _)⟩
      rw [killStream_stream (s := s.standing) hany ((standing_stream s _).symm ▸ hk)]
      rfl
  case held =>
    refine ⟨_, exec_hbar_held hr hnow, _, request_adds .., rfl, rfl, rfl, ?_, rfl, ?_⟩
    · rw [waitOf, request_cx, awaiting_nil, State.cx_modCx]
      exact waitOf_arriving s.cx s.cur.acc s.nextId
    · rw [request_cx, awaiting_nil, State.cx_modCx]
      cases s.cur.acc <;> exact ⟨rfl, rfl⟩
  case goes => exact passBarrier_goes hx ha hd
  case stays => exact passBarrier_stays hx ha hd
  case qeos =>
    refine ⟨_, show execQeos h f s = _ from slotOp_runs hr, fun q => ?_, ?_, rfl, rfl, ?_⟩
    all_goals rw [State.cx_result, reserve_cx]
    · exact push_ents s.cx _ _ q
    · rfl
    · rfl
  case qdrain =>
    intro n hq hl hx htok
    refine ⟨_, show execQdrain h f s = _ from slotOp_runs hr, fun q => ?_, rfl⟩
    have hn : (s.cx.q.getD n.toNat OpQueue.empty) = s.cx.q[n.toNat]'(n.isLt) := by simp [Vector.getD, n.isLt]
    rw [hn] at hq
    show (s.iss.pop.set n.toNat (max (drainCount (s.cx.q[n.toNat]'(n.isLt)).ents).1 (s.iss.pop[n.toNat]'(n.isLt))) n.isLt)[q] = _
    rw [hq, drainCount_token r hl hx htok]
    by_cases he : n.toNat = q.val
    · simp [← he]
    · simp [he, Ne.symm he]
end

section
/-! SUPPORT. Requests at their MTU (18 R393, R399, 10 R266): what an access leaves besides the bytes it writes, and requests by
their numbers after it. -/
namespace Sys2Proof.Machine
open Sys2Proof.Claims

/-! ### What walks, counts of errors and race records leave -/

/-- Only the walks of the TLBs, the counts of errors and the race detector have changed anything. -/
structure Noted (s t : State) : Prop where
  rest : ({ t with dies := s.dies, races := s.races } : State) = s
  dies : ∀ d, OnlySeen (s.die d) (t.die d)

namespace Noted

theorem refl (s : State) : Noted s s := ⟨rfl, fun _ => rfl⟩

theorem trans {s t u : State} (h : Noted s t) (k : Noted t u) : Noted s u :=
  ⟨(congrArg (fun v : State => ({ v with dies := s.dies, races := s.races } : State)) k.rest :).trans h.rest,
    fun d => onlySeen_trans (h.dies d) (k.dies d)⟩

variable {s t : State} (h : Noted s t)
include h

theorem mem : t.mem = s.mem := (congrArg State.mem h.rest :)
theorem poison : t.poison = s.poison := (congrArg State.poison h.rest :)
theorem reqs : t.reqs = s.reqs := (congrArg State.reqs h.rest :)
theorem cores : t.cores = s.cores := (congrArg State.cores h.rest :)
theorem time : t.time = s.time := (congrArg State.time h.rest :)
theorem coord : t.coord = s.coord := (congrArg State.coord h.rest :)
theorem nextId : t.nextId = s.nextId := (congrArg State.nextId h.rest :)
theorem free : t.free = s.free := (congrArg State.free h.rest :)
theorem ctx (c : CoreRef) (x : BitVec 2) : t.ctx c x = s.ctx c x := by simp only [State.ctx, State.core, h.cores]
theorem req? (id : Nat) : t.req? id = s.req? id := req?_of_reqs h.reqs id
theorem memOk (hm : s.memOk = true) : t.memOk = true := by rwa [State.memOk, h.mem]
theorem tagBase (d : BitVec 2) : (t.die d).tagBase = (s.die d).tagBase := (congrArg Die.tagBase (h.dies d) :)
theorem buckets (d : BitVec 2) : (t.die d).buckets = (s.die d).buckets := (congrArg Die.buckets (h.dies d) :)
theorem resvs (d : BitVec 2) : (t.die d).resvs = (s.die d).resvs := (congrArg Die.resvs (h.dies d) :)
theorem breachBits : t.breachBits = s.breachBits := by simp only [State.breachBits, State.freeVal, h.free]

end Noted

theorem noted_of_dies {s t : State} (h : ({ t with dies := s.dies } : State) = s) (hd : ∀ d, OnlySeen (s.die d) (t.die d)) : Noted s t :=
  ⟨(congrArg (fun v : State => ({ v with races := s.races } : State)) h :), hd⟩

theorem setDie_onlySeen (s : State) (d : BitVec 2) (x : Die) (hx : OnlySeen (s.die d) x) (f : BitVec 2) :
    OnlySeen (s.die f) ((s.setDie d x).die f) := by
  by_cases hf : f = d
  · subst hf; rwa [State.die_setDie]
  · rw [State.die_setDie_ne _ _ hf]; rfl

theorem fillTlb_onlySeen (s : State) (d : BitVec 2) (asid : BitVec 12) (o : Nat) (f : BitVec 2) :
    OnlySeen (s.die f) ((s.fillTlb d asid o).die f) := by
  simp only [State.fillTlb]
  split
  · rfl
  split
  · split
    · exact onlySeen_trans (setDie_onlySeen s d _ (by rfl) f) (count_onlySeen _ d 23 1 f)
    · rfl
  · rfl

theorem noted_fillTlb (s : State) (d : BitVec 2) (asid : BitVec 12) (o : Nat) : Noted s (s.fillTlb d asid o) :=
  noted_of_dies (fillTlb_rest s d asid o) (fillTlb_onlySeen s d asid o)

theorem noted_countErr (s : State) (d : BitVec 2) (a : BitVec 12) (i n : Nat) : Noted s (s.countErr d a i n) :=
  noted_of_dies (countErr_rest s d a i n) (countErr_onlySeen s d a i n)

theorem noted_recordRace (s : State) (p : Probe) : Noted s (s.recordRace p) := ⟨rfl, fun _ => rfl⟩

theorem noted_foldl {α : Type} {f : State → α → State} (h : ∀ t a, Noted t (f t a)) (l : List α) (s : State) : Noted s (l.foldl f s) :=
  foldl_keeps (p := Noted s) (fun t a ht => ht.trans (h t a)) l s (.refl s)

theorem noted_fillRange (s : State) (asid : BitVec 12) (va : Word) (n : Nat) : Noted s (s.fillRange asid va n) := by
  refine noted_foldl (fun t i => ?_) _ s
  dsimp only
  split
  · exact noted_fillTlb _ _ _ _
  · exact .refl t

theorem noted_recordIn (s : State) (r : Req) (l : List (Nat × Nat)) : Noted s (s.recordIn r l) :=
  noted_foldl (fun t _ => noted_recordRace t _) l s

theorem noted_countSubst (s : State) (asid : BitVec 12) (l : List (Place × Nat)) : Noted s (s.countSubst asid l) := by
  refine noted_foldl (fun t p => ?_) l s
  split
  · split
    · exact noted_countErr _ _ _ _ _
    · exact .refl t
  · exact .refl t

/-! ### The race detector before an access -/

theorem raceIn_dies (s : State) (v : Vector Die 4) (r : Req) : ∀ l, ({ s with dies := v } : State).raceIn r l = s.raceIn r l
  | [] => rfl
  | x :: l => by
    rw [State.raceIn, State.raceIn, raceIn_dies s v r l]
    rfl

theorem raceIn_of_dies {s t : State} (h : ({ t with dies := s.dies } : State) = s) (r : Req) (l : List (Nat × Nat)) :
    t.raceIn r l = s.raceIn r l :=
  (raceIn_dies t s.dies r l).symm.trans (congrArg (State.raceIn · r l) h)

/-- 10 R268: an access of which the detector reports nothing leaves its records and goes on. -/
theorem checked_passes {s : State} {r : Req} {l : List (Nat × Nat)} (h : s.raceIn r l = none) (k : State → State) :
    s.checked r l k = k (s.recordIn r l) := by
  rw [State.checked, h]

/-! ### A request that has been performed -/

/-- Requests that keep their numbers are found under them. -/
theorem req?_map {s t : State} {g : Req → Req} (h : t.reqs = s.reqs.map g) (hg : ∀ q, (g q).id = q.id) (id : Nat) :
    t.req? id = (s.req? id).map g := by
  have hp : (fun q : Req => q.id == id) ∘ g = fun q => q.id == id := funext fun q => congrArg (· == id) (hg q)
  rw [State.req?, h, List.find?_map, hp, State.req?]

section
variable {s : State} {id : Nat} {f : Req → Req} (hf : ∀ q, (f q).id = q.id)
include hf

theorem id_modified (q : Req) : (if q.id == id then f q else q).id = q.id := by
  split
  · exact hf q
  · rfl

theorem req?_modReq {r : Req} (h : s.req? id = some r) : (s.modReq id f).req? id = some (f r) := by
  have hid : (r.id == id) = true := beq_iff_eq.mpr (req?_id h)
  rw [req?_map (s := s) (t := s.modReq id f) rfl (id_modified hf), h, Option.map_some, if_pos hid]

end

theorem req?_dropReq_ne (s : State) {id x : Nat} (hx : x ≠ id) : (s.dropReq id).req? x = s.req? x := by
  rw [State.req?, State.dropReq, List.find?_filter]
  refine congrArg (fun p => s.reqs.find? p) (funext fun q => ?_)
  by_cases hq : q.id = x
  · simp [hq, hx]
  · simp [hq]

theorem performed_mem (s : State) (r : Req) (v : Vec) (w : Word) : (s.performed r v w).mem = s.mem := by
  simp only [State.performed, State.reqAcquired]
  split
  · split <;> rfl
  · rfl

theorem performed_dies (s : State) (r : Req) (v : Vec) (w : Word) : (s.performed r v w).dies = s.dies := by
  simp only [State.performed, State.reqAcquired]
  split
  · split <;> rfl
  · rfl

theorem performed_cores {s : State} {r : Req} (hd : r.dests ≠ []) (v : Vec) (w : Word) : (s.performed r v w).cores = s.cores := by
  have hne : r.dests.isEmpty = false := by rwa [← Bool.not_eq_true, List.isEmpty_iff]
  rw [State.performed, hne]
  rfl

section
variable {s u : State} {r q : Req} {id : Nat} (hq : q.id = id)
include hq

/-- A request without a destination is done. -/
theorem performed_done (hd : q.dests = []) (v : Vec) (w : Word) : (u.performed q v w).req? id = none := by
  rw [State.performed, hd, hq]
  exact req?_dropReq _ id

theorem performed_other (hd : q.dests = []) (v : Vec) (w : Word) {x : Nat} (hx : x ≠ id) : (u.performed q v w).req? x = u.req? x := by
  rw [State.performed, hd, hq]
  refine (req?_dropReq_ne _ hx).trans (req?_of_reqs ?_ x)
  rw [State.reqAcquired]
  split <;> rfl

/-- The results of one with a destination wait to land. -/
theorem performed_waits (hr : s.req? id = some r) {ph : ReqPhase} (hu : u.req? id = some { r with phase := ph }) (hd : q.dests ≠ [])
    (v : Vec) (w : Word) : Performed s (u.performed q v w) id v w := by
  have hne : q.dests.isEmpty = false := by rwa [← Bool.not_eq_true, List.isEmpty_iff]
  refine ⟨r, _, hr, ?_, rfl⟩
  rw [State.performed, hne, hq]
  have hmod := req?_modReq (f := fun q => { q with phase := .performed, res := v, res2 := w, replay := false }) (fun _ => rfl) hu
  exact hmod

end

end Sys2Proof.Machine
end

section
/-! Accesses of device and host memory (08 R183, R196, R197, R201, 18 R393). -/
namespace Sys2Proof.Machine
open Sys2Proof.Claims

/-! ### A request reaches its bytes -/

/-- 18 R399: the walk of an access has filled the TLBs. -/
def State.walked (s : State) (r : Req) : State := s.fillRange r.asid (s.routed r.core.die r.va) (reqBytes r)

theorem noted_walked (s : State) (r : Req) : Noted s (s.walked r) := noted_fillRange s _ _ _

theorem raceIn_walked (s : State) (r q : Req) (l : List (Nat × Nat)) : (s.walked r).raceIn q l = s.raceIn q l :=
  raceIn_of_dies (fillRange_rest s _ _ _) q l

/-- The loads, stores and atomics of memory, which the MTU performs. -/
def isAccess (i : Instr) : Bool := plainLoad i || plainStore i || Claims.atomicOp i || isTagOp i

theorem exec_access {s : State} {id : Nat} {r : Req} (hr : s.req? id = some r) (hd : s.reqReady r = true) (hs : r.space = 2)
    (hi : isAccess r.instr = true) : exec (.deviceMemoryRequest id) s = .next (s.deviceAccess r) := by
  show execDeviceMemoryRequest id s = _
  simp only [execDeviceMemoryRequest, hr, hd, hs, Bool.not_true, Bool.false_eq_true, if_false]
  split
  case h_10 => rfl
  all_goals
    rename_i h
    rw [h] at hi
    cases hi

/-- A plain access is no tag operation. -/
theorem not_tagOp {i : Instr} (h : plainLoad i = true ∨ plainStore i = true ∨ Claims.atomicOp i = true) : isTagOp i = false := by
  unfold isTagOp
  split
  case h_9 => rfl
  all_goals obtain h | h | h := h <;> cases h

theorem not_atomicOp {i : Instr} (h : plainLoad i = true ∨ plainStore i = true) : Claims.atomicOp i = false := by
  unfold Claims.atomicOp
  split
  case h_4 => rfl
  all_goals obtain h | h := h <;> cases h

theorem spanWrite_one (s : State) (p : Place) {n : Nat} {b : List Byte} (hb : b.length = n) : s.spanWrite [(p, n)] b = s.storeAt p.key b := by
  rw [State.spanWrite, State.spanWrite, List.take_of_length_le hb.le]

/-- 08 R183: the bytes of a store. -/
theorem storeBytes_reqBytes {r : Req} (hi : plainStore r.instr = true) : storeBytes r.instr r.data = bytesOfNat r.data.toNat (reqBytes r) := by
  unfold plainStore at hi
  split at hi
  case h_6 => cases hi
  all_goals
    rename_i hn
    simp only [storeBytes, reqBytes, hn]

section
variable {s : State} {r : Req} {p : Place} (h : Reaches s r p)
include h

theorem deviceAccess_plain (ht : isTagOp r.instr = false) (hp : p.isDev = true ∨ Claims.atomicOp r.instr = false) :
    s.deviceAccess r = (s.walked r).performPlain r [(p, reqBytes r)] := by
  obtain ⟨-, hlocal, hrange, -, -⟩ := h
  obtain ⟨d, a, l, rfl⟩ | ⟨a, rfl⟩ := hlocal
  · simp only [State.deviceAccess, hrange, ht]
    rfl
  · have hno : Claims.atomicOp r.instr = false := hp.resolve_left Bool.false_ne_true
    simp only [State.deviceAccess, hrange, ht, Bool.false_eq_true, if_false]
    split
    case h_4 => rfl
    all_goals
      rename_i hi
      rw [hi] at hno
      cases hno

theorem race_none : (s.walked r).raceIn r (racedPieces [(p, reqBytes r)]) = none := by
  obtain ⟨-, -, -, hrace, -⟩ := h
  exact (raceIn_walked s r r _).trans hrace

/-- 18 R411: bytes without poison read as they stand. -/
theorem spanRead_clean {t : State} (ht : Noted s t) : t.spanRead [(p, reqBytes r)] = readBytes s.mem p.key (reqBytes r) := by
  obtain ⟨-, hlocal, -, -, hclean⟩ := h
  rw [← ht.poison] at hclean
  obtain ⟨d, a, l, rfl⟩ | ⟨a, rfl⟩ := hlocal
  · simp [State.spanRead, State.readDev, hclean, ht.mem]
  · simp [State.spanRead, State.readDev, ht.mem]

theorem poisonAt_clean {t : State} (ht : Noted s t) : t.poisonAt p (reqBytes r) = false := by
  obtain ⟨-, hlocal, -, -, hclean⟩ := h
  rw [← ht.poison] at hclean
  obtain ⟨d, a, l, rfl⟩ | ⟨a, rfl⟩ := hlocal <;> simp [State.poisonAt, hclean]

theorem spanPoisonVa_clean {t : State} (ht : Noted s t) (va : Word) : t.spanPoisonVa [(p, reqBytes r)] va = none := by
  rw [State.spanPoisonVa, poisonAt_clean h ht]
  rfl

/-- 08 R183: a load reads its bytes; its result waits to land. -/
theorem deviceAccess_load (hi : plainLoad r.instr = true) :
    ∃ u, Noted s u ∧ s.deviceAccess r = u.performed r (loadValue r.instr (readNat s.mem p.key (reqBytes r))) 0 := by
  have hplain := deviceAccess_plain h (not_tagOp (.inl hi)) (.inr (not_atomicOp (.inl hi)))
  refine ⟨_, ((noted_walked s r).trans (noted_recordIn _ r (racedPieces [(p, reqBytes r)]))).trans
    (noted_countSubst _ r.asid [(p, reqBytes r)]), ?_⟩
  simp only [hplain, State.performPlain, spanRead_clean h (noted_walked s r), spanPoisonVa_clean h (noted_walked s r),
    checked_passes (race_none h)]
  split
  case h_10 => rfl
  all_goals
    rename_i hn
    rw [hn] at hi
    cases hi

/-- 08 R183: a store writes its bytes. -/
theorem deviceAccess_store (hi : plainStore r.instr = true) :
    ∃ u, Noted s u ∧ s.deviceAccess r = (u.storeAt p.key (bytesOfNat r.data.toNat (reqBytes r))).performed r 0 0 := by
  have hplain := deviceAccess_plain h (not_tagOp (.inr (.inl hi))) (.inr (not_atomicOp (.inr hi)))
  refine ⟨_, (noted_walked s r).trans (noted_recordIn _ r (racedPieces [(p, reqBytes r)])), ?_⟩
  rw [← spanWrite_one _ p (length_bytesOfNat _ _), ← storeBytes_reqBytes hi, hplain]
  simp only [State.performPlain, checked_passes (race_none h)]
  unfold plainStore at hi
  split at hi
  case h_6 => cases hi
  all_goals
    rename_i hn
    rw [hn]

/-- 08 R196, R197, R201: an atomic replaces its word. -/
theorem deviceAccess_atomic (hi : Claims.atomicOp r.instr = true) (hp : p.isDev = true) :
    ∃ u, Noted s u ∧ s.deviceAccess r =
      (u.storeAt p.key (bytesOfNat (atomicValue r.instr (readNat s.mem p.key (reqBytes r)) r.data.toNat r.idx.toNat s.breachBits)
        (reqBytes r))).performed r (loadValue r.instr (readNat s.mem p.key (reqBytes r))) 0 := by
  have hplain := deviceAccess_plain h (not_tagOp (.inr (.inr hi))) (.inl hp)
  have hu := ((noted_walked s r).trans (noted_recordIn _ r (racedPieces [(p, reqBytes r)]))).trans
    (noted_countSubst _ r.asid [(p, reqBytes r)])
  refine ⟨_, hu, ?_⟩
  rw [← spanWrite_one _ p (length_bytesOfNat _ _), ← hu.breachBits, hplain]
  simp only [State.performPlain, spanRead_clean h (noted_walked s r), spanPoisonVa_clean h (noted_walked s r),
    checked_passes (race_none h)]
  unfold Claims.atomicOp at hi
  split at hi
  case h_4 => cases hi
  all_goals
    rename_i hn
    rw [hn]
    rfl

end

end Sys2Proof.Machine

open Sys2Proof Sys2Proof.Machine Sys2Proof.Claims

/-- Settles O23: the access walks, leaves its race records, and reads or writes the bytes of its place. -/
theorem farAccessesActOnTheirBytes : Obligations.FarAccessesActOnTheirBytes := by
  unfold Obligations.FarAccessesActOnTheirBytes
  intro s id r p hr hready h n old
  have hid := req?_id hr
  have hexec (hi : isAccess r.instr = true) := exec_access hr hready h.1 hi
  refine ⟨fun hi hd => ?load, fun hi hd hm => ?store, fun hi hp hm => ?atomic⟩
  case load =>
    obtain ⟨u, hu, he⟩ := deviceAccess_load h hi
    refine ⟨_, (hexec (by simp [isAccess, hi])).trans (congrArg _ he), performed_waits hid hr ((hu.req? id).trans hr) hd _ _,
      (performed_mem ..).trans hu.mem, (performed_cores hd ..).trans hu.cores⟩
  case store =>
    obtain ⟨u, hu, he⟩ := deviceAccess_store h hi
    refine ⟨_, (hexec (by simp [isAccess, hi])).trans (congrArg _ he), performed_done hid hd _ _, fun a => ?_⟩
    rw [performed_mem, readByte_storeAt (hu.memOk hm), hu.mem]
  case atomic =>
    obtain ⟨u, hu, he⟩ := deviceAccess_atomic h hi hp
    refine ⟨_, (hexec (by simp [isAccess, hi])).trans (congrArg _ he), fun a => ?_,
      fun hd => performed_waits hid hr ((req?_of_reqs (State.storeAt_reqs ..) id).trans ((hu.req? id).trans hr)) hd _ _,
      fun hd => performed_done hid hd _ _⟩
    rw [performed_mem, readByte_storeAt (hu.memOk hm), hu.mem]
end

section
/-! Full/empty operations (08 R188 to R192). -/
namespace Sys2Proof.Machine
open Sys2Proof.Claims

/-! ### The tag byte of a word -/

/-- A byte with a bit set to a value. -/
def putBit (b : Byte) (i : Nat) (v : Bool) : Byte := if v then b ||| 1#8 <<< i else b &&& ~~~(1#8 <<< i)

theorem getLsbD_one_shiftLeft {i j : Nat} (hj : j < 8) : ((1#8) <<< i).getLsbD j = decide (j = i) := by
  simp only [BitVec.getLsbD_shiftLeft, BitVec.getLsbD_one, decide_eq_true hj, Bool.true_and]
  rw [Bool.eq_iff_iff]
  simp
  omega

theorem getLsbD_putBit {b : Byte} {i j : Nat} {v : Bool} (hj : j < 8) :
    (putBit b i v).getLsbD j = if j = i then v else b.getLsbD j := by
  cases v
  · rw [putBit, if_neg Bool.false_ne_true, BitVec.getLsbD_and, BitVec.getLsbD_not, getLsbD_one_shiftLeft hj, decide_eq_true hj]
    split <;> simp [*]
  · rw [putBit, if_pos rfl, BitVec.getLsbD_or, getLsbD_one_shiftLeft hj]
    split <;> simp [*]

theorem putBit_same {b : Byte} {i : Nat} {v : Bool} (h : b.getLsbD i = v) : putBit b i v = b := by
  refine BitVec.eq_of_getLsbD_eq fun j hj => ?_
  rw [getLsbD_putBit hj]
  split
  · next he => rw [he, h]
  · rfl

/-- 18 R405: FULL is the lower bit of a word's two, WAITED the upper. -/
theorem tagAt_shift (s : State) (d : BitVec 2) (l : Leaf) (o : Nat) : (s.tagAt d l o).2 + 1 < 8 := by
  simp only [State.tagAt]
  omega

section
variable {s : State} (t : Nat × Nat)

theorem setTag_mem (b v : Bool) : (s.setTag t b v).mem = writeByte s.mem t.1 (putBit (readByte s.mem t.1) (t.2 + b.toNat) v) := rfl

theorem setTag_rest (b v : Bool) : ({ s.setTag t b v with mem := s.mem } : State) = s := rfl

theorem setTag_memOk (hm : s.memOk = true) (b v : Bool) : (s.setTag t b v).memOk = true := by
  rw [State.memOk, setTag_mem]
  exact writeByte_wf _ _ hm

theorem readByte_setTag (hm : s.memOk = true) (b v : Bool) (x : Nat) :
    readByte (s.setTag t b v).mem x = if x = t.1 then putBit (readByte s.mem t.1) (t.2 + b.toNat) v else readByte s.mem x := by
  rw [setTag_mem, readByte_writeByte hm]

theorem tagBit_setTag (hm : s.memOk = true) (ht : t.2 + 1 < 8) (b c v : Bool) :
    (s.setTag t b v).tagBit t c = if c = b then v else s.tagBit t c := by
  have hlt : t.2 + c.toNat < 8 := by cases c <;> simp <;> omega
  rw [State.tagBit, readByte_setTag t hm, if_pos rfl, getLsbD_putBit hlt]
  cases b <;> cases c <;> simp [State.tagBit]

theorem tagBit_of_mem {u : State} (h : u.mem = s.mem) (b : Bool) : u.tagBit t b = s.tagBit t b := by
  rw [State.tagBit, State.tagBit, h]

/-! ### FULL changes, and the retries of the word are due (08 R189) -/

theorem retryNow_mem : (s.retryNow t).mem = s.mem := rfl

/-- A retry of the word becomes due. -/
def State.dueNow (s : State) (t : Nat × Nat) (r : Req) : Req :=
  match r.phase with
  | .retrying _ =>
    match s.leaf (vaDie r.va) r.asid (vaOff r.va) with
    | some l => if s.tagAt (vaDie r.va) l (vaOff r.va) == t then { r with phase := .retrying s.time } else r
    | none => r
  | _ => r

theorem dueNow_phase (r : Req) : ∃ ph, s.dueNow t r = { r with phase := ph } := by
  rw [State.dueNow]
  split
  · split
    · split
      · exact ⟨_, rfl⟩
      · exact ⟨r.phase, rfl⟩
    · exact ⟨r.phase, rfl⟩
  · exact ⟨r.phase, rfl⟩

theorem retryNow_reqs : (s.retryNow t).reqs = s.reqs.map (s.dueNow t) := rfl

/-- A retry that has become due differs in its phase alone. -/
theorem retryNow_req? {id : Nat} {r : Req} (h : s.req? id = some r) : ∃ ph, (s.retryNow t).req? id = some { r with phase := ph } := by
  obtain ⟨ph, hph⟩ := dueNow_phase (s := s) t r
  refine ⟨ph, ?_⟩
  rw [req?_map (retryNow_reqs t), h, Option.map_some, hph]
  intro q
  obtain ⟨_, hq⟩ := dueNow_phase (s := s) t q
  rw [hq]

theorem setFull_rest (v : Bool) : ({ s.setFull t v with mem := s.mem, reqs := s.reqs } : State) = s := by
  rw [State.setFull]
  split <;> rfl

theorem setFull_req? (v : Bool) {id : Nat} {r : Req} (h : s.req? id = some r) : ∃ ph, (s.setFull t v).req? id = some { r with phase := ph } := by
  rw [State.setFull]
  split
  · exact ⟨r.phase, h⟩
  · exact retryNow_req? t ((req?_of_reqs (congrArg State.reqs (setTag_rest t false v) :) id).trans h)

theorem setFull_memOk (hm : s.memOk = true) (v : Bool) : (s.setFull t v).memOk = true := by
  rw [State.setFull]
  split
  · exact hm
  · exact setTag_memOk t hm false v

/-- 08 R191: the tag byte after FULL has been set, and every other byte. -/
theorem readByte_setFull (hm : s.memOk = true) (v : Bool) (x : Nat) :
    readByte (s.setFull t v).mem x = if x = t.1 then putBit (readByte s.mem t.1) t.2 v else readByte s.mem x := by
  rw [State.setFull]
  split
  · next h =>
    have hbit : (readByte s.mem t.1).getLsbD t.2 = v := eq_of_beq h
    rw [putBit_same hbit]
    split
    · next hx => rw [hx]
    · rfl
  · rw [retryNow_mem, readByte_setTag t hm]
    rfl

theorem tagBit_setFull (hm : s.memOk = true) (ht : t.2 + 1 < 8) (v c : Bool) :
    (s.setFull t v).tagBit t c = if c = false then v else s.tagBit t c := by
  rw [State.setFull]
  split
  · next h =>
    cases c
    · exact eq_of_beq h
    · rfl
  · rw [tagBit_of_mem t (retryNow_mem t)]
    exact tagBit_setTag t hm ht false c v

/-- 08 R191: without WAITED nothing is woken. -/
theorem fillWord_unwaited (hm : s.memOk = true) (ht : t.2 + 1 < 8) (hw : s.tagBit t true = false) (d : BitVec 2) (asid : BitVec 12)
    (va : Word) : s.fillWord d asid va t = s.setFull t true := by
  rw [State.fillWord, State.wakeFull, tagBit_setFull t hm ht, if_neg (Ne.symm Bool.false_ne_true), hw]
  rfl

theorem emptyWord_unwaited (hm : s.memOk = true) (ht : t.2 + 1 < 8) (hw : s.tagBit t true = false) (d : BitVec 2) (asid : BitVec 12)
    (va : Word) : s.emptyWord d asid va t = s.setFull t false := by
  rw [State.emptyWord, State.wakeEmpty, tagBit_setFull t hm ht, if_neg (Ne.symm Bool.false_ne_true), hw]
  rfl

end

/-! ### A request reaches its word -/

theorem reqBytes_tagOp {r : Req} (hi : isTagOp r.instr = true) : reqBytes r = 8 := by
  unfold isTagOp at hi
  split at hi
  case h_9 => cases hi
  all_goals
    rename_i hn
    simp only [reqBytes, hn]

theorem raceIn_phase (s : State) (r : Req) (ph : ReqPhase) : ∀ l, s.raceIn { r with phase := ph } l = s.raceIn r l
  | [] => rfl
  | x :: l => by
    rw [State.raceIn, State.raceIn, raceIn_phase s r ph l]
    rfl

theorem reachesWord_phase {s : State} {r : Req} {w : TagWord} (h : ReachesWord s r w) (ph : ReqPhase) :
    ReachesWord s { r with phase := ph } w := by
  have hbytes : reqBytes { r with phase := ph } = reqBytes r := rfl
  have hneeds : reqNeeds { r with phase := ph } = reqNeeds r := rfl
  have htag : w.tag s { r with phase := ph } = w.tag s r := rfl
  unfold ReachesWord Reaches at h ⊢
  simp only [hbytes, hneeds, htag, raceIn_phase]
  exact h

/-- 08 R189: the first attempt of an operation and a retry are the same step. -/
theorem exec_attempt {s : State} {id : Nat} {r : Req} {e : Instr} (h : Attempts s id r e) (hs : r.space = 2)
    (hi : isTagOp r.instr = true) : ∃ ph, exec e s = .next (s.deviceAccess { r with phase := ph }) := by
  obtain ⟨hr, ⟨rfl, hready⟩ | ⟨rfl, hdue⟩⟩ := h
  · exact ⟨r.phase, exec_access hr hready hs (by simp [isAccess, hi])⟩
  · refine ⟨.issued, ?_⟩
    show execFeRetry id s = _
    rw [execFeRetry, hr]
    exact congrArg _ (if_pos hdue)

/-- An attempt that writes has left its race records. -/
theorem noted_wrote (s : State) (r : Req) (w : TagWord) : Noted s ((s.walked r).recordIn r (racedPieces [(.dev w.d w.a w.l, 8)])) :=
  (noted_walked s r).trans (noted_recordIn _ r _)

/-- An attempt that reads has counted its substitutions, too. -/
theorem noted_read (s : State) (r : Req) (w : TagWord) :
    Noted s (((s.walked r).recordIn r (racedPieces [(.dev w.d w.a w.l, 8)])).countSubst r.asid [(.dev w.d w.a w.l, 8)]) :=
  (noted_wrote s r w).trans (noted_countSubst _ _ _)

section
variable {s : State} {r : Req} {w : TagWord} (h : ReachesWord s r w)
include h

theorem deviceAccess_tagOp (hi : isTagOp r.instr = true) : s.deviceAccess r = (s.walked r).tagStep r (.dev w.d w.a w.l) w.d w.l := by
  obtain ⟨⟨-, -, hrange, -, -⟩, htagged, -⟩ := h
  simp only [State.deviceAccess, State.walked, hrange, hi, htagged, Bool.not_true, Bool.false_eq_true, if_false, if_true]

omit h in
theorem tag_noted {t : State} (ht : Noted s t) : t.tagAt w.d w.l (vaOff r.va) = w.tag s r := by
  rw [TagWord.tag, State.tagAt, State.tagAt, ht.tagBase]

omit h in
theorem tagBit_full {t : State} (ht : t.mem = s.mem) : t.tagBit (w.tag s r) false = w.full s r := by
  rw [State.tagBit, ht]
  rfl

omit h in
theorem tagBit_waited {t : State} (ht : t.mem = s.mem) : t.tagBit (w.tag s r) true = w.waited s r := by
  rw [State.tagBit, ht]
  rfl

theorem tag_clean {t : State} (ht : Noted s t) : isPoisoned t.poison (w.tag s r).1 1 = false := by
  obtain ⟨-, -, hclean, -⟩ := h
  rw [ht.poison]
  exact hclean

theorem word_clean {t : State} (ht : Noted s t) (hi : isTagOp r.instr = true) : t.poisonAt (.dev w.d w.a w.l) 8 = false := by
  rw [← reqBytes_tagOp hi]
  exact poisonAt_clean h.1 ht

theorem word_read {t : State} (ht : Noted s t) (hi : isTagOp r.instr = true) :
    natOfBytes (t.readDev (.dev w.d w.a w.l) 8) = readNat s.mem w.key 8 := by
  have hspan := spanRead_clean h.1 ht
  rw [reqBytes_tagOp hi, State.spanRead, List.flatMap_singleton] at hspan
  exact congrArg natOfBytes hspan

theorem word_race (hi : isTagOp r.instr = true) : (s.walked r).raceIn r (racedPieces [(.dev w.d w.a w.l, 8)]) = none := by
  rw [← reqBytes_tagOp hi]
  exact race_none h.1

section
variable {hd : Head} {f : FM}

theorem access_ldw (hi : r.instr = .ldw hd f) (hfull : w.full s r = true) :
    ∃ u, Noted s u ∧ s.deviceAccess r = u.performed r (element f.ty (readNat s.mem w.key 8)) 0 := by
  have hw := noted_walked s r
  have htag : isTagOp r.instr = true := by rw [hi]; rfl
  refine ⟨_, noted_read s r w, ?_⟩
  rw [deviceAccess_tagOp h htag, ← widenS_eq_element]
  simp only [State.tagStep, tag_noted hw, tag_clean h hw, tagBit_full hw.mem, hfull, word_clean h hw htag, word_read h hw htag,
    checked_passes (word_race h htag)]
  simp only [hi]
  rfl

theorem access_ldt (hi : r.instr = .ldt hd f) :
    ∃ u, Noted s u ∧ s.deviceAccess r =
      u.performed r (element f.ty (readNat s.mem w.key 8)) (BitVec.ofNat 64 (2 * (w.waited s r).toNat + (w.full s r).toNat)) := by
  have hw := noted_walked s r
  have htag : isTagOp r.instr = true := by rw [hi]; rfl
  have hu := noted_read s r w
  refine ⟨_, hu, ?_⟩
  rw [deviceAccess_tagOp h htag, ← widenS_eq_element, ← tagBit_waited hu.mem]
  simp only [State.tagStep, tag_noted hw, tag_clean h hw, tagBit_full hw.mem, word_clean h hw htag, word_read h hw htag,
    checked_passes (word_race h htag)]
  simp only [hi]
  rfl

theorem access_ldc (hi : r.instr = .ldc hd f) (hfull : w.full s r = true) (hresv : s.reservedByOther w.d r = false) :
    ∃ u, Noted s u ∧ s.deviceAccess r = ((u.dropResv w.d r.asid r.va).emptyWord w.d r.asid r.va (w.tag s r)).performed r
      (element f.ty (readNat s.mem w.key 8)) 0 := by
  have hw := noted_walked s r
  have htag : isTagOp r.instr = true := by rw [hi]; rfl
  have hresv' : (s.walked r).reservedByOther w.d r = false := by
    rw [State.reservedByOther, hw.resvs, hw.time]
    exact hresv
  refine ⟨_, noted_read s r w, ?_⟩
  rw [deviceAccess_tagOp h htag, ← widenS_eq_element]
  simp only [State.tagStep, tag_noted hw, tag_clean h hw, tagBit_full hw.mem, hfull, hresv', word_clean h hw htag, word_read h hw htag,
    checked_passes (word_race h htag)]
  simp only [hi]
  rfl

theorem access_tage (hi : r.instr = .tage hd f) :
    ∃ u, Noted s u ∧ s.deviceAccess r = ((u.dropResv w.d r.asid r.va).emptyWord w.d r.asid r.va (w.tag s r)).performed r 0 0 := by
  have hw := noted_walked s r
  have htag : isTagOp r.instr = true := by rw [hi]; rfl
  refine ⟨_, noted_wrote s r w, ?_⟩
  rw [deviceAccess_tagOp h htag]
  simp only [State.tagStep, tag_noted hw, tag_clean h hw, checked_passes (word_race h htag)]
  simp only [hi]
  rfl

/-- 08 R191: STF on an empty word, and STS, store and fill. -/
theorem access_fill (hi : r.instr = .stf hd f ∧ w.full s r = false ∨ r.instr = .sts hd f) :
    ∃ u, Noted s u ∧ s.deviceAccess r =
      ((u.storeAt w.key (bytesOfNat r.data.toNat 8)).fillWord w.d r.asid r.va (w.tag s r)).performed r 0 0 := by
  have hw := noted_walked s r
  have htag : isTagOp r.instr = true := by obtain ⟨hi, -⟩ | hi := hi <;> rw [hi] <;> rfl
  refine ⟨_, noted_wrote s r w, ?_⟩
  rw [deviceAccess_tagOp h htag]
  simp only [State.tagStep, tag_noted hw, tag_clean h hw, tagBit_full hw.mem, checked_passes (word_race h htag)]
  obtain ⟨hi, hempty⟩ | hi := hi
  · simp only [hi, hempty]
    rfl
  · simp only [hi]
    rfl

end

/-- 08 R189: an attempt that does not succeed. -/
def Fails (s : State) (r : Req) (w : TagWord) : Prop :=
  (∃ h f, r.instr = .ldw h f) ∧ w.full s r = false ∨ (∃ h f, r.instr = .stf h f) ∧ w.full s r = true ∨
    (∃ h f, r.instr = .ldc h f) ∧ (w.full s r = false ∨ s.reservedByOther w.d r = true)

theorem access_fails (hf : Fails s r w) : ∃ u, Noted s u ∧ s.deviceAccess r = u.attemptFailed r := by
  have hw := noted_walked s r
  have htag : isTagOp r.instr = true := by
    obtain ⟨⟨_, _, hi⟩, -⟩ | ⟨⟨_, _, hi⟩, -⟩ | ⟨⟨_, _, hi⟩, -⟩ := hf <;> rw [hi] <;> rfl
  have hresv : (s.walked r).reservedByOther w.d r = s.reservedByOther w.d r := by
    rw [State.reservedByOther, hw.resvs, hw.time]
    rfl
  refine ⟨_, hw, ?_⟩
  rw [deviceAccess_tagOp h htag]
  simp only [State.tagStep, tag_noted hw, tag_clean h hw, tagBit_full hw.mem, hresv]
  obtain ⟨⟨_, _, hi⟩, hempty⟩ | ⟨⟨_, _, hi⟩, hfull⟩ | ⟨⟨_, _, hi⟩, hempty | hheld⟩ := hf
  · simp only [hi, hempty]
    rfl
  · simp only [hi, hfull]
    rfl
  · simp only [hi, hempty]
    rfl
  · simp only [hi, hheld, Bool.or_true]
    rfl

end

/-! ### What an attempt leaves -/

theorem readByte_taggedByte {s u : State} {r : Req} {w : TagWord} (hu : u.mem = s.mem) (hm : s.memOk = true) (v : Bool) (x : Nat) :
    readByte (u.setFull (w.tag s r) v).mem x = taggedByte s r w v x := by
  rw [readByte_setFull _ (by rwa [State.memOk, hu]), hu]
  rfl

section
variable {s u : State} {r : Req} {w : TagWord} (hu : Noted s u) (hm : s.memOk = true)
include hu hm

/-- 08 R191: a word without parked records is emptied. -/
theorem emptied_eq (hw : w.waited s r = false) (d : BitVec 2) (a : BitVec 12) (va : Word) :
    (u.dropResv d a va).emptyWord d a va (w.tag s r) = (u.dropResv d a va).setFull (w.tag s r) false :=
  emptyWord_unwaited (s := u.dropResv d a va) _ (hu.memOk hm) (tagAt_shift s _ _ _) ((tagBit_waited hu.mem).trans hw) d a va

variable (ht : (w.tag s r).1 < w.key ∨ w.key + 8 ≤ (w.tag s r).1)
include ht

/-- A store into the word leaves its tag. -/
theorem tag_stored (y : Nat) : readByte (u.storeAt w.key (bytesOfNat y 8)).mem (w.tag s r).1 = readByte s.mem (w.tag s r).1 := by
  rw [readByte_storeAt (hu.memOk hm), storedByte, if_neg (by omega), hu.mem]

/-- 08 R191: and one is filled. -/
theorem filled_eq (hw : w.waited s r = false) (y : Nat) (d : BitVec 2) (a : BitVec 12) (va : Word) :
    (u.storeAt w.key (bytesOfNat y 8)).fillWord d a va (w.tag s r) = (u.storeAt w.key (bytesOfNat y 8)).setFull (w.tag s r) true := by
  refine fillWord_unwaited _ (State.storeAt_memOk (hu.memOk hm) _ _) (tagAt_shift s _ _ _) ?_ d a va
  exact (congrArg (BitVec.getLsbD · ((w.tag s r).2 + 1)) (tag_stored hu hm ht y) :).trans hw

/-- 08 R191: the bytes of a word that has been filled, and its tag. -/
theorem readByte_filled (y x : Nat) :
    readByte ((u.storeAt w.key (bytesOfNat y 8)).setFull (w.tag s r) true).mem x =
      if w.key ≤ x ∧ x < w.key + 8 then BitVec.ofNat 8 (y / 256 ^ (x - w.key)) else taggedByte s r w true x := by
  rw [readByte_setFull _ (State.storeAt_memOk (hu.memOk hm) _ _), tag_stored hu hm ht, readByte_storeAt (hu.memOk hm), storedByte,
    taggedByte, putBit, hu.mem]
  by_cases hx : x = (w.tag s r).1
  · subst hx
    have hout : ¬(w.key ≤ (w.tag s r).1 ∧ (w.tag s r).1 < w.key + 8) := by omega
    simp only [if_true, if_neg hout]
  · simp only [if_neg hx]

end

section
variable {u : State} {r : Req} {id : Nat} (ph : ReqPhase) (hr : u.req? id = some r)
include hr

/-- 08 R189: while retries are left the next is due 64 cycles later. -/
theorem attemptFailed_retries (hb : 0 < r.budget) :
    (u.attemptFailed { r with phase := ph }).req? id =
      some { r with phase := .retrying (u.time + 64), budget := r.budget - 1, failed := true, admitted := true } ∧
    (u.attemptFailed { r with phase := ph }).mem = u.mem := by
  have hne : ¬ (r.budget == 0) = true := by rw [beq_iff_eq]; exact Nat.ne_of_gt hb
  have hmod := req?_modReq (f := fun q => { q with phase := .retrying (u.time + 64), budget := r.budget - 1, failed := true, admitted := true })
    (fun _ => rfl) hr
  obtain rfl := req?_id hr
  rw [State.attemptFailed, if_neg hne]
  exact ⟨hmod, rfl⟩

/-- 08 R189: with none left the operation ends, and its context has the retry-exhausted cause. -/
theorem attemptFailed_exhausted (hb : r.budget = 0) (hl : (u.ctx r.core r.ctx).life = .running) :
    (u.attemptFailed { r with phase := ph }).req? id = none ∧ (u.attemptFailed { r with phase := ph }).mem = u.mem ∧
    ((u.attemptFailed { r with phase := ph }).ctx r.core r.ctx).reports = (u.ctx r.core r.ctx).reports ++
      [⟨r.id, r.acc, r.bundle, 0, r.handler, ⟨0x110, r.slot, r.va, retryInfo r.instr⟩, r.data.setWidth 64, 0⟩] := by
  have hz : (r.budget == 0) = true := beq_iff_eq.mpr hb
  obtain rfl := req?_id hr
  rw [State.attemptFailed, if_pos hz]
  exact ⟨failReq_req? u rfl _ _ _ _ _, rfl, failReq_reports u { r with phase := ph } hl _ _ _ _ _⟩

end

theorem retryInfo_top {s : State} {r : Req} {w : TagWord} (h : Fails s r w) : (retryInfo r.instr).getLsbD 63 = true := by
  obtain ⟨⟨_, f, hi⟩, -⟩ | ⟨⟨_, f, hi⟩, -⟩ | ⟨⟨_, f, hi⟩, -⟩ := h <;> rw [hi, retryInfo]
  all_goals repeat (refine BitVec.getLsbD_append.trans ((if_neg (by decide)).trans ?_))
  all_goals rfl

end Sys2Proof.Machine

open Sys2Proof Sys2Proof.Machine Sys2Proof.Claims

/-- Settles O25: an attempt that succeeds reads its word or stores it, and sets FULL; one that fails is retried or reported. -/
theorem fullEmptyAttemptsActOrRetry : Obligations.FullEmptyAttemptsActOrRetry := by
  unfold Obligations.FullEmptyAttemptsActOrRetry
  constructor
  · intro s id r e w hatt hreach hm word stored
    have hr : s.req? id = some r := hatt.1
    have hreach' (ph : ReqPhase) := reachesWord_phase hreach ph
    have hexec (hi : isTagOp r.instr = true) := exec_attempt hatt hreach.1.1 hi
    obtain ⟨-, -, -, -, htag⟩ := hreach
    refine ⟨fun h f hi hd hfull => ?ldw, fun h f hi hd => ?ldt, fun h f hi hd hfull hw hv => ?ldc, fun h f hi hd hw => ?tage,
      fun h f hi hd hempty hw => ?stf, fun h f hi hd hw => ?sts⟩
    case ldw =>
      obtain ⟨ph, he⟩ := hexec (by rw [hi]; rfl)
      obtain ⟨u, hu, ha⟩ := access_ldw (hreach' ph) hi hfull
      exact ⟨_, he.trans (congrArg _ ha), performed_waits (req?_id hr) hr ((hu.req? id).trans hr) hd _ _, (performed_mem ..).trans hu.mem⟩
    case ldt =>
      obtain ⟨ph, he⟩ := hexec (by rw [hi]; rfl)
      obtain ⟨u, hu, ha⟩ := access_ldt (hreach' ph) hi
      exact ⟨_, he.trans (congrArg _ ha), performed_waits (req?_id hr) hr ((hu.req? id).trans hr) hd _ _, (performed_mem ..).trans hu.mem⟩
    case ldc =>
      obtain ⟨ph, he⟩ := hexec (by rw [hi]; rfl)
      obtain ⟨u, hu, ha⟩ := access_ldc (hreach' ph) hi hfull hv
      rw [emptied_eq (r := { r with phase := ph }) hu hm hw] at ha
      obtain ⟨_, hreq⟩ := setFull_req? (s := u.dropResv w.d r.asid r.va) (w.tag s r) false ((hu.req? id).trans hr)
      refine ⟨_, he.trans (congrArg _ ha), performed_waits (req?_id hr) hr hreq hd _ _, fun x => ?_⟩
      rw [performed_mem]
      exact readByte_taggedByte (u := u.dropResv w.d r.asid r.va) hu.mem hm false x
    case tage =>
      obtain ⟨ph, he⟩ := hexec (by rw [hi]; rfl)
      obtain ⟨u, hu, ha⟩ := access_tage (hreach' ph) hi
      rw [emptied_eq (r := { r with phase := ph }) hu hm hw] at ha
      refine ⟨_, he.trans (congrArg _ ha), performed_done (req?_id hr) hd _ _, fun x => ?_, ?_⟩
      · rw [performed_mem]
        exact readByte_taggedByte (u := u.dropResv w.d r.asid r.va) hu.mem hm false x
      · have hdies : ((u.dropResv w.d r.asid r.va).setFull (w.tag s r) false).dies = (u.dropResv w.d r.asid r.va).dies :=
          (congrArg State.dies (setFull_rest _ false) :)
        rw [State.die, performed_dies]
        refine (congrArg (fun v : Vector Die 4 => (v[w.d.toNat]'(w.d.isLt)).resvs) hdies).trans ?_
        refine (congrArg Die.resvs (State.die_modDie u w.d _)).trans ?_
        rw [← hu.resvs]
    case stf =>
      obtain ⟨ph, he⟩ := hexec (by rw [hi]; rfl)
      obtain ⟨u, hu, ha⟩ := access_fill (hreach' ph) (.inl ⟨hi, hempty⟩)
      rw [filled_eq (r := { r with phase := ph }) hu hm htag hw] at ha
      refine ⟨_, he.trans (congrArg _ ha), performed_done (req?_id hr) hd _ _, fun x => ?_⟩
      rw [performed_mem]
      exact readByte_filled hu hm htag _ x
    case sts =>
      obtain ⟨ph, he⟩ := hexec (by rw [hi]; rfl)
      obtain ⟨u, hu, ha⟩ := access_fill (hreach' ph) (.inr hi)
      rw [filled_eq (r := { r with phase := ph }) hu hm htag hw] at ha
      refine ⟨_, he.trans (congrArg _ ha), performed_done (req?_id hr) hd _ _, fun x => ?_⟩
      rw [performed_mem]
      exact readByte_filled hu hm htag _ x
  · intro s id r e w hatt hreach hfails
    have hr : s.req? id = some r := hatt.1
    have htag : isTagOp r.instr = true := by
      obtain ⟨⟨_, _, hi⟩, -⟩ | ⟨⟨_, _, hi⟩, -⟩ | ⟨⟨_, _, hi⟩, -⟩ := hfails <;> rw [hi] <;> rfl
    obtain ⟨ph, he⟩ := exec_attempt hatt hreach.1.1 htag
    obtain ⟨u, hu, ha⟩ := access_fails (reachesWord_phase hreach ph) hfails
    have hru : u.req? id = some r := (hu.req? id).trans hr
    refine ⟨fun hb => ?retry, fun hb hl => ?exhausted⟩
    case retry =>
      obtain ⟨hreq, hmem⟩ := attemptFailed_retries ph hru hb
      rw [hu.time] at hreq
      exact ⟨_, he.trans (congrArg _ ha), hreq, hmem.trans hu.mem⟩
    case exhausted =>
      obtain ⟨hreq, hmem, hrep⟩ := attemptFailed_exhausted ph hru hb (by rwa [hu.ctx])
      rw [hu.ctx] at hrep
      exact ⟨_, he.trans (congrArg _ ha), hreq, hmem.trans hu.mem, _, hrep, rfl, rfl, retryInfo_top hfails, rfl⟩
end

section
/-! Parking and waking (08 R191, R194, R195, 18 R407). -/
namespace Sys2Proof.Machine
open Sys2Proof.Claims

/-! ### Buckets -/

theorem bucket_idx (x : Die) (i : BitVec 12) : (x.bucket i).idx = i := by
  rw [Die.bucket]
  cases h : x.buckets.find? fun b => b.idx == i with
  | none => rfl
  | some b => exact beq_iff_eq.mp (List.find?_some (p := fun b : Bucket => b.idx == i) h)

theorem bucket_setBucket (x : Die) (b : Bucket) (i : BitVec 12) : (x.setBucket b).bucket i = if b.idx = i then b else x.bucket i := by
  rw [Die.bucket, Die.setBucket]
  by_cases hany : (x.buckets.any fun y => y.idx == b.idx) = true
  · have hid (y : Bucket) : (if y.idx == b.idx then b else y).idx = y.idx := by
      split
      · next h => exact (beq_iff_eq.mp h).symm
      · rfl
    have hp : (fun y : Bucket => y.idx == i) ∘ (fun y => if y.idx == b.idx then b else y) = fun y => y.idx == i :=
      funext fun y => congrArg (· == i) (hid y)
    rw [if_pos hany, List.find?_map, hp]
    by_cases hi : b.idx = i
    · obtain ⟨y, hy⟩ := Option.isSome_iff_exists.mp (List.find?_isSome.mpr (List.any_eq_true.mp hany))
      have hyi : (y.idx == b.idx) = true := List.find?_some (p := fun y : Bucket => y.idx == b.idx) hy
      rw [← hi, hy, if_pos rfl, Option.map_some, if_pos hyi]
      rfl
    · rw [if_neg hi, Die.bucket]
      cases hy : x.buckets.find? fun y => y.idx == i with
      | none => rfl
      | some y =>
        have hyi : y.idx = i := beq_iff_eq.mp (List.find?_some (p := fun y : Bucket => y.idx == i) hy)
        rw [Option.map_some, if_neg (by rw [hyi, beq_iff_eq]; exact Ne.symm hi)]
  · have hnone : (x.buckets.find? fun y => y.idx == b.idx) = none := by
      rw [List.find?_eq_none]
      exact fun y hy hyb => hany (List.any_eq_true.mpr ⟨y, hy, hyb⟩)
    rw [if_neg hany, List.find?_append]
    by_cases hi : b.idx = i
    · rw [← hi, hnone]
      simp
    · simp [hi, Die.bucket]

theorem die_putBucket (s : State) (d : BitVec 2) (b : Bucket) : (s.putBucket d b).die d = (s.die d).setBucket b := by
  unfold State.putBucket
  generalize b.bytes.take 1024 = l
  exact State.die_modDie _ d _

theorem recsOf_buckets {x y : Die} (h : y.buckets = x.buckets) (asid : BitVec 12) (va : Word) : y.recsOf asid va = x.recsOf asid va := by
  rw [Die.recsOf, Die.recsOf, Die.bucket, Die.bucket, h]

/-! ### Records removed -/

/-- One bucket with the records that a test picks removed. -/
def State.sweep (s : State) (d : BitVec 2) (sel : ParkRec → Bool) (b : Bucket) : State :=
  s.putBucket d { (s.die d).bucket b.idx with recs := ((s.die d).bucket b.idx).recs.filter fun r => !sel r }

theorem removeRecs_eq (s : State) (d : BitVec 2) (sel : ParkRec → Bool) :
    s.removeRecs d sel = ((s.die d).buckets.filter fun b => b.recs.any sel).foldl (fun s b => s.sweep d sel b) s := rfl

theorem sweep_recs (s : State) (d : BitVec 2) (sel : ParkRec → Bool) (b : Bucket) (i : BitVec 12) :
    (((s.sweep d sel b).die d).bucket i).recs =
      if b.idx = i then ((s.die d).bucket i).recs.filter fun r => !sel r else ((s.die d).bucket i).recs := by
  rw [State.sweep, die_putBucket, bucket_setBucket, bucket_idx]
  split
  · next h => rw [h]
  · rfl

theorem sweeps_recs (d : BitVec 2) (sel : ParkRec → Bool) (i : BitVec 12) : ∀ (l : List Bucket) (s : State),
    (((l.foldl (fun s b => s.sweep d sel b) s).die d).bucket i).recs =
      if l.any fun b => b.idx == i then ((s.die d).bucket i).recs.filter fun r => !sel r else ((s.die d).bucket i).recs
  | [], _ => rfl
  | b :: l, s => by
    rw [List.foldl_cons, sweeps_recs d sel i l, sweep_recs]
    by_cases hb : b.idx = i
    · simp [hb, List.filter_filter]
    · simp [hb]

/-- 18 R407: a bucket after the records that a test picks have been removed. -/
theorem removeRecs_recs (s : State) (d : BitVec 2) (sel : ParkRec → Bool) (i : BitVec 12) :
    (((s.removeRecs d sel).die d).bucket i).recs = ((s.die d).bucket i).recs.filter fun r => !sel r := by
  rw [removeRecs_eq, sweeps_recs]
  split
  · rfl
  · next hany =>
    refine (List.filter_eq_self.mpr fun r hr => ?_).symm
    rw [Die.bucket] at hr
    cases hb : (s.die d).buckets.find? fun b => b.idx == i with
    | none => rw [hb] at hr; cases hr
    | some b =>
      rw [hb] at hr
      rw [Bool.not_eq_true']
      by_contra hsel
      refine hany (List.any_eq_true.mpr ⟨b, List.mem_filter.mpr ⟨List.mem_of_find?_eq_some hb, ?_⟩,
        List.find?_some (p := fun b : Bucket => b.idx == i) hb⟩)
      exact List.any_eq_true.mpr ⟨r, hr, Bool.not_eq_false _ ▸ hsel⟩

theorem sweep_die (s : State) (d : BitVec 2) (sel : ParkRec → Bool) (b : Bucket) :
    ({ (s.sweep d sel b).die d with buckets := (s.die d).buckets } : Die) = s.die d := by
  rw [State.sweep, die_putBucket]
  rfl

theorem removeRecs_die (s : State) (d : BitVec 2) (sel : ParkRec → Bool) :
    ({ (s.removeRecs d sel).die d with buckets := (s.die d).buckets } : Die) = s.die d := by
  rw [removeRecs_eq]
  refine foldl_keeps (p := fun t : State => ({ t.die d with buckets := (s.die d).buckets } : Die) = s.die d) (fun t b ht => ?_) _ s rfl
  exact (congrArg (fun x : Die => ({ x with buckets := (s.die d).buckets } : Die)) (sweep_die t d sel b) :).trans ht

/-! ### A parked context that is woken -/

section
variable (s : State) (d : BitVec 2) (x : ParkRec) (v : Word)

theorem wakeRec_keeps : s.KeepsData (s.wakeRec d x v) :=
  (State.removeRecs_keeps s d _).trans (.of_mem (State.modReq_mem _ _ _))

theorem wakeRec_die : ({ (s.wakeRec d x v).die d with buckets := (s.die d).buckets } : Die) = s.die d :=
  removeRecs_die s d _

theorem wakeRec_recsOf {asid : BitVec 12} {va : Word} (h : (s.die d).recsOf asid va = [x]) :
    ((s.wakeRec d x v).die d).recsOf asid va = [] := by
  have hrecs := removeRecs_recs s d (fun y => y.req == x.req) (bucketOf asid va)
  show ((s.removeRecs d _).die d).recsOf asid va = []
  rw [Die.recsOf, hrecs, List.filter_comm]
  rw [Die.recsOf] at h
  rw [h]
  simp

theorem wakeRec_req? {q : Req} {ph : ReqPhase} (h : s.req? x.req = some { q with phase := ph }) :
    (s.wakeRec d x v).req? x.req = some { q with phase := .performed, res2 := v } := by
  have hreqs : (s.removeRecs d fun y => y.req == x.req).req? x.req = some { q with phase := ph } :=
    (req?_of_reqs (offDie_reqs (offDie_removeRecs s d _)) x.req).trans h
  have hmod := req?_modReq (f := fun q => { q with phase := .performed, res2 := v }) (fun _ => rfl) hreqs
  exact hmod

theorem wakeRec_time : (s.wakeRec d x v).time = s.time := (congrArg State.time (offDie_removeRecs s d _) :)

end

/-! ### The tag of a word, as a state shows it -/

section
variable {s t : State} {w : TagWord} (h : (t.die w.d).tagBase = (s.die w.d).tagBase) (r : Req)
include h

theorem tag_eq : w.tag t r = w.tag s r := by
  rw [TagWord.tag, State.tagAt, h]
  rfl

theorem waited_eq : w.waited t r = t.tagBit (w.tag s r) true := by
  rw [← tag_eq h]
  rfl

theorem full_eq : w.full t r = t.tagBit (w.tag s r) false := by
  rw [← tag_eq h]
  rfl

end

/-- What a program can see of memory shows the same tag. -/
theorem tagBit_keeps {s t : State} (h : s.KeepsData t) (hm : s.memOk = true) {k : Nat × Nat} (hk : bucketByte k.1 = false) (b : Bool) :
    t.tagBit k b = s.tagBit k b := by
  rw [State.tagBit, (h hm).2 _ hk, State.tagBit]

/-! ### PARK (08 R194) -/

/-- 08 R193: what a PARK finds already as its waiter wants it. -/
theorem wanted_eq : ∀ (kind : BitVec 2) (full : Bool), ((kind != 2 && full) || (kind == 2 && !full)) = (full == (kind != 2)) := by decide

section
variable {s : State} {r : Req} {w : TagWord} (h : ReachesWord s r w) {hd : Head} {f : FM} (hi : r.instr = .park hd f)
include h hi

/-- 08 R194: a PARK whose word is as its waiter wants it, or whose bucket is full, has been performed. -/
theorem access_park_answers : ∃ u, Noted s u ∧
    (w.full s r = (parkKindOf f != 2) → s.deviceAccess r = u.performed r 0 0) ∧
    (w.full s r ≠ (parkKindOf f != 2) → 63 ≤ ((s.die w.d).bucket (bucketOf r.asid r.va)).recs.length →
      s.deviceAccess r = u.performed r 3 0) := by
  have hw := noted_walked s r
  have htag : isTagOp r.instr = true := by rw [hi]; rfl
  refine ⟨_, noted_wrote s r w, fun hfull => ?_, fun hfull hroom => ?_⟩
  all_goals
    rw [deviceAccess_tagOp h htag]
    simp only [State.tagStep, tag_noted hw, tag_clean h hw, tagBit_full hw.mem, checked_passes (word_race h htag)]
    simp only [hi, wanted_eq]
  · rw [if_pos (show (w.full s r == (parkKindOf f != 2)) = true from beq_iff_eq.mpr hfull)]
    rfl
  · have hfullBucket : ((s.walked r).die w.d).bucketFull r.asid r.va = true := by
      rw [Die.bucketFull, Die.bucket, hw.buckets]
      exact decide_eq_true hroom
    rw [if_neg (show ¬(w.full s r == (parkKindOf f != 2)) = true by rwa [beq_iff_eq]), hfullBucket]
    rfl

/-- The state in which the record of a PARK stands. -/
def State.parkAt (u : State) (d : BitVec 2) (r : Req) (kind : BitVec 2) (k : Nat × Nat) : State :=
  { ((u.appendRec d r.asid r.va kind r.core r.ctx r.id).setTag k true true).modReq r.id fun q =>
      { q with phase := .parked, turn := u.nextId } with nextId := u.nextId + 1 }

theorem access_park_parks (hfull : w.full s r ≠ (parkKindOf f != 2))
    (hroom : ((s.die w.d).bucket (bucketOf r.asid r.va)).recs.length < 63)
    (hrace : s.raceIn { r with turn := s.nextId } (racedPieces [(.dev w.d w.a w.l, 8)]) = none) :
    ∃ u, Noted s u ∧ s.deviceAccess r = u.parkAt w.d r (parkKindOf f) (w.tag s r) := by
  have hw := noted_walked s r
  have htag : isTagOp r.instr = true := by rw [hi]; rfl
  have hroomBucket : ((s.walked r).die w.d).bucketFull r.asid r.va = false := by
    rw [Die.bucketFull, Die.bucket, hw.buckets]
    exact decide_eq_false (Nat.not_le.mpr hroom)
  have hrace' : (s.walked r).raceIn { r with turn := (s.walked r).nextId } (racedPieces [(.dev w.d w.a w.l, 8)]) = none := by
    rw [hw.nextId, raceIn_walked]
    exact hrace
  refine ⟨_, hw.trans (noted_recordIn _ { r with turn := (s.walked r).nextId } (racedPieces [(.dev w.d w.a w.l, 8)])), ?_⟩
  rw [deviceAccess_tagOp h htag]
  simp only [State.tagStep, tag_noted hw, tag_clean h hw, tagBit_full hw.mem]
  simp only [hi, wanted_eq]
  rw [if_neg (show ¬(w.full s r == (parkKindOf f != 2)) = true by rwa [beq_iff_eq]), hroomBucket, ← hi,
    if_neg Bool.false_ne_true, if_neg Bool.false_ne_true]
  exact checked_passes hrace' fun u => u.parkAt w.d r (parkKindOf f) (w.tag s r)

end

/-- The record that a PARK leaves. -/
def parkRecord (u : State) (d : BitVec 2) (r : Req) (kind : BitVec 2) : ParkRec :=
  ⟨kind, r.asid, wordOf r.va, (((u.die d).bucket (bucketOf r.asid r.va)).next.setWidth 32), u.coord, r.core, r.ctx, r.id⟩

section
variable (u : State) (d : BitVec 2) (r : Req) (kind : BitVec 2)

theorem appendRec_die : (u.appendRec d r.asid r.va kind r.core r.ctx r.id).die d =
    (u.die d).setBucket { (u.die d).bucket (bucketOf r.asid r.va) with
      next := ((u.die d).bucket (bucketOf r.asid r.va)).next + 1
      recs := ((u.die d).bucket (bucketOf r.asid r.va)).recs ++ [parkRecord u d r kind] } := by
  rw [State.appendRec, die_putBucket]
  rfl

theorem appendRec_reqs : (u.appendRec d r.asid r.va kind r.core r.ctx r.id).reqs = u.reqs := by
  rw [State.appendRec]
  exact offDie_reqs (by rw [State.putBucket, offDie_modDie, offDie_mem])

variable (k : Nat × Nat)

theorem parkAt_mem : (u.parkAt d r kind k).mem = ((u.appendRec d r.asid r.va kind r.core r.ctx r.id).setTag k true true).mem := rfl

theorem parkAt_die : (u.parkAt d r kind k).die d = (u.appendRec d r.asid r.va kind r.core r.ctx r.id).die d := rfl

theorem parkAt_recs : (((u.parkAt d r kind k).die d).bucket (bucketOf r.asid r.va)).recs =
    ((u.die d).bucket (bucketOf r.asid r.va)).recs ++ [parkRecord u d r kind] := by
  rw [parkAt_die, appendRec_die, bucket_setBucket, bucket_idx, if_pos rfl]

theorem parkAt_tagBase : ((u.parkAt d r kind k).die d).tagBase = (u.die d).tagBase := by
  rw [parkAt_die, appendRec_die]
  rfl

theorem parkAt_req? (hr : u.req? r.id = some r) :
    (u.parkAt d r kind k).req? r.id = some { r with phase := .parked, turn := u.nextId } := by
  have hp : (u.appendRec d r.asid r.va kind r.core r.ctx r.id).req? r.id = some r := (req?_of_reqs (appendRec_reqs u d r kind) r.id).trans hr
  have htag := (req?_of_reqs (congrArg State.reqs (setTag_rest (s := u.appendRec d r.asid r.va kind r.core r.ctx r.id) k true true) :) r.id).trans hp
  have hmod := req?_modReq (f := fun q => { q with phase := .parked, turn := u.nextId }) (fun _ => rfl) htag
  exact hmod

theorem appendRec_keeps : u.KeepsData (u.appendRec d r.asid r.va kind r.core r.ctx r.id) := State.putBucket_keeps _ _ _

end

/-! ### Fills and WAKE (08 R191, R195) -/

/-- The one record of a word has been woken: it is gone, and its PARK returns a value. -/
structure Woken (v y : State) (d : BitVec 2) (asid : BitVec 12) (va : Word) (x : ParkRec) (val : Word) : Prop where
  keeps : v.KeepsData y
  tagBase : (y.die d).tagBase = (v.die d).tagBase
  recsOf : (y.die d).recsOf asid va = []
  req : ∀ {q : Req} {ph : ReqPhase}, v.req? x.req = some { q with phase := ph } → y.req? x.req = some { q with phase := .performed, res2 := val }

section
variable {v : State} {d : BitVec 2} {asid : BitVec 12} {va : Word} {x : ParkRec} (h : (v.die d).recsOf asid va = [x])
include h

theorem woken_wakeRec (val : Word) : Woken v (v.wakeRec d x val) d asid va x val where
  keeps := wakeRec_keeps v d x val
  tagBase := (congrArg Die.tagBase (wakeRec_die v d x val) :)
  recsOf := wakeRec_recsOf v d x val h
  req := wakeRec_req? v d x val

/-- 08 R192: the reservation that a woken consumer gets. -/
def State.reserveFor (s : State) (d : BitVec 2) (asid : BitVec 12) (va : Word) (x : ParkRec) (till : Nat) : State :=
  s.modDie d fun y => { y with resvs := y.resvs ++ [⟨wordOf va, asid, x.core, x.ctx, till⟩] }

theorem woken_reserveFor (val : Word) (till : Nat) : Woken v ((v.wakeRec d x val).reserveFor d asid va x till) d asid va x val where
  keeps := (wakeRec_keeps v d x val).trans (.of_mem (State.modDie_mem _ _ _))
  tagBase := by
    rw [State.reserveFor, State.die_modDie]
    exact (congrArg Die.tagBase (wakeRec_die v d x val) :)
  recsOf := by
    rw [State.reserveFor, State.die_modDie]
    exact wakeRec_recsOf v d x val h
  req := fun hq => (req?_of_reqs (State.modDie_reqs _ _ _) x.req).trans (wakeRec_req? v d x val hq)

/-- 08 R191: a fill wakes the one record of its word, and a consumer gets the reservation. -/
theorem wakeFull_one {k : Nat × Nat} (hk : v.tagBit k true = true) (hkind : x.kind = 0 ∨ x.kind = 1) :
    ∃ y, Woken v y d asid va x 1 ∧ v.wakeFull d asid va k = y.settleWaited d asid va k ∧
      (x.kind = 1 → (⟨wordOf va, asid, x.core, x.ctx, v.time + 64⟩ : WordResv) ∈ (y.die d).resvs) := by
  rw [State.wakeFull, if_pos hk, h]
  obtain h0 | h1 := hkind
  · refine ⟨_, woken_wakeRec h 1, ?_, fun h1 => absurd (h0.symm.trans h1) (by decide)⟩
    rw [wakeFullFrom, h0]
    rfl
  · refine ⟨_, woken_reserveFor h 1 (v.time + 64), ?_, fun _ => ?_⟩
    · rw [wakeFullFrom, h1, ← wakeRec_time v d x 1]
      rfl
    · rw [State.reserveFor, State.die_modDie]
      exact List.mem_append_right _ List.mem_cons_self

/-- 08 R195: a WAKE of its kind wakes it. -/
theorem wakeOldest_one {n : Nat} {kind : BitVec 2} (hn : n ≠ 0) (hk : x.kind = kind) :
    ∃ y, Woken v y d asid va x 2 ∧ wakeOldest d kind n [x] v = y ∧ (y.die d).resvs = (v.die d).resvs := by
  obtain ⟨n, rfl⟩ := Nat.exists_eq_succ_of_ne_zero hn
  refine ⟨_, woken_wakeRec h 2, ?_, (congrArg Die.resvs (wakeRec_die v d x 2) :)⟩
  rw [wakeOldest, hk, if_pos (beq_self_eq_true kind)]
  cases n <;> rfl

end

/-- 08 R191: a store that fills a word with one parked record. -/
theorem fillWord_one {s u : State} {r q : Req} {w : TagWord} {x : ParkRec} (hu : Noted s u) (hm : s.memOk = true)
    (hout : (w.tag s r).1 < w.key ∨ w.key + 8 ≤ (w.tag s r).1) (hw : w.waited s r = true)
    (hone : (s.die w.d).recsOf r.asid r.va = [x]) (hkind : x.kind = 0 ∨ x.kind = 1) (hq : s.req? x.req = some q) (b : Nat) :
    ∃ v y ph, Woken v y w.d r.asid r.va x 1 ∧
      (u.storeAt w.key (bytesOfNat b 8)).fillWord w.d r.asid r.va (w.tag s r) = y.settleWaited w.d r.asid r.va (w.tag s r) ∧
      v.memOk = true ∧ (v.die w.d).tagBase = (s.die w.d).tagBase ∧ v.req? x.req = some { q with phase := ph } ∧
      v.tagBit (w.tag s r) false = true ∧
      (x.kind = 1 → (⟨wordOf r.va, r.asid, x.core, x.ctx, s.time + 64⟩ : WordResv) ∈ (y.die w.d).resvs) := by
  have hbit : (w.tag s r).2 + 1 < 8 := tagAt_shift s _ _ _
  have hum : (u.storeAt w.key (bytesOfNat b 8)).memOk = true := State.storeAt_memOk (hu.memOk hm) _ _
  have hreq : (u.storeAt w.key (bytesOfNat b 8)).req? x.req = some q :=
    (req?_of_reqs (State.storeAt_reqs ..) x.req).trans ((hu.req? x.req).trans hq)
  have hdies : (u.storeAt w.key (bytesOfNat b 8)).dies = u.dies := State.storeAt_dies ..
  have htime : (u.storeAt w.key (bytesOfNat b 8)).time = s.time := (State.storeAt_time ..).trans hu.time
  have hwaited : (u.storeAt w.key (bytesOfNat b 8)).tagBit (w.tag s r) true = true :=
    (congrArg (BitVec.getLsbD · ((w.tag s r).2 + 1)) (tag_stored hu hm hout b) :).trans hw
  generalize u.storeAt w.key (bytesOfNat b 8) = z at hum hreq hdies htime hwaited ⊢
  have hrest := setFull_rest (s := z) (w.tag s r) true
  have hvdies : (z.setFull (w.tag s r) true).dies = z.dies := (congrArg State.dies hrest :)
  have hvtime : (z.setFull (w.tag s r) true).time = z.time := (congrArg State.time hrest :)
  have hdie : (z.setFull (w.tag s r) true).die w.d = u.die w.d := by rw [State.die, hvdies, hdies, State.die]
  have hrecs : ((z.setFull (w.tag s r) true).die w.d).recsOf r.asid r.va = [x] := by
    rw [hdie, recsOf_buckets (hu.buckets w.d), hone]
  have hk : (z.setFull (w.tag s r) true).tagBit (w.tag s r) true = true := by
    rw [tagBit_setFull _ hum hbit, if_neg (Ne.symm Bool.false_ne_true), hwaited]
  obtain ⟨ph, hph⟩ := setFull_req? (w.tag s r) true hreq
  obtain ⟨y, hy, hwake, hresv⟩ := wakeFull_one hrecs hk hkind
  rw [hvtime, htime] at hresv
  refine ⟨_, y, ph, hy, hwake, setFull_memOk _ hum true, by rw [hdie, hu.tagBase], hph, ?_, hresv⟩
  rw [tagBit_setFull _ hum hbit, if_pos rfl]

/-- 08 R191: what a step that has woken the one record of its word shows: WAITED is clear, and FULL is as it was left. -/
theorem woken_shows {s v y t : State} {id : Nat} {r q : Req} {ph : ReqPhase} {w : TagWord} {x : ParkRec} {val : Word}
    (hy : Woken v y w.d r.asid r.va x val) (ht : t = (y.settleWaited w.d r.asid r.va (w.tag s r)).performed r 0 0)
    (hbase : (v.die w.d).tagBase = (s.die w.d).tagBase) (hm : v.memOk = true) (hbyte : bucketByte (w.tag s r).1 = false)
    (hq : v.req? x.req = some { q with phase := ph }) (hid : r.id = id) (hne : x.req ≠ id) (hd : r.dests = []) :
    t.req? x.req = some { q with phase := .performed, res2 := val } ∧ w.waited t r = false ∧
      w.full t r = v.tagBit (w.tag s r) false ∧ (t.die w.d).recsOf r.asid r.va = [] ∧ t.dies = y.dies := by
  have hsettle : y.settleWaited w.d r.asid r.va (w.tag s r) = y.setTag (w.tag s r) true false := by
    rw [State.settleWaited, hy.recsOf]
    rfl
  have hbit : (w.tag s r).2 + 1 < 8 := tagAt_shift s _ _ _
  have hym : y.memOk = true := (hy.keeps hm).1
  rw [hsettle] at ht
  have hmem : t.mem = (y.setTag (w.tag s r) true false).mem := ht ▸ performed_mem _ _ _ _
  have hdies : t.dies = y.dies := by rw [ht, performed_dies]; rfl
  have hdie : t.die w.d = y.die w.d := congrArg (fun l : Vector Die 4 => l[w.d.toNat]'(w.d.isLt)) hdies
  have htag : (t.die w.d).tagBase = (s.die w.d).tagBase := by rw [hdie, hy.tagBase, hbase]
  refine ⟨?_, ?_, ?_, ?_, hdies⟩
  · rw [ht, performed_other hid hd 0 0 hne]
    exact hy.req hq
  · rw [waited_eq htag, tagBit_of_mem _ hmem, tagBit_setTag _ hym hbit]
    rfl
  · rw [full_eq htag, tagBit_of_mem _ hmem, tagBit_setTag _ hym hbit, if_neg Bool.false_ne_true]
    exact tagBit_keeps hy.keeps hm hbyte false
  · rw [hdie, hy.recsOf]

theorem access_wake {s : State} {r : Req} {w : TagWord} (h : ReachesWord s r w) {hd : Head} {f : FM} (hi : r.instr = .wake hd f) :
    ∃ u n, Noted s u ∧ (((s.die w.d).recsOf r.asid r.va).length ≠ 0 → n ≠ 0) ∧
      s.deviceAccess r = ((wakeOldest w.d (parkKindOf f) n ((s.die w.d).recsOf r.asid r.va) u).settleWaited w.d r.asid r.va
        (w.tag s r)).performed r 0 0 := by
  have hw := noted_walked s r
  have htag : isTagOp r.instr = true := by rw [hi]; rfl
  have hu := noted_wrote s r w
  refine ⟨_, if (r.data.extractLsb' 0 16).toNat == 0 then ((s.die w.d).recsOf r.asid r.va).length else (r.data.extractLsb' 0 16).toNat,
    hu, fun hn => ?_, ?_⟩
  · split
    · exact hn
    · next hz => exact fun h0 => hz (beq_iff_eq.mpr h0)
  · rw [deviceAccess_tagOp h htag, ← recsOf_buckets (hu.buckets w.d)]
    simp only [State.tagStep, tag_noted hw, tag_clean h hw, checked_passes (word_race h htag)]
    simp only [hi]
    rfl

end Sys2Proof.Machine

open Sys2Proof Sys2Proof.Machine Sys2Proof.Claims

/-- Settles O26: a PARK is answered or leaves its record and WAITED; a fill and a WAKE remove it. -/
theorem parksLeaveRecordsThatAreWoken : Obligations.ParksLeaveRecordsThatAreWoken := by
  unfold Obligations.ParksLeaveRecordsThatAreWoken
  constructor
  · intro s id r w h f hr hready hreach hi hd hm kind bucket
    have hexec := exec_access hr hready hreach.1.1 (by rw [hi]; rfl)
    refine ⟨fun hfull => ?asWanted, fun hfull hroom => ?noRoom, fun hfull hroom hrace => ?parks⟩
    case asWanted =>
      obtain ⟨u, hu, ha, -⟩ := access_park_answers hreach hi
      exact ⟨_, hexec.trans (congrArg _ (ha hfull)), performed_waits (req?_id hr) hr ((hu.req? id).trans hr) hd _ _,
        (performed_mem ..).trans hu.mem⟩
    case noRoom =>
      obtain ⟨u, hu, -, ha⟩ := access_park_answers hreach hi
      exact ⟨_, hexec.trans (congrArg _ (ha hfull hroom)), performed_waits (req?_id hr) hr ((hu.req? id).trans hr) hd _ _,
        (performed_mem ..).trans hu.mem⟩
    case parks =>
      obtain ⟨u, hu, ha⟩ := access_park_parks hreach hi hfull hroom hrace
      have hid := req?_id hr
      have hum : u.memOk = true := hu.memOk hm
      obtain ⟨-, -, -, hbyte, -⟩ := hreach
      have hkeeps := appendRec_keeps u w.d r (parkKindOf f)
      obtain ⟨hpm, hbytes⟩ := hkeeps hum
      have hbase := (parkAt_tagBase u w.d r (parkKindOf f) (w.tag s r)).trans (hu.tagBase w.d)
      have hbit : (w.tag s r).2 + 1 < 8 := tagAt_shift s _ _ _
      refine ⟨_, hexec.trans (congrArg _ ha), ?req, ?waited, ?full, fun y hy hby => ?bytes,
        parkRecord u w.d r (parkKindOf f), ?recs, rfl, hid, rfl, rfl, ?seq, hu.coord⟩
      case req =>
        rw [← hid, parkAt_req? u w.d r _ _ (hid ▸ (hu.req? id).trans hr), hu.nextId]
      case waited =>
        rw [waited_eq hbase, tagBit_of_mem _ (parkAt_mem ..), tagBit_setTag _ hpm hbit]
        rfl
      case full =>
        rw [full_eq hbase, tagBit_of_mem _ (parkAt_mem ..), tagBit_setTag _ hpm hbit, if_neg Bool.false_ne_true,
          tagBit_keeps hkeeps hum hbyte, tagBit_full hu.mem]
      case bytes =>
        rw [parkAt_mem, readByte_setTag _ hpm, if_neg hy, hbytes y hby, hu.mem]
      case recs =>
        rw [parkAt_recs, Die.bucket, hu.buckets]
        rfl
      case seq =>
        rw [parkRecord, Die.bucket, hu.buckets]
        rfl
  · intro s id r w x q hr hready hreach hm hw hone hne hq hd
    have hexec (hi : isTagOp r.instr = true) := exec_access hr hready hreach.1.1 (by simp [isAccess, hi])
    have hid := req?_id hr
    have hreach' := hreach
    obtain ⟨-, -, -, hbyte, hout⟩ := hreach'
    refine ⟨fun h f hi hk => ?fill, fun h f hi hk => ?wake⟩
    case fill =>
      obtain ⟨u, hu, ha⟩ := access_fill hreach (.inr hi)
      obtain ⟨v, y, ph, hy, hwake, hvm, hbase, hreq, hfull, hresv⟩ := fillWord_one hu hm hout hw hone hk hq r.data.toNat
      rw [hwake] at ha
      obtain ⟨hreq, hwaited, hshow, hnone, hdies⟩ := woken_shows (s := s) hy rfl hbase hvm hbyte hreq hid hne hd
      refine ⟨_, (hexec (by rw [hi]; rfl)).trans (congrArg _ ha), hreq, hwaited, hshow.trans hfull, hnone, fun h1 => ?_⟩
      rw [State.die, hdies]
      exact hresv h1
    case wake =>
      obtain ⟨u, n, hu, hn, ha⟩ := access_wake hreach hi
      have hrecs : (u.die w.d).recsOf r.asid r.va = [x] := (recsOf_buckets (hu.buckets w.d) _ _).trans hone
      obtain ⟨y, hy, hwake, hresvs⟩ := wakeOldest_one hrecs (n := n) (kind := parkKindOf f) (hn (by rw [hone]; exact Nat.one_ne_zero)) hk
      rw [hone, hwake] at ha
      obtain ⟨hreq, hwaited, hfull, hnone, hdies⟩ := woken_shows (s := s) hy rfl (hu.tagBase w.d) (hu.memOk hm) hbyte
        (q := q) (ph := q.phase) ((hu.req? x.req).trans hq) hid hne hd
      refine ⟨_, (hexec (by rw [hi]; rfl)).trans (congrArg _ ha), hreq, hwaited, hfull.trans (tagBit_full hu.mem), hnone, ?_⟩
      exact (congrArg (fun l : Vector Die 4 => (l[w.d.toNat]'(w.d.isLt)).resvs) hdies).trans (hresvs.trans (hu.resvs w.d))
end

section
/-! Gathers and scatters (08 R185 to R187). -/
namespace Sys2Proof.Machine
open Sys2Proof.Claims

/-! ### Lanes of a vector, and masks from lists of elements -/

/-- The number that lanes of `w` bits make, lane 0 lowest. -/
def packed (w : Nat) (l : List Nat) : Nat := l.foldr (fun x acc => x % 2 ^ w + 2 ^ w * acc) 0

theorem packed_lane (w : Nat) : ∀ (l : List Nat) (i : Nat), packed w l / 2 ^ (w * i) % 2 ^ w = l.getD i 0 % 2 ^ w
  | [], i => by simp [packed]
  | x :: l, 0 => by simp [packed]
  | x :: l, i + 1 => by
    have hlow : packed w (x :: l) / 2 ^ w = packed w l := by
      show (x % 2 ^ w + 2 ^ w * packed w l) / 2 ^ w = _
      rw [Nat.add_mul_div_left _ _ (Nat.two_pow_pos w), Nat.div_eq_of_lt (Nat.mod_lt _ (Nat.two_pow_pos w)), Nat.zero_add]
    rw [Nat.mul_succ, Nat.add_comm, Nat.pow_add, ← Nat.div_div_eq_div_mul, hlow, packed_lane w l i, List.getD_cons_succ]

theorem mod_two_pow_div {n a b c : Nat} (h : b + c ≤ a) : n % 2 ^ a / 2 ^ b % 2 ^ c = n / 2 ^ b % 2 ^ c := by
  obtain ⟨k, rfl⟩ := Nat.exists_eq_add_of_le h
  rw [Nat.add_assoc, Nat.pow_add 2 b, Nat.mod_mul_right_div_self, Nat.pow_add, Nat.mod_mul_right_mod]

/-- A lane of a vector of 32-bit lanes. -/
theorem extract_ofLanes (l : List Nat) {i : Nat} (h : i < 64) : (ofLanes 32 l).extractLsb' (32 * i) 32 = BitVec.ofNat 32 (l.getD i 0) := by
  apply BitVec.eq_of_toNat_eq
  rw [toNat_bits, BitVec.toNat_ofNat, ofLanes, BitVec.toNat_ofNat, mod_two_pow_div (a := 2048) (b := 32 * i) (c := 32) (by omega)]
  exact packed_lane 32 l i

/-- The mask whose bits are the elements of a list. -/
def bitsOfList (l : List Nat) : Nat := l.foldl (fun m e => m + 2 ^ e) 0

theorem bitsOfList_append (l : List Nat) (e : Nat) : bitsOfList (l ++ [e]) = bitsOfList l + 2 ^ e := by
  simp [bitsOfList]

theorem bitsOfList_filter (q : Nat → Bool) : ∀ n : Nat, bitsOfList ((List.range n).filter q) < 2 ^ n ∧
    ∀ e, (bitsOfList ((List.range n).filter q)).testBit e = (decide (e < n) && q e)
  | 0 => ⟨by simp [bitsOfList], fun e => by simp [bitsOfList]⟩
  | n + 1 => by
    obtain ⟨hlt, hbit⟩ := bitsOfList_filter q n
    rw [List.range_succ, List.filter_append]
    cases hq : q n with
    | false =>
      rw [List.filter_cons_of_neg (by simp [hq]), List.filter_nil, List.append_nil]
      refine ⟨hlt.trans (Nat.pow_lt_pow_right one_lt_two (Nat.lt_succ_self n)), fun e => ?_⟩
      rw [hbit]
      by_cases he : e = n
      · simp [he, hq]
      · rw [decide_eq_decide.mpr (show e < n + 1 ↔ e < n by omega)]
    | true =>
      rw [List.filter_cons_of_pos hq, List.filter_nil, bitsOfList_append]
      refine ⟨by rw [Nat.pow_succ]; omega, fun e => ?_⟩
      rw [Nat.add_comm]
      by_cases he : e = n
      · rw [he, Nat.testBit_two_pow_add_eq, hbit]
        simp [hq]
      · obtain hl | hg := Nat.lt_or_gt_of_ne he
        · rw [Nat.testBit_two_pow_add_gt hl, hbit]
          simp [hl, Nat.lt_succ_of_lt hl]
        · have hbig : 2 ^ n + bitsOfList ((List.range n).filter q) < 2 ^ e :=
            (by rw [Nat.pow_succ]; omega : _ < 2 ^ (n + 1)).trans_le (Nat.pow_le_pow_right two_pos hg)
          rw [Nat.testBit_lt_two_pow hbig]
          simp [Nat.not_lt.mpr (Nat.succ_le_of_lt hg)]

/-! ### GATH (08 R186) -/

/-- The elements that take part. -/
def partakes (r : Req) : List Nat := (List.range 64).filter fun e => r.mask.getLsbD e

theorem mem_partakes {r : Req} {e : Nat} : e ∈ partakes r ↔ e < 64 ∧ r.mask.getLsbD e = true := by
  rw [partakes, List.mem_filter, List.mem_range]

/-- An element with its address and its place. -/
def State.elem (s : State) (r : Req) (rd wr : Bool) (e : Nat) : Nat × Word × Place :=
  (e, elementAddr r.va r.idx e, s.placeAt r.core.die r.asid (elementAddr r.va r.idx e) rd wr false)

theorem elements_eq (s : State) (r : Req) (rd wr : Bool) : s.elements r rd wr = (partakes r).map (s.elem r rd wr) := rfl

theorem noted_fillElems (s : State) (r : Req) (es : List (Nat × Word × Place)) : Noted s (s.fillElems r es) :=
  noted_foldl (fun t _ => noted_fillRange t _ _ _) es s

theorem exec_gath {s : State} {id : Nat} {r : Req} {h : Head} {f : F4} (hr : s.req? id = some r) (hd : s.reqReady r = true)
    (hi : r.instr = .gath h f) : exec (.deviceMemoryRequest id) s = .next (s.gather r) := by
  show execDeviceMemoryRequest id s = _
  simp only [execDeviceMemoryRequest, hr, hd, hi]
  rfl

theorem exec_scat {s : State} {id : Nat} {r : Req} {h : Head} {f : F4} (hr : s.req? id = some r) (hd : s.reqReady r = true)
    (hi : r.instr = .scat h f) : exec (.deviceMemoryRequest id) s = .next (s.scatter r) := by
  show execDeviceMemoryRequest id s = _
  simp only [execDeviceMemoryRequest, hr, hd, hi]
  rfl

/-- What GATH delivers for an element: its word where it is resident. -/
def State.gathered (s : State) (res : List (Nat × Word × Place)) (i : Nat) : Nat :=
  match res.find? fun e => e.1 == i with
  | some e => natOfBytes (s.readDev e.2.2 4)
  | none => 0

/-- 08 R186: a GATH none of whose elements has a cause. -/
theorem gather_clean {s : State} {r : Req} (hbad : (s.elements r true false).filterMap (s.gathCause r) = [])
    (hnear : ∀ e ∈ s.elements r true false, e.2.2 ≠ .remote) :
    ∃ u, Noted s u ∧ s.gather r = u.performed r
      (ofLanes 32 ((List.range 64).map ((s.fillElems r (s.elements r true false)).gathered
        ((s.elements r true false).filter fun e => e.2.2.isDev))))
      (BitVec.ofNat 64 (bitsOfList (((s.elements r true false).filter fun e => e.2.2.isDev).map (·.1)))) := by
  have hfar : ((s.elements r true false).any fun e => e.2.2 == .remote) = false := by
    rw [List.any_eq_false]
    exact fun e he => by simpa using hnear e he
  have hu := ((noted_fillElems s r (s.elements r true false)).trans (noted_recordIn _ r
    (((s.elements r true false).filter fun e => e.2.2.isDev).flatMap fun e => racedPieces [(e.2.2, 4)]))).trans
    (noted_foldl (f := fun s (e : Nat × Word × Place) => s.countSubst r.asid [(e.2.2, 4)]) (fun t e => noted_countSubst t _ _)
      ((s.elements r true false).filter fun e => e.2.2.isDev) _)
  refine ⟨_, hu, ?_⟩
  simp only [State.gather, hbad, State.performedHere, hfar]
  rfl

/-- An element that has no cause: its page is resident and may be read, it is held, or it lies elsewhere. -/
theorem gathCause_none {s : State} {r : Req} {e : Nat}
    (h : ((s.elem r true false e).2.2.isDev = true ∧ isPoisoned s.poison (s.elem r true false e).2.2.key 4 = false ∧
        s.raceIn r (racedPieces [((s.elem r true false e).2.2, 4)]) = none) ∨
      (∃ w, (s.elem r true false e).2.2 = .held w) ∨ (∃ a, (s.elem r true false e).2.2 = .host a) ∨
      (∃ n, (s.elem r true false e).2.2 = .bad n ∧ (s.elem r false false e).2.2.isDev = false)) :
    s.gathCause r (s.elem r true false e) = none ∧ (s.elem r true false e).2.2 ≠ .remote := by
  obtain ⟨hdev, hclean, hrace⟩ | ⟨w, hw⟩ | ⟨a, ha⟩ | ⟨n, hn, hres⟩ := h
  · cases hp : (s.elem r true false e).2.2 with
    | dev d a l =>
      rw [hp] at hclean hrace
      have hpoison : s.poisonAt (.dev d a l) 4 = false := by simp [State.poisonAt, hclean]
      refine ⟨?_, Place.noConfusion⟩
      simp only [State.gathCause, hp, hpoison, hrace]
      rfl
    | host | remote | held | bad => rw [hp] at hdev; cases hdev
  · rw [hw]
    exact ⟨by simp only [State.gathCause, hw], Place.noConfusion⟩
  · rw [ha]
    exact ⟨by simp only [State.gathCause, ha], Place.noConfusion⟩
  · refine ⟨?_, by rw [hn]; exact Place.noConfusion⟩
    have hres' : (s.placeAt r.core.die r.asid (s.elem r true false e).2.1 false false false).isDev = false := hres
    simp only [State.gathCause, hn, hres']
    split
    · rfl
    · next h => cases h
    · rfl

/-- 08 R186: a cause of any element stops the GATH. -/
theorem gather_denied {s : State} {r : Req} (h : (s.elements r true false).filterMap (s.gathCause r) ≠ []) :
    s.gather r = s.failElems r ((s.elements r true false).filterMap (s.gathCause r)) := by
  have hne : ((s.elements r true false).filterMap (s.gathCause r)).isEmpty = false := by rwa [← Bool.not_eq_true, List.isEmpty_iff]
  simp only [State.gather, hne, Bool.not_false, if_true]

/-- The resident element of a number. -/
theorem find_elem {F : Nat → Nat × Word × Place} (hF : ∀ e, (F e).1 = e) (g : Nat × Word × Place → Bool) (i : Nat) : ∀ l : List Nat,
    (((l.map F).filter g).find? fun e => e.1 == i) = if i ∈ l ∧ g (F i) = true then some (F i) else none
  | [] => by simp
  | e :: l => by
    rw [List.map_cons]
    by_cases hg : g (F e) = true
    · rw [List.filter_cons_of_pos hg, List.find?_cons, hF]
      by_cases he : e = i
      · subst he; simp [hg]
      · rw [beq_eq_false_iff_ne.mpr he]
        simp [Ne.symm he, find_elem hF g i l]
    · rw [List.filter_cons_of_neg hg, find_elem hF g i l]
      by_cases he : e = i
      · subst he; simp [hg]
      · simp [Ne.symm he]

theorem gathered_eq {s t : State} (ht : Noted s t) {r : Req} {e : Nat} (he : e < 64)
    (hclean : r.mask.getLsbD e = true → (s.elem r true false e).2.2.isDev = true → isPoisoned s.poison (s.elem r true false e).2.2.key 4 = false) :
    t.gathered ((s.elements r true false).filter fun e => e.2.2.isDev) e =
      if r.mask.getLsbD e && (s.elem r true false e).2.2.isDev then readNat s.mem (s.elem r true false e).2.2.key 4 else 0 := by
  rw [State.gathered, elements_eq, find_elem (F := s.elem r true false) (fun _ => rfl) (fun e => e.2.2.isDev)]
  by_cases hm : r.mask.getLsbD e = true ∧ (s.elem r true false e).2.2.isDev = true
  · obtain ⟨hm, hdev⟩ := hm
    have hc := hclean hm hdev
    rw [← ht.poison] at hc
    rw [if_pos ⟨mem_partakes.mpr ⟨he, hm⟩, hdev⟩, hm, hdev]
    cases hp : (s.elem r true false e).2.2 with
    | dev d a l =>
      rw [hp] at hc
      simp only [hp, State.readDev, hc, Bool.and_false, Bool.false_eq_true, if_false, ht.mem, Bool.and_self, if_true]
      rfl
    | host | remote | held | bad => rw [hp] at hdev; cases hdev
  · rw [if_neg fun h => hm ⟨(mem_partakes.mp h.1).2, h.2⟩, if_neg (by rwa [Bool.and_eq_true])]

theorem resident_ids (s : State) (r : Req) : ((s.elements r true false).filter fun e => e.2.2.isDev).map (·.1) =
    (List.range 64).filter fun e => r.mask.getLsbD e && (s.elem r true false e).2.2.isDev := by
  have hid : (fun e : Nat × Word × Place => e.1) ∘ s.elem r true false = id := rfl
  rw [elements_eq, List.filter_map, List.map_map, hid, List.map_id, partakes, List.filter_filter]
  exact congrArg (fun q => (List.range 64).filter q) (funext fun e => Bool.and_comm _ _)

/-! ### Causes of elements (11 R280) -/

theorem failReq_life (s : State) (r : Req) (hl : (s.ctx r.core r.ctx).life = .running) (code : Nat) (a i : Word) (e : Nat) (w : Word) :
    ((s.failReq r code a i e w).ctx r.core r.ctx).life = .running := by
  have hw := withdraw_rest (s.ctx r.core r.ctx) r.id r.dests
  show (((s.dropReq r.id).reportReq r code a i e w).ctx r.core r.ctx).life = _
  rw [State.reportReq, State.ctx_modCtx]
  have hc : (s.dropReq r.id).ctx r.core r.ctx = s.ctx r.core r.ctx := rfl
  rw [hc]
  generalize s.ctx r.core r.ctx = c at hl hw ⊢
  have hlife : (c.withdraw r.id r.dests).life = .running := (congrArg Ctx.life hw).trans hl
  simp only [hlife]
  rfl

/-- The report of a cause of an element. -/
def elemReport (r : Req) (x : Nat × Nat × Word × Word) : Report :=
  ⟨r.id, r.acc, r.bundle, x.1, r.handler, ⟨BitVec.ofNat 9 x.2.1, r.slot, x.2.2.1, x.2.2.2⟩, 0, 0⟩

theorem failElems_reports (r : Req) : ∀ (l : List (Nat × Nat × Word × Word)) (s : State), (s.ctx r.core r.ctx).life = .running →
    ((s.failElems r l).ctx r.core r.ctx).reports = (s.ctx r.core r.ctx).reports ++ l.map (elemReport r)
  | [], s, _ => (List.append_nil _).symm
  | x :: l, s, hl => by
    have hstep := failElems_reports r l (s.failReq r x.2.1 x.2.2.1 x.2.2.2 x.1 0) (failReq_life s r hl _ _ _ _ _)
    rw [failReq_reports s r hl, List.append_assoc] at hstep
    exact hstep

theorem failElems_mem (s : State) (r : Req) (l : List (Nat × Nat × Word × Word)) : (s.failElems r l).mem = s.mem :=
  foldl_mem (fun _ _ => State.failReq_mem _ _ _ _ _ _ _) l s

theorem failElems_req? (s : State) {r : Req} {id : Nat} (hid : r.id = id) {l : List (Nat × Nat × Word × Word)} (hl : l ≠ []) :
    (s.failElems r l).req? id = none := by
  obtain ⟨x, l, rfl⟩ := List.exists_cons_of_ne_nil hl
  exact foldl_keeps (p := fun t : State => t.req? id = none) (fun t _ _ => failReq_req? t hid _ _ _ _ _) l _ (failReq_req? s hid _ _ _ _ _)

/-- 08 R186: an element of a resident page that may not be read has the memory-permission cause. -/
theorem gathCause_denied {s : State} {r : Req} {e : Nat} (hbad : (s.elem r true false e).2.2 = .bad 1)
    (hres : (s.elem r false false e).2.2.isDev = true) :
    s.gathCause r (s.elem r true false e) = some (e, 0x112, elementAddr r.va r.idx e, kindInfo 1) := by
  have hres' : (s.placeAt r.core.die r.asid (s.elem r true false e).2.1 false false false).isDev = true := hres
  simp only [State.gathCause, hbad, hres', if_true]
  rfl

/-! ### SCAT (08 R187) -/

/-- The bytes that an element of a SCAT writes. -/
def State.scatterElem (s : State) (r : Req) (e : Nat × Word × Place) : State :=
  (s.recordIn r (racedPieces [(e.2.2, 4)])).storeAt e.2.2.key (bytesOfNat (lane 32 r.data e.1) 4)

theorem scatterElem_mem (r : Req) (s : State) (e : Nat × Word × Place) :
    (s.scatterElem r e).mem = writeBytes s.mem e.2.2.key (bytesOfNat (lane 32 r.data e.1) 4) := by
  rw [State.scatterElem, ← (noted_recordIn s r (racedPieces [(e.2.2, 4)])).mem]
  rfl

/-- 08 R187: a SCAT whose elements all lie here and race with nothing writes them one after the other. -/
theorem scatter_local {s : State} {r : Req} (h : ∀ e ∈ s.elements r false true, Local e.2.2 ∧ s.raceIn r (racedPieces [(e.2.2, 4)]) = none) :
    s.scatter r = ((s.elements r false true).foldl (fun s e => s.scatterElem r e) (s.fillElems r (s.elements r false true))).performed r 0 0 := by
  have hfar : ((s.elements r false true).any fun e => e.2.2 == .remote) = false := by
    rw [List.any_eq_false]
    intro e he
    obtain ⟨d, a, l, hp⟩ | ⟨a, hp⟩ := (h e he).1 <;> rw [hp] <;> exact fun h => Place.noConfusion (beq_iff_eq.mp h)
  simp only [State.scatter]
  split
  · next e hfind =>
    have hheld := List.find?_some hfind
    obtain ⟨d, a, l, hp⟩ | ⟨a, hp⟩ := (h e (List.mem_of_find?_eq_some hfind)).1
    all_goals
      simp only [hp] at hheld
      cases hheld
  · rw [List.filter_eq_self.mpr ?here, List.filterMap_eq_nil_iff.mpr ?races, List.filterMap_eq_nil_iff.mpr ?denied]
    case here =>
      intro e he
      obtain ⟨d, a, l, hp⟩ | ⟨a, hp⟩ := (h e he).1 <;> simp only [hp]
    case races =>
      intro e he
      rw [(h e he).2]
      rfl
    case denied =>
      intro e he
      obtain ⟨d, a, l, hp⟩ | ⟨a, hp⟩ := (h e he).1 <;> simp only [hp]
    simp only [State.performedHere, hfar]
    rfl

/-- Memory after an element of a SCAT. -/
def scatterMem (r : Req) (m : Memory) (e : Nat × Word × Place) : Memory := writeBytes m e.2.2.key (bytesOfNat (lane 32 r.data e.1) 4)

theorem scattered_mem (r : Req) : ∀ (l : List (Nat × Word × Place)) (s : State),
    (l.foldl (fun s e => s.scatterElem r e) s).mem = l.foldl (scatterMem r) s.mem
  | [], _ => rfl
  | e :: l, s => by rw [List.foldl_cons, scattered_mem r l, scatterElem_mem, List.foldl_cons, scatterMem]

theorem scatterMem_wf {r : Req} {m : Memory} (hm : m.wf = true) (e : Nat × Word × Place) : (scatterMem r m e).wf = true :=
  writeBytes_wf _ _ hm

theorem foldl_scatterMem_wf {r : Req} {m : Memory} (hm : m.wf = true) (l : List (Nat × Word × Place)) : Memory.wf (l.foldl (scatterMem r) m) = true :=
  foldl_keeps (p := fun m : Memory => m.wf = true) (fun _ e h => scatterMem_wf h e) l m hm

/-- A byte that no element covers stays. -/
theorem readByte_scattered_other {r : Req} {a : Nat} : ∀ {l : List (Nat × Word × Place)} {m : Memory}, m.wf = true →
    (∀ e ∈ l, a < e.2.2.key ∨ e.2.2.key + 4 ≤ a) → readByte (l.foldl (scatterMem r) m) a = readByte m a
  | [], _, _, _ => rfl
  | e :: l, m, hm, h => by
    have hout := h e List.mem_cons_self
    rw [List.foldl_cons, readByte_scattered_other (scatterMem_wf hm e) fun g hg => h g (List.mem_cons_of_mem e hg), scatterMem,
      readByte_writeBytes_bytesOfNat hm, storedByte, if_neg (by omega)]

/-- 08 R187: of the elements with a common byte the last one written stands. -/
theorem readByte_scattered_last {r : Req} {a : Nat} {m : Memory} (hm : m.wf = true) (l l' : List (Nat × Word × Place))
    {e : Nat × Word × Place} (hin : e.2.2.key ≤ a ∧ a < e.2.2.key + 4) (hlast : ∀ g ∈ l', a < g.2.2.key ∨ g.2.2.key + 4 ≤ a) :
    readByte ((l ++ e :: l').foldl (scatterMem r) m) a = BitVec.ofNat 8 (lane 32 r.data e.1 / 256 ^ (a - e.2.2.key)) := by
  have hwf := foldl_scatterMem_wf (r := r) hm l
  rw [List.foldl_append, List.foldl_cons, readByte_scattered_other (scatterMem_wf hwf e) hlast, scatterMem,
    readByte_writeBytes_bytesOfNat hwf, storedByte, if_pos hin]

/-- The elements after one that takes part have higher numbers. -/
theorem partakes_split {r : Req} {e : Nat} (he : e ∈ partakes r) :
    ∃ l l', partakes r = l ++ e :: l' ∧ ∀ g ∈ l', e < g ∧ g ∈ partakes r := by
  obtain ⟨l, l', hl⟩ := List.append_of_mem he
  have hsorted : (partakes r).Pairwise (· < ·) := List.pairwise_lt_range.filter _
  rw [hl] at hsorted
  refine ⟨l, l', hl, fun g hg => ⟨(List.pairwise_cons.mp (List.pairwise_append.mp hsorted).2.1).1 g hg, ?_⟩⟩
  rw [hl]
  exact List.mem_append_right _ (List.mem_cons_of_mem e hg)

end Sys2Proof.Machine

open Sys2Proof Sys2Proof.Machine Sys2Proof.Claims

/-- Settles O24: a GATH delivers its resident elements or reports a cause; a SCAT writes its elements in ascending order. -/
theorem gathersReadAndScattersWriteTheirElements : Obligations.GathersReadAndScattersWriteTheirElements := by
  unfold Obligations.GathersReadAndScattersWriteTheirElements
  refine ⟨fun s id r h f hr hready hi hd => ⟨fun hplace => ?gath, fun e he hm hbad hres hl => ?denied⟩,
    fun s id r h f hr hready hi hd hm => ?scat⟩
  case gath =>
    have hnone (e : Nat) (he : e ∈ partakes r) := gathCause_none (hplace e (mem_partakes.mp he).1 (mem_partakes.mp he).2)
    have hcauses : (s.elements r true false).filterMap (s.gathCause r) = [] := by
      rw [elements_eq, List.filterMap_eq_nil_iff]
      intro x hx
      obtain ⟨e, he, rfl⟩ := List.mem_map.mp hx
      exact (hnone e he).1
    have hnear : ∀ x ∈ s.elements r true false, x.2.2 ≠ .remote := by
      intro x hx
      obtain ⟨e, he, rfl⟩ := List.mem_map.mp hx
      exact (hnone e he).2
    obtain ⟨u, hu, hg⟩ := gather_clean hcauses hnear
    refine ⟨_, (exec_gath hr hready hi).trans (congrArg _ hg), _, _, performed_waits (req?_id hr) hr ((hu.req? id).trans hr) hd _ _,
      (performed_mem ..).trans hu.mem, fun e he => ⟨?_, ?_⟩⟩
    · rw [resident_ids, BitVec.getLsbD_ofNat, (bitsOfList_filter _ 64).2]
      simp [he]
      rfl
    · have hval := gathered_eq (t := s.fillElems r (s.elements r true false)) (noted_fillElems s r _) he fun hm hdev => by
        obtain ⟨-, hclean, -⟩ | ⟨w, hw⟩ | ⟨a, ha⟩ | ⟨n, hn, -⟩ := hplace e he hm
        · exact hclean
        · rw [show (s.elem r true false e).2.2 = .held w from hw] at hdev; cases hdev
        · rw [show (s.elem r true false e).2.2 = .host a from ha] at hdev; cases hdev
        · rw [show (s.elem r true false e).2.2 = .bad n from hn] at hdev; cases hdev
      have hget (g : Nat → Nat) : ((List.range 64).map g).getD e 0 = g e := by simp [List.getD_eq_getElem?_getD, he]
      rw [extract_ofLanes _ he, hget, hval, apply_ite (BitVec.ofNat 32)]
      rfl
  case denied =>
    have hcause := gathCause_denied hbad hres
    have hmem := List.mem_filterMap.mpr ⟨_, List.mem_map.mpr ⟨e, mem_partakes.mpr ⟨he, hm⟩, rfl⟩, hcause⟩
    have hg := gather_denied (List.ne_nil_of_mem hmem)
    refine ⟨_, (exec_gath hr hready hi).trans (congrArg _ hg), failElems_req? s (req?_id hr) (List.ne_nil_of_mem hmem), failElems_mem _ _ _,
      elemReport r (e, 0x112, elementAddr r.va r.idx e, kindInfo 1), ?_, req?_id hr, rfl, rfl, rfl, rfl⟩
    rw [failElems_reports r _ s hl]
    exact List.mem_append_right _ (List.mem_map.mpr ⟨_, hmem, rfl⟩)
  case scat =>
    intro p hlocal
    have hscat := scatter_local (s := s) (r := r) fun x hx => by
      obtain ⟨e, he, rfl⟩ := List.mem_map.mp hx
      exact hlocal e (mem_partakes.mp he).1 (mem_partakes.mp he).2
    have hfill := noted_fillElems s r (s.elements r false true)
    refine ⟨_, (exec_scat hr hready hi).trans (congrArg _ hscat), performed_done (req?_id hr) hd _ _, fun a => ⟨fun hout => ?_,
      fun e he hmask hlo hhi hlast => ?_⟩⟩
    · rw [performed_mem, scattered_mem, hfill.mem]
      refine readByte_scattered_other hm fun x hx => ?_
      obtain ⟨e, he, rfl⟩ := List.mem_map.mp hx
      exact hout e (mem_partakes.mp he).1 (mem_partakes.mp he).2
    · obtain ⟨l, l', hl, hafter⟩ := partakes_split (mem_partakes.mpr ⟨he, hmask⟩)
      rw [performed_mem, scattered_mem, hfill.mem, elements_eq, hl, List.map_append, List.map_cons]
      refine readByte_scattered_last hm _ _ (e := s.elem r false true e) ⟨hlo, hhi⟩ fun x hx => ?_
      obtain ⟨g, hg, rfl⟩ := List.mem_map.mp hx
      obtain ⟨hlt, hg⟩ := hafter g hg
      exact hlast g hlt (mem_partakes.mp hg).1 (mem_partakes.mp hg).2
end

section
/-! SUPPORT. What an operation of the M or C slot leaves when it has been queued (09 R209, R229): its core is another one, and
numbers have been taken; nothing else has changed. -/
namespace Sys2Proof.Machine
open Sys2Proof.Claims

/-- The current core has become `k`, the next number is `n`, and nothing else has changed. -/
structure CoreSet (s t : State) (n : Nat) (k : Core) : Prop where
  core : t.core s.cur.core = k
  others : ∀ c, c ≠ s.cur.core → t.core c = s.core c
  rest : t = { s with cores := t.cores, nextId := n }

namespace CoreSet

theorem refl (s : State) : CoreSet s s s.nextId s.cc := ⟨rfl, fun _ _ => rfl, rfl⟩

section
variable {s t : State} {n : Nat} {k : Core} (h : CoreSet s t n k)
include h

theorem cur : t.cur = s.cur := (congrArg State.cur h.rest :)
theorem nextId : t.nextId = n := (congrArg State.nextId h.rest :)
theorem iss : t.iss = s.iss := by rw [State.iss, h.cur, show t.issue = s.issue from (congrArg State.issue h.rest :), State.iss]
theorem cc : t.cc = k := by rw [State.cc, h.cur, h.core]
theorem cx : t.cx = k.getCtx s.cur.ctx := by rw [← h.cc, State.cx, State.ctx, h.cur, State.cc, h.cur]

theorem number (m : Nat) : CoreSet s { t with nextId := m } m k :=
  ⟨h.core, h.others, (congrArg (fun u : State => { u with nextId := m }) h.rest :)⟩

theorem modCc (f : Core → Core) : CoreSet s (t.modCc f) n (f k) where
  core := by rw [State.modCc, h.cur, State.core_modCore, h.core]
  others := fun c hc => by rw [State.modCc, h.cur, State.core_modCore_ne _ _ hc, h.others c hc]
  rest := by
    have hrest : t.modCc f = { t with cores := (t.modCc f).cores } := rfl
    rw [hrest]
    exact (congrArg (fun u : State => { u with cores := (t.modCc f).cores }) h.rest :)

theorem modCx (f : Ctx → Ctx) : CoreSet s (t.modCx f) n (k.setCtx s.cur.ctx (f (k.getCtx s.cur.ctx))) := by
  have hmod : t.modCx f = t.modCc fun c => c.setCtx t.cur.ctx (f t.cx) := rfl
  rw [hmod, h.cx, h.cur]
  exact h.modCc _

end

end CoreSet

theorem setCtx_setCtx (k : Core) (x : BitVec 2) (a b : Ctx) : (k.setCtx x a).setCtx x b = k.setCtx x b := by
  simp [Core.setCtx]

/-- What pending registers, and waits, leave of a context's registers (02 R45). -/
theorem getReg_awaiting (c : Ctx) (id : Nat) (acc : Bool) (l : List Reg) (r : Reg) : (c.awaiting id acc l).getReg r = c.getReg r := by
  cases r <;> rfl

/-- The slice waits. -/
def Ctx.waiting (c : Ctx) (acc : Bool) (w : Wait) : Ctx := if acc then { c with waitA := w } else { c with waitX := w }

theorem getReg_waiting (c : Ctx) (acc : Bool) (w : Wait) (r : Reg) : (c.waiting acc w).getReg r = c.getReg r := by
  cases acc <;> cases r <;> rfl

end Sys2Proof.Machine
end

section
/-! Operations that enter the array queue (09 R209, R213 to R219, R221 to R228, 02 R50). -/
namespace Sys2Proof.Machine
open Sys2Proof.Claims

/-- The operation that an M-slot operation becomes, with what it reads at issue. -/
def State.arrayOp (s : State) (i : Instr) (mp : BitVec 128) (sA : Word) (vs : List Vec) : ArrayOp :=
  { id := s.nextId, ctx := s.cur.ctx, acc := s.cur.acc, bundle := if s.cur.acc then s.cx.countA else s.cx.issueX
    handler := s.cx.hmode, instr := i, mp := mp, fmt := s.cx.fmtNow s.cur.acc, sA := sA, vs := vs, pc := s.cur.pc
    waits := s.cx.holdIds 3 true, got := [], gotB := [], gotC := [] }

/-- The context that has queued an operation: its destinations are pending, and its slice may wait for it. -/
def State.queuedCx (s : State) (o : ArrayForm) : Ctx :=
  let c := s.cx.awaiting s.nextId s.cur.acc o.dests
  if o.blocks then c.waiting s.cur.acc (.array s.nextId) else c

/-- The core of an operation that has entered the array queue. -/
def State.queuedCc (s : State) (o : ArrayForm) (i : Instr) : Core :=
  Core.setCtx { s.cc with
    owner := if o.owns then some s.cur.ctx else s.cc.owner
    arrayQ := s.cc.arrayQ ++ [s.arrayOp i o.mp o.sA o.vs] } s.cur.ctx (s.queuedCx o)

/-- The state in which an operation enters the queue: one that takes the Triptych is its owner (02 R50). -/
def State.owned (s : State) (o : ArrayForm) : State :=
  if o.owns then s.modCc fun k => { k with owner := some s.cur.ctx } else s

section
variable (s : State) (o : ArrayForm) (i : Instr)

theorem coreSet_owned : CoreSet s (s.owned o) s.nextId { s.cc with owner := if o.owns then some s.cur.ctx else s.cc.owner } := by
  unfold State.owned
  split
  · exact (CoreSet.refl s).modCc _
  · exact .refl s

/-- Taking the Triptych shows in its owner alone. -/
theorem owned_cx : (s.owned o).cx = s.cx := (coreSet_owned s o).cx

theorem owned_arrayOp : (s.owned o).arrayOp i o.mp o.sA o.vs = s.arrayOp i o.mp o.sA o.vs := by
  rw [State.arrayOp, State.arrayOp, owned_cx, (coreSet_owned s o).cur, (coreSet_owned s o).nextId]

/-- 09 R209: the operation stands at the end of the queue, and its destinations are pending. -/
theorem coreSet_enqueueArray : CoreSet s ((s.owned o).enqueueArray i o.mp o.sA o.vs o.dests) (s.nextId + 1)
    (Core.setCtx { s.cc with
      owner := if o.owns then some s.cur.ctx else s.cc.owner
      arrayQ := s.cc.arrayQ ++ [s.arrayOp i o.mp o.sA o.vs] } s.cur.ctx (s.cx.awaiting s.nextId s.cur.acc o.dests)) := by
  have henter : (s.owned o).enqueueArray i o.mp o.sA o.vs o.dests =
      (({ s.owned o with nextId := (s.owned o).nextId + 1 } : State).modCc fun k =>
        { k with arrayQ := k.arrayQ ++ [(s.owned o).arrayOp i o.mp o.sA o.vs] }).modCx fun c =>
          c.awaiting (s.owned o).nextId (s.owned o).cur.acc o.dests := rfl
  rw [henter, owned_arrayOp, (coreSet_owned s o).nextId, (coreSet_owned s o).cur]
  exact (((coreSet_owned s o).number _).modCc _).modCx _

/-- 09 R223, R226, R227: and its slice waits for it, if it is one that blocks. -/
theorem coreSet_queued : CoreSet s (if o.blocks then ((s.owned o).enqueueArray i o.mp o.sA o.vs o.dests).blockOnArray
    else (s.owned o).enqueueArray i o.mp o.sA o.vs o.dests) (s.nextId + 1) (s.queuedCc o i) := by
  have h := coreSet_enqueueArray s o i
  rw [State.queuedCc, State.queuedCx]
  split
  · have hblock := h.modCx fun c => c.waiting s.cur.acc (.array s.nextId)
    rw [Core.getCtx_setCtx, setCtx_setCtx] at hblock
    have hwait : ((s.owned o).enqueueArray i o.mp o.sA o.vs o.dests).blockOnArray =
        ((s.owned o).enqueueArray i o.mp o.sA o.vs o.dests).modCx fun c => c.waiting s.cur.acc (.array s.nextId) := by
      rw [State.blockOnArray, h.nextId, h.cur]
      rfl
    rw [hwait]
    exact hblock
  · exact h

end

/-! ### The destinations (09 R216, R218) -/

theorem vRegs_succ (d n : Nat) : vRegs d (n + 1) = vRegs d n ++ [.v (BitVec.ofNat 5 (d + n))] := by
  simp [vRegs, List.range_succ]

/-- The parts of row `i` of an ACCRD that go to a register: their registers. -/
def partRegs (d : Nat) (bf : Bool) (i : Nat) : List Reg :=
  ((if bf then [d + i] else [d + 2 * i, d + 2 * i + 1]).filter fun n => decide (n < 32)).map fun n => .v (BitVec.ofNat 5 n)

theorem flatMap_filterMap {α β γ : Type} (g : α → Option β) (h : β → List γ) (l : List α) :
    (l.filterMap g).flatMap h = l.flatMap fun a => ((g a).map h).getD [] := by
  induction l with
  | nil => rfl
  | cons a l ih => cases hg : g a <;> simp [hg, ih]

theorem accrdRows_regs (f : FX) (bf : Bool) (w : Word) :
    ((accrdRows f bf w).flatMap fun r => r.2.map fun p => Reg.v p.1) =
      (List.range ((f.imm.extractLsb' 0 4).toNat + 1)).flatMap (partRegs f.vec.toNat bf) := by
  rw [accrdRows, flatMap_filterMap]
  refine congrArg (List.flatMap · _) (funext fun i => ?_)
  cases bf
  · by_cases h0 : f.vec.toNat + 2 * i < 32 <;> by_cases h1 : f.vec.toNat + 2 * i + 1 < 32 <;> simp [partRegs, h0, h1]
  · by_cases h0 : f.vec.toNat + i < 32 <;> simp [partRegs, h0]

theorem partRegs_range (d : Nat) (bf : Bool) : ∀ n : Nat,
    (List.range n).flatMap (partRegs d bf) = vRegs d (min (n * (if bf then 1 else 2)) (32 - d))
  | 0 => by simp [vRegs]
  | n + 1 => by
    rw [List.range_succ, List.flatMap_append, partRegs_range d bf n, List.flatMap_singleton]
    cases bf
    · by_cases h1 : d + 2 * n + 1 < 32
      · have hold : min (n * 2) (32 - d) = 2 * n := by omega
        have hnew : min ((n + 1) * 2) (32 - d) = 2 * n + 1 + 1 := by omega
        simp only [Bool.false_eq_true, if_false, hold, hnew, vRegs_succ]
        simp [partRegs, h1, (Nat.lt_succ_self _).trans h1, show d + (2 * n + 1) = d + 2 * n + 1 from rfl]
      · by_cases h0 : d + 2 * n < 32
        · have hold : min (n * 2) (32 - d) = 2 * n := by omega
          have hnew : min ((n + 1) * 2) (32 - d) = 2 * n + 1 := by omega
          simp [partRegs, hold, hnew, vRegs_succ, h0, h1]
        · have hsame : min ((n + 1) * 2) (32 - d) = min (n * 2) (32 - d) := by omega
          simp [partRegs, hsame, h0, h1]
    · by_cases h0 : d + n < 32
      · have hold : min (n * 1) (32 - d) = n := by omega
        have hnew : min ((n + 1) * 1) (32 - d) = n + 1 := by omega
        simp only [if_true, hold, hnew, vRegs_succ]
        simp [partRegs, h0]
      · have hsame : min ((n + 1) * 1) (32 - d) = min (n * 1) (32 - d) := by omega
        simp only [if_true, hsame]
        simp [partRegs, h0]

/-- 09 R218: the parts of the rows, one after the other, are the registers from `v(D)` on that there are. -/
theorem accrdRegs_eq (f : FX) (bf : Bool) (w : Word) :
    ((accrdRows f bf w).flatMap fun r => r.2.map fun p => Reg.v p.1) =
      vRegs f.vec.toNat (min (((f.imm.extractLsb' 0 4).toNat + 1) * (if bf then 1 else 2)) (32 - f.vec.toNat)) := by
  rw [accrdRows_regs, partRegs_range]

/-! ### Every operation of the queue -/

/-- What an M-slot operation answers: queued, and its bundle stays where it is a TXSTEP (09 R223). -/
def State.queuedAs (s : State) (o : ArrayForm) (i : Instr) : State :=
  let t := if o.blocks then ((s.owned o).enqueueArray i o.mp o.sA o.vs o.dests).blockOnArray
    else (s.owned o).enqueueArray i o.mp o.sA o.vs o.dests
  match i with
  | .txstep _ _ => t.modIss fun x => { x with stay := true }
  | _ => t

theorem mpReg_eq (s : State) (n : BitVec 3) : s.mpReg n = s.cc.mp.getD n.toNat 0 := by
  simp [State.mpReg, Vector.getD, n.isLt]

theorem exec_arrayForm {s : State} {i : Instr} {o : ArrayForm} (ho : arrayForm s i = some o) (hr : opRuns s o.h = true)
    (hc : opCause i s = none) : exec i s = .next (s.queuedAs o i) := by
  cases i
  case mlds h f =>
    cases ho
    refine show execMlds h f s = _ from (slotOpC_runs hr hc).trans ?_
    rw [mpReg_eq]
    rfl
  case mms h f =>
    cases ho
    refine show execMms h f s = _ from (slotOpC_runs hr hc).trans ?_
    rw [State.queueMms, mpReg_eq]
    rfl
  case mmsp h f =>
    cases ho
    refine show execMmsp h f s = _ from (slotOpC_runs hr hc).trans ?_
    rw [State.queueMms, mpReg_eq]
    rfl
  case mmv h f =>
    cases ho
    refine show execMmv h f s = _ from (slotOpC_runs hr hc).trans ?_
    rw [mpReg_eq]
    rfl
  case accrd h f =>
    cases ho
    refine show execAccrd h f s = _ from (slotOpC_runs hr hc).trans ?_
    exact congrArg (fun l => Host.Outcome.next (s.enqueueArray (.accrd h f) 0 (s.readS h f.cnt 1) [] l)) (accrdRegs_eq f _ _)
  case accclr h f =>
    cases ho
    exact show execAccclr h f s = _ from slotOpC_runs hr hc
  case accscl h f =>
    cases ho
    exact show execAccscl h f s = _ from slotOpC_runs hr hc
  case txbind h f =>
    cases ho
    exact show execTxbind h f s = _ from slotOpC_runs hr hc
  case txstep h f =>
    cases ho
    exact show execTxstep h f s = _ from slotOpC_runs hr hc
  case txfin h f =>
    cases ho
    exact show execTxfin h f s = _ from slotOpC_runs hr hc
  case txsave h f =>
    cases ho
    exact show execTxsave h f s = _ from slotOpC_runs hr hc
  case txrest h f =>
    cases ho
    exact show execTxrest h f s = _ from slotOpC_runs hr hc
  case txabort h f =>
    cases ho
    exact show execTxabort h f s = _ from slotOpC_runs hr hc
  all_goals cases ho

/-- What an operation answers has its core as the queue's last operation leaves it, and nothing else changed but the issue of its bundle. -/
theorem coreSet_queuedAs (s : State) (o : ArrayForm) (i : Instr) :
    ∃ t, CoreSet s t (s.nextId + 1) (s.queuedCc o i) ∧ s.queuedAs o i = { t with issue := (s.queuedAs o i).issue } ∧
      (s.queuedAs o i).iss.stay = match i with | .txstep _ _ => true | _ => s.iss.stay := by
  have h := coreSet_queued s o i
  refine ⟨_, h, ?_, ?_⟩
  · cases i <;> rfl
  · rw [← h.iss]
    cases i <;> rfl

theorem getReg_queuedCx (s : State) (o : ArrayForm) (r : Reg) : (s.queuedCx o).getReg r = s.cx.getReg r := by
  unfold State.queuedCx
  split
  · exact (getReg_waiting _ _ _ r).trans (getReg_awaiting _ _ _ _ r)
  · exact getReg_awaiting _ _ _ _ r

theorem queuedCx_score (s : State) (o : ArrayForm) : (s.queuedCx o).score = s.cx.score ++ o.dests.map fun d => ⟨s.nextId, d⟩ := by
  unfold State.queuedCx Ctx.waiting
  cases o.blocks <;> cases s.cur.acc <;> rfl

theorem queuedCx_pend (s : State) (o : ArrayForm) : (s.queuedCx o).pend = s.cx.pend := by
  unfold State.queuedCx Ctx.waiting
  cases o.blocks <;> cases s.cur.acc <;> rfl

theorem queuedCx_wait (s : State) (o : ArrayForm) : (if s.cur.acc then (s.queuedCx o).waitA else (s.queuedCx o).waitX) =
    if o.blocks then .array s.nextId else waitOf s := by
  unfold State.queuedCx Ctx.waiting waitOf
  cases o.blocks <;> cases s.cur.acc <;> rfl

/-- 09 R213: MPSET writes one matrix parameter register. -/
theorem mpset_answers {s : State} {h : Head} {f : FX} (hr : opRuns s h = true) (hc : opCause (.mpset h f) s = none) :
    answers (.mpset h f) s fun t =>
      (∀ n : BitVec 3, t.cc.mp.getD n.toNat 0 = if n = f.mp then (s.readS h f.cnt 1).setWidth 128 else s.cc.mp.getD n.toNat 0) ∧
      t.cc.arrayQ = s.cc.arrayQ ∧ t.cx = s.cx ∧ t.mem = s.mem := by
  refine ⟨_, show execMpset h f s = _ from slotOpC_runs hr hc, fun n => ?_, by rw [State.cc_modCc], cx_modCc s fun _ => rfl, rfl⟩
  rw [State.cc_modCc]
  by_cases hn : n = f.mp
  · subst hn
    simp [Vector.getD, f.mp.isLt]
  · have hne : f.mp.toNat ≠ n.toNat := fun e => hn (BitVec.eq_of_toNat_eq e.symm)
    simp [Vector.getD, n.isLt, hn, hne]

end Sys2Proof.Machine

open Sys2Proof Sys2Proof.Machine Sys2Proof.Claims

/-- Settles O33: MPSET sets its register; each other operation is queued as `coreSet_queuedAs` says. -/
theorem matrixOperationsEnterTheArrayQueue : Obligations.MatrixOperationsEnterTheArrayQueue := by
  unfold Obligations.MatrixOperationsEnterTheArrayQueue
  refine fun s i => ⟨fun h f hi hr hc => ?mpset, fun o ho _ hr hc => ?queued⟩
  case mpset =>
    subst hi
    exact mpset_answers hr hc
  case queued =>
    obtain ⟨u, hu, ht, hstay⟩ := coreSet_queuedAs s o i
    refine ⟨_, exec_arrayForm ho hr hc, ?_⟩
    generalize s.queuedAs o i = t at ht hstay
    have hcur : t.cur = s.cur := by rw [ht]; exact hu.cur
    have hcore (c : CoreRef) : t.core c = u.core c := by rw [ht]; rfl
    have hcc : t.cc = s.queuedCc o i := by rw [State.cc, hcur, hcore]; exact hu.core
    have hcx : t.cx = s.queuedCx o := by
      rw [State.cx, State.ctx, hcur, hcore, hu.core]
      exact Core.getCtx_setCtx _ _ _
    have hwait := queuedCx_wait s o
    rw [← hcx, ← hcur] at hwait
    rw [hcc, hcx]
    refine ⟨⟨s.arrayOp i o.mp o.sA o.vs, rfl, rfl, rfl, rfl, rfl, rfl, rfl, rfl, rfl, rfl, queuedCx_score s o, hwait⟩, rfl,
      getReg_queuedCx s o, queuedCx_pend s o, rfl, rfl, rfl, hstay, fun c hc => (hcore c).trans (hu.others c hc), ?_⟩
    rw [ht, hu.rest]
end

section
/-! Commands of the engines as the C slot issues them (09 R229, R231, R247 to R249). -/
namespace Sys2Proof.Machine
open Sys2Proof.Claims

/-- The command that a C-slot operation becomes, with what it reads at issue. -/
def State.command (s : State) (o : EngineForm) (i : Instr) : Command :=
  { id := s.nextId, ctx := s.cur.ctx, acc := s.cur.acc, bundle := if s.cur.acc then s.cx.countA else s.cx.issueX
    handler := s.cx.hmode, path := o.path, eng := o.eng, instr := i, desc := descOf s o.h o.f.desc, sA := s.readS o.h o.f.a 1
    sB := s.readS o.h o.f.b 2, waits := s.cx.holdIds o.path true, started := false, pos := 0, fill := 0
    part := descOf s o.h (o.f.desc + 1), partPoison := false, done := false, err := none, counted := 0, susp := false
    outA := [], outB := [], skip := 0 }

/-- What a C-slot operation answers: the command, and for a stream instruction the wait and its pending registers. -/
def State.commandAs (s : State) (o : EngineForm) (i : Instr) : State :=
  if o.blocks then ((s.enqueueCommand o.h o.f i).blockOnStream).scoreStream (strmRegs i) else s.enqueueCommand o.h o.f i

/-- 09 R229, R231: the operation's engine and path. -/
theorem engineOf_form {i : Instr} {o : EngineForm} (ho : engineForm i = some o) : engineOf i = (o.eng, o.path) := by
  cases i
  case cp h f =>
    rw [engineForm] at ho
    cases ho
    split
    · next h2 => simp [engineOf, h2]
    · next h2 =>
      rw [engineOf, if_neg (by simpa using h2)]
      by_cases h0 : f.eng = 0 <;> simp [h0]
  case cpq h f | lsend h f =>
    cases ho
    by_cases h0 : f.eng = 0 <;> simp [engineOf, h0]
  case wstr h f | pgreq h f | enq h f | frank h f | kvwalk h f | kvappend h f | kvseal h f | kvtrunc h f | bmap h f | strmrd h f
    | strmcommit h f | strmin h f =>
    cases ho
    rfl
  all_goals cases ho

theorem exec_engineForm {s : State} {i : Instr} {o : EngineForm} (ho : engineForm i = some o) (hr : opRuns s o.h = true)
    (hc : opCause i s = none) : exec i s = .next (s.commandAs o i) := by
  cases i
  case cp h f =>
    have hform : o.h = h ∧ o.f = f ∧ o.blocks = false := by
      rw [engineForm] at ho
      cases ho
      split <;> exact ⟨rfl, rfl, rfl⟩
    obtain ⟨rfl, rfl, hb⟩ := hform
    rw [State.commandAs, hb]
    exact show execCp o.h o.f s = _ from slotOpC_runs hr hc
  case cpq h f => cases ho; exact show execCpq h f s = _ from slotOpC_runs hr hc
  case wstr h f => cases ho; exact show execWstr h f s = _ from slotOpC_runs hr hc
  case lsend h f => cases ho; exact show execLsend h f s = _ from slotOpC_runs hr hc
  case pgreq h f => cases ho; exact show execPgreq h f s = _ from slotOpC_runs hr hc
  case enq h f => cases ho; exact show execEnq h f s = _ from slotOpC_runs hr hc
  case frank h f => cases ho; exact show execFrank h f s = _ from slotOpC_runs hr hc
  case kvwalk h f => cases ho; exact show execKvwalk h f s = _ from slotOpC_runs hr hc
  case kvappend h f => cases ho; exact show execKvappend h f s = _ from slotOpC_runs hr hc
  case kvseal h f => cases ho; exact show execKvseal h f s = _ from slotOpC_runs hr hc
  case kvtrunc h f => cases ho; exact show execKvtrunc h f s = _ from slotOpC_runs hr hc
  case bmap h f => cases ho; exact show execBmap h f s = _ from slotOpC_runs hr hc
  case strmrd h f => cases ho; exact show execStrmrd h f s = _ from slotOpC_runs hr hc
  case strmcommit h f => cases ho; exact show execStrmcommit h f s = _ from slotOpC_runs hr hc
  case strmin h f => cases ho; exact show execStrmin h f s = _ from slotOpC_runs hr hc
  all_goals cases ho

/-- The context that has issued a command: a stream instruction's registers are pending, and its slice waits. -/
def State.commandCx (s : State) (o : EngineForm) (i : Instr) : Ctx :=
  if o.blocks then (s.cx.waiting s.cur.acc (.strm s.nextId)).awaiting s.nextId s.cur.acc (strmRegs i) else s.cx

theorem setCtx_getCtx (k : Core) (x : BitVec 2) : k.setCtx x (k.getCtx x) = k := by
  have hset : k.ctx.set x.toNat (k.ctx[x.toNat]'x.isLt) x.isLt = k.ctx := Vector.set_getElem_self x.isLt
  unfold Core.setCtx Core.getCtx
  rw [hset]

/-- The core of an operation that has become a command. -/
def State.commandCc (s : State) (o : EngineForm) (i : Instr) : Core :=
  Core.setCtx { s.cc with cmds := s.cc.cmds ++ [s.command o i] } s.cur.ctx (s.commandCx o i)

section
variable {s : State} {o : EngineForm} {i : Instr} (ho : engineForm i = some o)
include ho

theorem coreSet_enqueueCommand : CoreSet s (s.enqueueCommand o.h o.f i) (s.nextId + 1) { s.cc with cmds := s.cc.cmds ++ [s.command o i] } := by
  have hcmd : s.enqueueCommand o.h o.f i =
      ({ s with nextId := s.nextId + 1 } : State).modCc fun k => { k with cmds := k.cmds ++ [s.command o i] } := by
    rw [State.enqueueCommand, engineOf_form ho]
    rfl
  rw [hcmd]
  exact ((CoreSet.refl s).number _).modCc _

/-- 09 R247: the slice of a stream instruction waits, and its registers are pending. -/
theorem coreSet_commandAs : CoreSet s (s.commandAs o i) (s.nextId + 1) (s.commandCc o i) := by
  have h := coreSet_enqueueCommand (s := s) ho
  rw [State.commandAs, State.commandCc, State.commandCx]
  split
  · have hblock := (h.modCx fun c => c.waiting s.cur.acc (.strm s.nextId)).modCx fun c => c.awaiting s.nextId s.cur.acc (strmRegs i)
    rw [Core.getCtx_setCtx, setCtx_setCtx] at hblock
    have hwait : ((s.enqueueCommand o.h o.f i).blockOnStream).scoreStream (strmRegs i) =
        ((s.enqueueCommand o.h o.f i).modCx fun c => c.waiting s.cur.acc (.strm s.nextId)).modCx fun c =>
          c.awaiting s.nextId s.cur.acc (strmRegs i) := by
      rw [State.scoreStream, State.blockOnStream, h.nextId, h.cur]
      rw [State.modCx_nextId, h.nextId, State.modCx_cur, h.cur]
      rfl
    rw [hwait]
    exact hblock
  · have hown : ({ s.cc with cmds := s.cc.cmds ++ [s.command o i] } : Core).setCtx s.cur.ctx s.cx =
        { s.cc with cmds := s.cc.cmds ++ [s.command o i] } := setCtx_getCtx { s.cc with cmds := s.cc.cmds ++ [s.command o i] } s.cur.ctx
    rw [hown]
    exact h

/-- Only a stream instruction writes registers (09 R248, R249). -/
theorem streamRegs_nil (hb : o.blocks = false) : streamRegs i = [] := by
  cases i
  case strmrd | strmcommit | strmin => cases ho; cases hb
  all_goals rfl

end

theorem streamRegs_eq (i : Instr) : strmRegs i = streamRegs i := by cases i <;> rfl

theorem getReg_commandCx (s : State) (o : EngineForm) (i : Instr) (r : Reg) : (s.commandCx o i).getReg r = s.cx.getReg r := by
  unfold State.commandCx
  split
  · exact (getReg_awaiting _ _ _ _ r).trans (getReg_waiting _ _ _ r)
  · rfl

theorem commandCx_pend (s : State) (o : EngineForm) (i : Instr) : (s.commandCx o i).pend = s.cx.pend := by
  unfold State.commandCx Ctx.waiting
  cases o.blocks <;> cases s.cur.acc <;> rfl

theorem commandCx_wait (s : State) (o : EngineForm) (i : Instr) :
    (if s.cur.acc then (s.commandCx o i).waitA else (s.commandCx o i).waitX) = if o.blocks then .strm s.nextId else waitOf s := by
  unfold State.commandCx Ctx.waiting waitOf
  cases o.blocks <;> cases s.cur.acc <;> rfl

theorem commandCx_score {s : State} {o : EngineForm} {i : Instr} (ho : engineForm i = some o) :
    (s.commandCx o i).score = s.cx.score ++ (streamRegs i).map fun r => ⟨s.nextId, r⟩ := by
  unfold State.commandCx
  split
  · rw [streamRegs_eq]
    unfold Ctx.waiting
    cases s.cur.acc <;> rfl
  · next hb => rw [streamRegs_nil ho (by simpa using hb), List.map_nil, List.append_nil]

end Sys2Proof.Machine

open Sys2Proof Sys2Proof.Machine Sys2Proof.Claims

/-- Settles O36: the operation becomes the last command of its core, as `coreSet_commandAs` says. -/
theorem engineOperationsBecomeCommands : Obligations.EngineOperationsBecomeCommands := by
  unfold Obligations.EngineOperationsBecomeCommands
  intro s i o ho hr hc
  have h := coreSet_commandAs (s := s) ho
  have hwait := commandCx_wait s o i
  have hcx : (s.commandAs o i).cx = s.commandCx o i := h.cx.trans (Core.getCtx_setCtx _ _ _)
  refine ⟨_, exec_engineForm ho hr hc, ?_⟩
  rw [← hcx, ← h.cur] at hwait
  rw [h.cc, hcx]
  refine ⟨⟨s.command o i, rfl, rfl, rfl, rfl, rfl, rfl, rfl, rfl, rfl, rfl, rfl, rfl, commandCx_score ho, hwait⟩,
    getReg_commandCx s o i, commandCx_pend s o i, rfl, h.others, ?_⟩
  rw [h.rest]
end

section
/-! A stream block whose inHead has an error, in a TOLERANT page: a STRMCOMMIT that finds it cancelled reads the substitution value
of the granule (18 R410) and writes it back with the block (13 R332). -/
namespace Sys2Proof.Tests
open Sys2Proof.Machine Sys2Proof.Claims

def commitCancelled : Instr := .strmcommit h6 ⟨5, 0, 6, 0, 0, 0, 3, 0⟩
/-- A cancelled block at 0x800 in a TOLERANT page (SUBST 0); byte 0x20 of the block is 1, in a granule with an error. -/
def tolerantBlock : State :=
  let s := placed [(0x800, 1 + 5 * 2 ^ 16 + 2 ^ 32), (0x820, 1)]
  work { s with mem := writeNat s.mem (hbmKey 0 stageLast) 16 0x13A, poison := [poisonBase (hbmKey 0 0x820)] } (strm commitCancelled)
def tolerantPlace : Place := .dev 0 0x800 ⟨0x13A, false, stageLast⟩
def commits : Instr := .engineBurst (.engine c0 2)

theorem tolerantBlock_mayStep : MayStep tolerantBlock c0 (strm commitCancelled) := by
  unfold MayStep AtWork
  decide +kernel

theorem tolerantBlock_near : tolerantBlock.near 0 (tolerantBlock.cmdStream c0 (strm commitCancelled)).tenant
    (tolerantBlock.cmdStream c0 (strm commitCancelled)).asid 0x800 256 true true false = .ok [(tolerantPlace, 256)] := by
  decide +kernel

theorem tolerantBlock_cancelled :
    gives (rdBlock (tolerantBlock.who c0 (strm commitCancelled)) 0x800) tolerantBlock fun b _ => b.cancel = true :=
  given (by decide +kernel)

theorem tolerantBlock_wf : tolerantBlock.packets = [] ∧ tolerantBlock.memOk = true ∧ readByte tolerantBlock.mem (tolerantPlace.key + 0x20) = 1 := by
  decide +kernel

/-- The byte of the block that had an error is the substitution value after the step. -/
theorem commits_replacesByte : readByte (after commits tolerantBlock).mem (tolerantPlace.key + 0x20) = 0 := by
  decide +kernel

end Sys2Proof.Tests

open Sys2Proof Sys2Proof.Machine Sys2Proof.Claims Sys2Proof.Tests

/-- Refutes O37: the clause on a STRMCOMMIT of a cancelled block asks for no page without errors, and in a TOLERANT page the step
writes a substitution value over a byte of the block other than 0x3F. -/
theorem not_enginesStartMoveAndComplete : ¬ Obligations.EnginesStartMoveAndComplete := by
  unfold Obligations.EnginesStartMoveAndComplete
  rintro ⟨-, -, hsteps, -⟩
  obtain ⟨-, -, hblock⟩ := hsteps tolerantBlock c0 (strm commitCancelled) tolerantBlock_mayStep
  obtain ⟨b, u, hread, hcancel⟩ := tolerantBlock_cancelled
  obtain ⟨hpackets, hmem, hbyte⟩ := tolerantBlock_wf
  obtain ⟨hcommit, -⟩ := hblock b u hread hpackets
  obtain ⟨-, hcancelled⟩ := hcommit _ _ rfl (by decide) (by decide)
  obtain ⟨t, ht, -, -, hbytes⟩ := hcancelled hcancel hmem tolerantPlace tolerantBlock_near
  have hafter : after commits tolerantBlock = t := by
    rw [after, show exec commits tolerantBlock = .next t from ht]
  have hkept := hbytes (tolerantPlace.key + 0x20)
  rw [if_neg (by decide), hbyte, ← hafter, commits_replacesByte] at hkept
  exact absurd hkept (by decide)
end

section
/-! SUPPORT. What landing results, dropping pins and leaving the queue change of a core (09 R209, R211, 12 R322). -/
namespace Sys2Proof.Machine
open Sys2Proof.Claims

/-! ### Results of vector registers -/

theorem getReg_putReg_v (c : Ctx) (n m : BitVec 5) (v : Vec) :
    (c.putReg (.v n) v).getReg (.v m) = if m = n then v else c.getReg (.v m) := by
  by_cases h : m = n
  · subst h
    simp [Ctx.putReg, Ctx.getReg]
  · have hne : n.toNat ≠ m.toNat := fun e => h (BitVec.eq_of_toNat_eq e.symm)
    simp [Ctx.putReg, Ctx.getReg, h, Vector.getElem_set_ne _ _ hne]

theorem landOne_v_of_ne (c : Ctx) {p : Pend} {n m : BitVec 5} (hp : p.reg = .v n) (hne : m ≠ n) :
    (c.landOne p).getReg (.v m) = c.getReg (.v m) := by
  simp only [Ctx.landOne, hp]
  exact (getReg_putReg_v c n m _).trans (if_neg hne)

theorem landIf_v_of_ne (c : Ctx) {sel : Pend → Bool} {n m : BitVec 5} (hsel : ∀ p, sel p = true → p.reg = .v n) (hne : m ≠ n) :
    (c.landIf sel).getReg (.v m) = c.getReg (.v m) := by
  have h : ∀ l : List Pend, ∀ d : Ctx, (∀ p ∈ l, p.reg = .v n) → (l.foldl Ctx.landOne d).getReg (.v m) = d.getReg (.v m) := by
    intro l
    induction l with
    | nil => exact fun _ _ => rfl
    | cons p l ih =>
      intro d hl
      rw [List.foldl_cons, ih _ fun q hq => hl q (List.mem_cons_of_mem p hq), landOne_v_of_ne d (hl p List.mem_cons_self) hne]
  exact h _ _ fun p hp => hsel p (List.mem_filter.mp hp).2

/-- 04 R102: a whole vector result lands in its register and in no other vector register. -/
theorem landScore_v (c : Ctx) (id : Nat) (n m : BitVec 5) (val : Vec) :
    (c.landScore id (.v n) val allBits).getReg (.v m) = if m = n then val else c.getReg (.v m) := by
  have hput : (c.landScore id (.v n) val allBits).getReg (.v m) =
      ((c.landIf fun p => p.reg == .v n && decide (p.seq ≤ id)).putReg (.v n) val).getReg (.v m) := by
    simp only [Ctx.landScore, merge_allBits]
    rfl
  rw [hput, getReg_putReg_v]
  by_cases h : m = n
  · rw [if_pos h, if_pos h]
  · rw [if_neg h, if_neg h]
    exact landIf_v_of_ne c (fun p hp => eq_of_beq (Bool.and_elim_left hp)) h

/-- Whole vector results that land one after the other. -/
def Ctx.landVecs (c : Ctx) (id : Nat) (l : List (Reg × Vec)) : Ctx := l.foldl (fun x p => x.landScore id p.1 p.2 allBits) c

/-- The results are of vector registers, each of one of its own. -/
def DistinctVecs (l : List (Reg × Vec)) : Prop := (∀ p ∈ l, ∃ n, p.1 = .v n) ∧ (l.map (·.1)).Nodup

theorem distinctVecs_cons {p : Reg × Vec} {l : List (Reg × Vec)} (h : DistinctVecs (p :: l)) :
    (∃ n, p.1 = .v n) ∧ p.1 ∉ l.map (·.1) ∧ DistinctVecs l := by
  obtain ⟨hv, hn⟩ := h
  rw [List.map_cons, List.nodup_cons] at hn
  exact ⟨hv p List.mem_cons_self, hn.1, fun q hq => hv q (List.mem_cons_of_mem p hq), hn.2⟩

theorem landVecs_of_notMem {id : Nat} {m : BitVec 5} {l : List (Reg × Vec)} (c : Ctx) (h : DistinctVecs l) (hm : .v m ∉ l.map (·.1)) :
    (c.landVecs id l).getReg (.v m) = c.getReg (.v m) := by
  induction l generalizing c with
  | nil => rfl
  | cons p l ih =>
    obtain ⟨⟨n, hn⟩, -, hl⟩ := distinctVecs_cons h
    rw [List.map_cons, List.mem_cons, not_or, hn] at hm
    rw [Ctx.landVecs, List.foldl_cons, hn]
    exact (ih _ hl hm.2).trans ((landScore_v c id n m p.2).trans (if_neg fun e => hm.1 (congrArg Reg.v e)))

/-- 09 R211: each register holds its own result. -/
theorem landVecs_of_mem {id : Nat} {m : BitVec 5} {val : Vec} {l : List (Reg × Vec)} (c : Ctx) (h : DistinctVecs l) (hm : (.v m, val) ∈ l) :
    (c.landVecs id l).getReg (.v m) = val := by
  induction l generalizing c with
  | nil => cases hm
  | cons p l ih =>
    obtain ⟨-, hfirst, hl⟩ := distinctVecs_cons h
    rw [Ctx.landVecs, List.foldl_cons]
    rcases List.mem_cons.mp hm with heq | hrest
    · rw [← heq] at hfirst ⊢
      exact (landVecs_of_notMem _ hl hfirst).trans ((landScore_v c id m m val).trans (if_pos rfl))
    · exact ih _ hl hrest

theorem vReg_injOn {d n j k : Nat} (hd : n ≤ 32 - d) (hj : j < n) (hk : k < n) (h : BitVec.ofNat 5 (d + j) = BitVec.ofNat 5 (d + k)) :
    j = k := by
  have hnat := congrArg BitVec.toNat h
  simp only [BitVec.toNat_ofNat] at hnat
  omega

/-- The registers from `v(d)` on are distinct while there are so many. -/
theorem nodup_vRegs {d n : Nat} (hd : n ≤ 32 - d) : (vRegs d n).Nodup := by
  refine List.Nodup.map_on (fun j hj k hk h => ?_) List.nodup_range
  exact vReg_injOn hd (List.mem_range.mp hj) (List.mem_range.mp hk) (Reg.v.inj h)

/-! ### A core after its operation has left the queue -/

theorem core_dropPins (s : State) (l : List FifoEntry) (c : CoreRef) : (s.dropPins l).core c = s.core c :=
  congrArg (lookupCore · (coreKey c)) (offDie_cores (offDie_dropPins s l))

theorem core_modCtx (s : State) (c : CoreRef) (x : BitVec 2) (f : Ctx → Ctx) :
    (s.modCtx c x f).core c = (s.core c).setCtx x (f (s.ctx c x)) := State.core_modCore s c _

theorem core_landArray (s : State) (c : CoreRef) (o : ArrayOp) (l : List (Reg × Vec)) (fl : Flags) :
    (s.landArray c o l fl).core c = (s.core c).setCtx o.ctx (((s.ctx c o.ctx).landVecs o.id l).raiseFlags fl) := core_modCtx s c o.ctx _

/-- The context no longer waits for the operation. -/
def Ctx.goesOn (x : Ctx) (id : Nat) : Ctx := { x with
  waitX := if x.waitX == .array id then .none else x.waitX
  waitA := if x.waitA == .array id then .none else x.waitA }

/-- The core without the operation. -/
def Core.unqueued (k : Core) (o : ArrayOp) : Core :=
  Core.setCtx { k with arrayQ := k.arrayQ.filter fun x => x.id != o.id } o.ctx ((k.getCtx o.ctx).goesOn o.id)

theorem core_popArray (s : State) (c : CoreRef) (o : ArrayOp) : (s.popArray c o).core c = (s.core c).unqueued o := by
  have hpop : s.popArray c o = ((s.donePackets (.unit c o.id)).modCore c fun k =>
      { k with arrayQ := k.arrayQ.filter fun x => x.id != o.id }).modCtx c o.ctx fun x => x.goesOn o.id := rfl
  rw [hpop, core_modCtx, State.ctx, State.core_modCore]
  rfl

theorem mem_popArray (s : State) (c : CoreRef) (o : ArrayOp) : (s.popArray c o).mem = s.mem := rfl
theorem mem_landArray (s : State) (c : CoreRef) (o : ArrayOp) (l : List (Reg × Vec)) (fl : Flags) : (s.landArray c o l fl).mem = s.mem := rfl

theorem unqueued_getReg (k : Core) (o : ArrayOp) (r : Reg) : ((k.unqueued o).getCtx o.ctx).getReg r = (k.getCtx o.ctx).getReg r := by
  rw [Core.unqueued, Core.getCtx_setCtx]
  cases r <;> rfl

theorem raiseFlags_getReg_v (c : Ctx) (fl : Flags) (n : BitVec 5) : (c.raiseFlags fl).getReg (.v n) = c.getReg (.v n) := rfl

section
variable {s : State} {c : CoreRef} {o : ArrayOp} {rest : List ArrayOp} (h : AtHead s c o rest)
include h

/-- The operation that stands at the head has the only entry of its number. -/
theorem unqueued_arrayQ {k : Core} (hk : k.arrayQ = (s.core c).arrayQ) : (k.unqueued o).arrayQ = rest := by
  obtain ⟨hq, hne, -⟩ := h
  have hkeep : rest.filter (fun x => x.id != o.id) = rest := List.filter_eq_self.mpr fun x hx => by simpa using hne x hx
  rw [Core.unqueued, Core.setCtx_arrayQ, hk, hq, List.filter_cons_of_neg (by simp), hkeep]

/-- An operation that holds nothing yet takes all it needs. -/
theorem takeFrom_got (l : List FifoEntry) (n : Nat) : takeFrom l o.got n = (l.take n, l.drop n) := by
  obtain ⟨-, -, hgot, -⟩ := h
  simp [takeFrom, hgot]

theorem takeFrom_gotB (l : List FifoEntry) (n : Nat) : takeFrom l o.gotB n = (l.take n, l.drop n) := by
  obtain ⟨-, -, -, hgot, -⟩ := h
  simp [takeFrom, hgot]

end

end Sys2Proof.Machine
end

section
/-! SUPPORT. Lanes, cells and masks of the array's registers (02 R45, 09 R215 to R219), and the width of a bf16 (03 R71). -/
namespace Sys2Proof.Machine
open Sys2Proof.Claims

/-- A lane of a vector of lanes of `w` bits. -/
theorem bitsAt_ofLanes {w i : Nat} (l : List Nat) (h : w * i + w ≤ 2048) : bitsAt w (ofLanes w l) i = BitVec.ofNat w (l.getD i 0) := by
  apply BitVec.eq_of_toNat_eq
  rw [bitsAt, toNat_bits, BitVec.toNat_ofNat, ofLanes, BitVec.toNat_ofNat, mod_two_pow_div h]
  exact packed_lane w l i

/-- A cell of a row made of cells. -/
theorem extract_ofCells (l : List Nat) {i : Nat} (h : i < 128) : (ofCells l).extractLsb' (32 * i) 32 = BitVec.ofNat 32 (l.getD i 0) := by
  apply BitVec.eq_of_toNat_eq
  rw [toNat_bits, BitVec.toNat_ofNat, ofCells, BitVec.toNat_ofNat, mod_two_pow_div (by omega)]
  exact packed_lane 32 l i

/-- A vector is its lanes of 32 bits. -/
theorem vec_ext {v w : Vec} (h : ∀ j, j < 64 → bitsAt 32 v j = bitsAt 32 w j) : v = w := by
  refine BitVec.eq_of_getLsbD_eq fun i hi => ?_
  have hbit := congrArg (·.getLsbD (i % 32)) (h (i / 32) (by omega))
  simp only [bitsAt, BitVec.getLsbD_extractLsb', Nat.mod_lt i (by decide : 0 < 32), decide_true, Bool.true_and, Nat.div_add_mod] at hbit
  exact hbit

theorem getD_range_map {α : Type} (f : Nat → α) {n i : Nat} (d : α) (h : i < n) : ((List.range n).map f).getD i d = f i := by
  simp [h]

/-- The mask of the numbers that a condition picks. -/
theorem foldl_pick_eq (q : Nat → Bool) (l : List Nat) : l.foldl (fun a r => a + if q r then 2 ^ r else 0) 0 = bitsOfList (l.filter q) := by
  rw [bitsOfList, List.foldl_filter]
  refine congrArg (fun f => l.foldl f 0) (funext fun a => funext fun r => ?_)
  split <;> rfl

theorem getLsbD_pick (q : Nat → Bool) (n : Nat) {r : Nat} (h : r < n) :
    (BitVec.ofNat n ((List.range n).foldl (fun a r => a + if q r then 2 ^ r else 0) 0)).getLsbD r = q r := by
  rw [foldl_pick_eq, BitVec.getLsbD_ofNat, (bitsOfList_filter q n).2]
  simp [h]

theorem getLsbD_rowBits {m r : Nat} (h : r < 64) : (rowBits m).getLsbD r = decide (r ≤ m) := by
  rw [rowBits, BitVec.getLsbD_ofNat, Nat.testBit_two_pow_sub_one]
  simp [h]

/-! ### The entries taken from a FIFO -/

theorem take_val (l : List FifoEntry) (n r : Nat) :
    ((l.take n).getD r ⟨0, false, false, 0, 0, []⟩).val = if r < n then entryAt l r else 0 := by
  rw [List.getD_eq_getElem?_getD, List.getElem?_take]
  unfold entryAt
  split
  · cases l[r]? <;> rfl
  · rfl

theorem take_poison (l : List FifoEntry) (n r : Nat) :
    ((l.take n).getD r ⟨0, false, false, 0, 0, []⟩).poison = (decide (r < n) && markedAt l r) := by
  rw [List.getD_eq_getElem?_getD, List.getElem?_take]
  unfold markedAt
  split
  · next hr => cases l[r]? <;> simp [hr]
  · next hr => simp [hr]

/-! ### Rounding to bf16 -/

/-- 03 R66: rounding at a unit that leaves `p` bits gives at most `2 ^ p` units. -/
theorem roundAt_le (m : Rnd) (neg : Bool) (man : Nat) (exp : Int) (tail : Bool) {q : Int} {p : Nat} (h : exp + bitLen man - p ≤ q) :
    (roundAt m neg man exp tail q).1 ≤ 2 ^ p := by
  have hlt : man < 2 ^ bitLen man := bitLen_le_iff.mp le_rfl
  unfold roundAt
  by_cases hq : q ≤ exp
  · rw [if_pos hq]
    show man <<< (exp - q).toNat ≤ 2 ^ p
    rw [Nat.shiftLeft_eq]
    calc man * 2 ^ (exp - q).toNat ≤ 2 ^ bitLen man * 2 ^ (exp - q).toNat := Nat.mul_le_mul_right _ hlt.le
      _ = 2 ^ (bitLen man + (exp - q).toNat) := (Nat.pow_add ..).symm
      _ ≤ 2 ^ p := Nat.pow_le_pow_right two_pos (by omega)
  · rw [if_neg hq]
    have hhi : man >>> (q - exp).toNat < 2 ^ p := by
      rw [Nat.shiftRight_eq_div_pow]
      refine Nat.div_lt_of_lt_mul (hlt.trans_le ?_)
      rw [← Nat.pow_add]
      exact Nat.pow_le_pow_right two_pos (by omega)
    have hup (up : Bool) : (if up then man >>> (q - exp).toNat + 1 else man >>> (q - exp).toNat) ≤ 2 ^ p := by
      cases up
      · exact hhi.le
      · exact hhi
    exact hup _

/-- A significand that is renormalised has at most `p` bits. -/
theorem renorm_lt {p a : Nat} (q : Int) (h : a ≤ 2 ^ p) (hp : 0 < p) : (renorm p a q).1 < 2 ^ p := by
  unfold renorm
  split
  · exact Nat.pow_lt_pow_right one_lt_two (by omega)
  · next hne => exact lt_of_le_of_ne h (by simpa using hne)

theorem signBit_bf16_le (neg : Bool) : signBit 9 neg ≤ 2 ^ 15 := by cases neg <;> decide

/-- The bits of a finite bf16 whose significand and unit are in range. -/
theorem bf16_bits_lt {a : Nat} {q : Int} (ha : a < 2 ^ 8) (hq : q ≤ 120) :
    (if a < 2 ^ 7 then a else ((q + 127 + 7).toNat <<< 7) + (a - 2 ^ 7)) < 2 ^ 15 := by
  rw [Nat.shiftLeft_eq]
  split <;> omega

theorem roundIeee_bf16_lt (neg : Bool) (man : Nat) (exp : Int) (tail : Bool) : (roundIeee 9 .rne false neg man exp tail).1 < 2 ^ 16 := by
  have hsign := signBit_bf16_le neg
  have hle : (roundAt .rne neg man exp tail (max (exp + bitLen man - 8) (1 - 127 - 7))).1 ≤ 2 ^ 8 :=
    roundAt_le .rne neg man exp tail (p := 8) (le_max_left _ _)
  have ha := renorm_lt (max (exp + bitLen man - 8) (1 - 127 - 7)) hle (by decide)
  unfold roundIeee
  dsimp only
  split
  · cases neg <;> decide
  · next hover =>
    rw [Bool.or_eq_true, not_or] at hover
    have hq := hover.1
    rw [decide_eq_true_eq, not_lt] at hq
    have hbits := bf16_bits_lt ha hq
    exact (Nat.add_lt_add_of_le_of_lt hsign hbits).trans_le (by decide)

/-- A number rounded to bf16 is one of 16 bits. -/
theorem roundF_bf16_lt (x : FVal) : (roundF 9 .rne false x).1 < 2 ^ 16 := by
  cases x with
  | nan _ => exact (by decide : canonNaN 9 < 2 ^ 16)
  | inf n => cases n <;> decide
  | fin n man e tl =>
    unfold roundF
    dsimp only
    split
    · exact (signBit_bf16_le n).trans_lt (by decide)
    · exact roundIeee_bf16_lt n man e tl

end Sys2Proof.Machine
end

section
/-! Plain operations of the array queue (09 R215 to R219): what each leaves of its core. -/
namespace Sys2Proof.Machine
open Sys2Proof.Claims

/-- What an operation at the head of the queue does at once (09 R215 to R219, R226 to R228). -/
def headOp : Instr → Option (State → CoreRef → ArrayOp → State)
  | .mlds _ _ | .mms _ _ | .mmsp _ _ | .mmv _ _ | .accrd _ _ | .accclr _ _ | .accscl _ _ => some State.plainArray
  | .txfin _ f => some fun s c o => s.doTxfin c o (f.imm.getLsbD 0)
  | .txsave _ f => some fun s c o => s.doTxsave c o (f.imm.getLsbD 0)
  | .txrest _ f => some fun s c o => s.doTxrest c o (f.imm.getLsbD 0)
  | .txabort _ f => some fun s c o => s.doTxabort c o (f.imm.getLsbD 0)
  | _ => none

/-! ### Tiles, rows and destinations -/

theorem tileOf_row (o : ArrayOp) (sparse : Bool) (l : List FifoEntry) {m r : Nat} (hr : r < 64) :
    (tileOf o sparse (l.take (m + 1))).rows.getD r 0 = if r ≤ m then entryAt l r else 0 := by
  have hrow : (tileOf o sparse (l.take (m + 1))).rows.getD r 0 = ((l.take (m + 1)).getD r ⟨0, false, false, 0, 0, []⟩).val := by
    simp [tileOf, Vector.getD, hr]
  rw [hrow, take_val]
  simp only [Nat.lt_succ_iff]

theorem tileOf_poison (o : ArrayOp) (sparse : Bool) (l : List FifoEntry) {m r : Nat} (hr : r < 64) :
    (tileOf o sparse (l.take (m + 1))).poison.getLsbD r = (decide (r ≤ m) && markedAt l r) := by
  refine (getLsbD_pick (fun r => ((l.take (m + 1)).getD r ⟨0, false, false, 0, 0, []⟩).poison) 64 hr).trans ?_
  rw [take_poison]
  simp only [Nat.lt_succ_iff]

/-- What an MMS makes of entry `j` of those it has taken (09 R216). -/
def mmsPick (t : Tile) (o : ArrayOp) (f : FX) (sparse : Bool) (l : List FifoEntry) (j : Nat) : Option (Reg × Vec × Flags) :=
  let e := l.getD j ⟨0, false, false, 0, 0, []⟩
  if mmsPoisoned o t e then none
  else
    let r := (List.range 64).map (mmsLane o t sparse (f.imm.getLsbD 0) e.val (o.vs.getD j 0))
    some ((mmsRegs f).getD j .none, ofLanes 32 (r.map (·.1)), orFlags r)

/-- An MMS each of whose entries has its result lands them all. -/
theorem doMms_all {s : State} {c : CoreRef} {o : ArrayOp} {f : FX} {sparse : Bool} {l : List FifoEntry} {row : Nat → Reg × Vec × Flags}
    (h : ∀ j, j < l.length → mmsPick (s.core c).tile o f sparse l j = some (row j)) :
    ∃ fl, s.doMms c o f sparse l =
      ((s.landArray c o ((List.range l.length).map fun j => ((row j).1, (row j).2.1)) fl).dropPins l).popArray c o := by
  have hrows : (List.range l.length).filterMap (mmsPick (s.core c).tile o f sparse l) = (List.range l.length).map row := by
    rw [← List.filterMap_eq_map]
    exact List.filterMap_congr fun j hj => h j (List.mem_range.mp hj)
  have hdo : s.doMms c o f sparse l =
      let rows := (List.range l.length).filterMap (mmsPick (s.core c).tile o f sparse l)
      let t := s.landArray c o (rows.map fun r => (r.1, r.2.1)) (rows.foldl (fun a r => a ||| r.2.2) 0)
      ((if rows.length < l.length then t.reportArray c o 0x111 0 (kindInfo 3) else t).dropPins l).popArray c o := rfl
  refine ⟨((List.range l.length).map row).foldl (fun a r => a ||| r.2.2) 0, ?_⟩
  rw [hdo, hrows]
  dsimp only
  rw [if_neg (by simp), List.map_map]
  rfl

/-- The destination of entry `j` of an MMS, and its value. -/
def mmsOut (k : Core) (o : ArrayOp) (f : FX) (sparse : Bool) (j : Nat) : Reg × Vec :=
  (.v (BitVec.ofNat 5 (f.vec.toNat + j)),
    ofLanes 32 ((List.range 64).map fun r => (mmsLane o k.tile sparse (f.imm.getLsbD 0) (entryAt k.fa j) (o.vs.getD j 0) r).1))

/-- 09 R216: without poison every destination is written. -/
theorem mmsPick_clean {k : Core} {o : ArrayOp} {f : FX} (sparse : Bool) (ht : k.tile.poison = 0) {j : Nat} (hj : j < f.cnt.toNat + 1)
    (hm : markedAt k.fa j = false) :
    mmsPick k.tile o f sparse (k.fa.take (f.cnt.toNat + 1)) j = some ((mmsOut k o f sparse j).1, (mmsOut k o f sparse j).2,
      orFlags ((List.range 64).map (mmsLane o k.tile sparse (f.imm.getLsbD 0) (entryAt k.fa j) (o.vs.getD j 0)))) := by
  have hclean : mmsPoisoned o k.tile ((k.fa.take (f.cnt.toNat + 1)).getD j ⟨0, false, false, 0, 0, []⟩) = false := by
    rw [mmsPoisoned, take_poison, hm, ht]
    simp
  have hreg : (mmsRegs f).getD j .none = .v (BitVec.ofNat 5 (f.vec.toNat + j)) := getD_range_map _ _ hj
  rw [mmsPick, hclean]
  dsimp only
  rw [if_neg (by decide), take_val, if_pos hj, hreg, List.map_map]
  rfl

theorem mmsOut_distinct (k : Core) (o : ArrayOp) (f : FX) (sparse : Bool) (hv : f.vec.toNat + f.cnt.toNat ≤ 31) :
    DistinctVecs ((List.range (f.cnt.toNat + 1)).map (mmsOut k o f sparse)) := by
  refine ⟨fun p hp => ?_, ?_⟩
  · obtain ⟨j, -, rfl⟩ := List.mem_map.mp hp
    exact ⟨_, rfl⟩
  · rw [List.map_map]
    exact nodup_vRegs (d := f.vec.toNat) (n := f.cnt.toNat + 1) (by omega)

/-- The parts of an ACCRD's rows that have a register are all delivered (09 R218). -/
theorem mem_accrdRows {f : FX} {bf : Bool} {w : Word} {i : Nat} {x : Nat × Nat} (hi : i < (f.imm.extractLsb' 0 4).toNat + 1)
    (hx : x ∈ if bf then [(f.vec.toNat + i, 0)] else [(f.vec.toNat + 2 * i, 0), (f.vec.toNat + 2 * i + 1, 1)]) (hlt : x.1 < 32) :
    ∃ parts, (((w.extractLsb' 0 6).toNat + i) % 64, parts) ∈ accrdRows f bf w ∧ (BitVec.ofNat 5 x.1, x.2) ∈ parts := by
  have hmem : (BitVec.ofNat 5 x.1, x.2) ∈ ((if bf then [(f.vec.toNat + i, 0)] else
      [(f.vec.toNat + 2 * i, 0), (f.vec.toNat + 2 * i + 1, 1)]).filter fun p => decide (p.1 < 32)).map fun p => (BitVec.ofNat 5 p.1, p.2) :=
    List.mem_map.mpr ⟨x, List.mem_filter.mpr ⟨hx, decide_eq_true hlt⟩, rfl⟩
  refine ⟨_, List.mem_filterMap.mpr ⟨i, List.mem_range.mpr hi, ?_⟩, hmem⟩
  rw [if_neg fun hempty => List.ne_nil_of_mem hmem (List.isEmpty_iff.mp hempty)]

/-- The bank that an ACCRD reads. -/
def accrdBank (k : Core) (f : FX) : Vector (BitVec 4096) 64 := if f.imm.getLsbD 4 then k.chain.com else k.work

/-- The destinations of an ACCRD, and their values. -/
def accrdOuts (k : Core) (o : ArrayOp) (f : FX) : List (Reg × Vec) :=
  (accrdRows f (o.fmt.getLsbD 15) o.sA).flatMap fun r => r.2.map fun p =>
    (.v p.1, (drainPart (o.fmt.getLsbD 15) ((accrdBank k f).getD r.1 0) p.2).1)

theorem accrdOuts_distinct (k : Core) (o : ArrayOp) (f : FX) : DistinctVecs (accrdOuts k o f) := by
  refine ⟨fun p hp => ?_, ?_⟩
  · obtain ⟨r, -, hr⟩ := List.mem_flatMap.mp hp
    obtain ⟨x, -, rfl⟩ := List.mem_map.mp hr
    exact ⟨_, rfl⟩
  · have hregs : (accrdOuts k o f).map (·.1) = (accrdRows f (o.fmt.getLsbD 15) o.sA).flatMap fun r => r.2.map fun p => Reg.v p.1 := by
      simp only [accrdOuts, List.map_flatMap, List.map_map]
      rfl
    rw [hregs, accrdRegs_eq]
    exact nodup_vRegs (Nat.min_le_right _ _)

theorem mem_accrdOuts {k : Core} {o : ArrayOp} {f : FX} {i : Nat} {x : Nat × Nat} (hi : i < (f.imm.extractLsb' 0 4).toNat + 1)
    (hx : x ∈ if o.fmt.getLsbD 15 then [(f.vec.toNat + i, 0)] else [(f.vec.toNat + 2 * i, 0), (f.vec.toNat + 2 * i + 1, 1)])
    (hlt : x.1 < 32) :
    (.v (BitVec.ofNat 5 x.1),
      (drainPart (o.fmt.getLsbD 15) ((accrdBank k f).getD (((o.sA.extractLsb' 0 6).toNat + i) % 64) 0) x.2).1) ∈ accrdOuts k o f := by
  obtain ⟨parts, hrow, hpart⟩ := mem_accrdRows (w := o.sA) hi hx hlt
  exact List.mem_flatMap.mpr ⟨_, hrow, List.mem_map.mpr ⟨_, hpart, rfl⟩⟩

/-- 09 R218: an f32 part of a row is its half of the row. -/
theorem drainPart_f32 (row : BitVec 4096) (p : Nat) : (drainPart false row p).1 = row.extractLsb' (2048 * p) 2048 := by
  refine vec_ext fun j hj => ?_
  have hlane : bitsAt 32 (drainPart false row p).1 j = BitVec.ofNat 32 (cell row (64 * p + j)) := by
    refine (bitsAt_ofLanes _ (by omega)).trans ?_
    rw [getD_range_map _ _ hj]
  rw [hlane, cell, BitVec.ofNat_toNat, BitVec.setWidth_eq]
  refine BitVec.eq_of_getLsbD_eq fun b hb => ?_
  have hin : 32 * j + b < 2048 := by omega
  simp only [bitsAt, BitVec.getLsbD_extractLsb', hb, hin, decide_true, Bool.true_and]
  exact congrArg row.getLsbD (by omega)

/-- 09 R218: a bf16 part of a row is its cells, rounded. -/
theorem drainPart_bf16 (row : BitVec 4096) (p : Nat) {j : Nat} (hj : j < 128) :
    (bitsAt 16 (drainPart true row p).1 j).toNat = (roundF 9 .rne false (decodeF 8 (cell row j))).1 := by
  have hlane : bitsAt 16 (drainPart true row p).1 j = BitVec.ofNat 16 (roundF 9 .rne false (decodeF 8 (cell row j))).1 := by
    refine (bitsAt_ofLanes _ (by omega)).trans ?_
    rw [List.map_map, getD_range_map _ _ hj]
    rfl
  rw [hlane, BitVec.toNat_ofNat, Nat.mod_eq_of_lt (roundF_bf16_lt _)]

/-- 09 R219: the cells of a row after an ACCSCL. -/
theorem sclRow_cell (w : Word) (row : BitVec 4096) {j : Nat} (hj : j < 128) :
    (sclRow w row).1.extractLsb' (32 * j) 32 =
      BitVec.ofNat 32 (laneMul 8 ⟨.rne, false, none⟩ (row.extractLsb' (32 * j) 32).toNat (w.toNat % 2 ^ 32)).1 := by
  refine (extract_ofCells _ hj).trans ?_
  rw [List.map_map, getD_range_map _ _ hj]
  rfl

/-! ### The operations -/

section
variable {s : State} {c : CoreRef} {o : ArrayOp} {rest : List ArrayOp} (h : AtHead s c o rest)
include h

/-- 09 R209: the operation at the head executes. -/
theorem exec_headOp {g : State → CoreRef → ArrayOp → State} (hg : headOp o.instr = some g) :
    exec (.arrayOpExecute c) s = .next (g s c o) := by
  obtain ⟨hq, -, -, -, -, hw⟩ := h
  show execArrayOpExecute c s = _
  rw [execArrayOpExecute, hq]
  cases hop : o.instr
  case mlds | mms | mmsp | mmv | accrd | accclr | accscl | txfin | txsave | txrest | txabort =>
    rw [hop] at hg
    cases hg
    simp only [hop, hw, Bool.false_eq_true, if_false]
  all_goals
    rw [hop] at hg
    cases hg

/-- 09 R215: an MLDS whose entries have come loads the tile. -/
theorem plainArray_mlds {g : Head} {f : FX} (hi : o.instr = .mlds g f) (hlen : o.mrows + 1 ≤ (s.core c).fs.length) :
    (s.plainArray c o).core c = ({ s.core c with
      fs := (s.core c).fs.drop (o.mrows + 1)
      tile := tileOf o (f.imm.getLsbD 0) ((s.core c).fs.take (o.mrows + 1)) } : Core).unqueued o ∧ (s.plainArray c o).mem = s.mem := by
  simp only [State.plainArray, hi, takeFrom_got h]
  rw [if_neg (by simp [hlen])]
  refine ⟨?_, ?_⟩
  · rw [core_popArray, core_dropPins, State.core_modCore, State.core_modCore]
  · rw [mem_popArray, State.dropPins_mem]
    rfl

/-- 09 R216: an MMS or MMSP whose entries have come, without poison, writes its destinations. -/
theorem plainArray_mms {g : Head} {f : FX} {sparse : Bool} (hi : o.instr = if sparse then .mmsp g f else .mms g f)
    (hlen : f.cnt.toNat + 1 ≤ (s.core c).fa.length)
    (hm : ∀ j, j < f.cnt.toNat + 1 → markedAt (s.core c).fa j = false) (ht : (s.core c).tile.poison = 0) :
    (∃ fl, (s.plainArray c o).core c = (Core.setCtx { s.core c with fa := (s.core c).fa.drop (f.cnt.toNat + 1) } o.ctx
      (((s.ctx c o.ctx).landVecs o.id ((List.range (f.cnt.toNat + 1)).map (mmsOut (s.core c) o f sparse))).raiseFlags fl)).unqueued o) ∧
    (s.plainArray c o).mem = s.mem := by
  have hplain : s.plainArray c o = (s.modCore c fun k => { k with fa := (s.core c).fa.drop (f.cnt.toNat + 1) }).doMms c o f sparse
      ((s.core c).fa.take (f.cnt.toNat + 1)) := by
    cases sparse <;> simp [State.plainArray, hi, takeFrom_got h, hlen]
  obtain ⟨fl, hdo⟩ := doMms_all (s := s.modCore c fun k => { k with fa := (s.core c).fa.drop (f.cnt.toNat + 1) }) (c := c) (o := o) (f := f)
    (sparse := sparse) (l := (s.core c).fa.take (f.cnt.toNat + 1)) fun j hj => by
      have hj' : j < f.cnt.toNat + 1 := hj.trans_le (List.length_take_le _ _)
      rw [State.core_modCore]
      exact mmsPick_clean sparse ht hj' (hm j hj')
  rw [hplain, hdo, List.length_take, Nat.min_eq_left hlen]
  refine ⟨⟨fl, ?_⟩, ?_⟩
  · rw [core_popArray, core_dropPins, core_landArray, State.ctx, State.core_modCore]
    rfl
  · rw [mem_popArray, State.dropPins_mem]
    rfl

/-- 09 R217: an MMV whose entries have come steps every row of the working bank. -/
theorem plainArray_mmv {g : Head} {f : FX} (hi : o.instr = .mmv g f) (hc : (f.imm.extractLsb' 0 7).toNat + 1 ≤ (s.core c).fc.length)
    (hb : (f.imm.extractLsb' 0 7).toNat + 1 ≤ (s.core c).fb.length) :
    let k := s.core c
    let n := (f.imm.extractLsb' 0 7).toNat + 1
    (∃ fl, (s.plainArray c o).core c = (Core.setCtx { k with
      fc := k.fc.drop n
      fb := k.fb.drop n
      work := Vector.ofFn fun r => (((List.range 64).map fun r => mmvRow o (k.fc.take n) (k.fb.take n) r (k.work.getD r 0)).getD r.val (0, 0)).1
      workPoison := if (k.fc.take n ++ k.fb.take n).any (·.poison) then k.workPoison ||| rowBits o.mrows else k.workPoison } o.ctx
        ((s.ctx c o.ctx).raiseFlags fl)).unqueued o) ∧
    (s.plainArray c o).mem = s.mem := by
  intro k n
  have hplain : s.plainArray c o = (s.modCore c fun k' => { k' with fc := k.fc.drop n, fb := k.fb.drop n }).doMmv c o
      (k.fc.take n) (k.fb.take n) := by
    simp only [State.plainArray, hi, takeFrom_got h, takeFrom_gotB h]
    rw [List.length_take, Nat.min_eq_left hc, List.length_take, Nat.min_eq_left hb, if_neg (by simp)]
  rw [hplain, State.doMmv]
  refine ⟨⟨((List.range 64).map fun r => mmvRow o (k.fc.take n) (k.fb.take n) r (k.work.getD r 0)).foldl (fun a r => a ||| r.2) 0, ?_⟩, ?_⟩
  · rw [core_popArray, core_dropPins, core_landArray, State.ctx, State.core_modCore, State.core_modCore]
    rfl
  · rw [mem_popArray, State.dropPins_mem]
    rfl

omit h in
/-- 09 R218: an ACCRD of rows without poison writes its destinations. -/
theorem plainArray_accrd {g : Head} {f : FX} (hi : o.instr = .accrd g f) (hw : (s.core c).workPoison = 0) (hch : (s.core c).chain.poison = 0) :
    (∃ fl, (s.plainArray c o).core c =
      ((s.core c).setCtx o.ctx (((s.ctx c o.ctx).landVecs o.id (accrdOuts (s.core c) o f)).raiseFlags fl)).unqueued o) ∧
    (s.plainArray c o).mem = s.mem := by
  have hmask : (if f.imm.getLsbD 4 then (s.core c).chain.poison else (s.core c).workPoison) = 0 := by
    rw [hw, hch, ite_self]
  have hplain : ∃ fl, s.plainArray c o = (s.landArray c o (accrdOuts (s.core c) o f) fl).popArray c o := by
    simp only [State.plainArray, hi, State.doAccrd, hmask]
    rw [if_neg (by simp), List.map_flatMap]
    simp only [List.map_map]
    exact ⟨_, rfl⟩
  obtain ⟨fl, hplain⟩ := hplain
  rw [hplain]
  refine ⟨⟨fl, ?_⟩, rfl⟩
  rw [core_popArray, core_landArray]

omit h in
/-- 09 R219: ACCSCL scales every row of the working bank. -/
theorem plainArray_accscl {g : Head} {f : FX} (hi : o.instr = .accscl g f) :
    (∃ fl, (s.plainArray c o).core c = (Core.setCtx { s.core c with work := ((s.core c).work.map (sclRow o.sA)).map (·.1) } o.ctx
      ((s.ctx c o.ctx).raiseFlags fl)).unqueued o) ∧ (s.plainArray c o).mem = s.mem := by
  have hplain : ∃ fl, s.plainArray c o = ((s.modCore c fun k =>
      { k with work := ((s.core c).work.map (sclRow o.sA)).map (·.1) }).landArray c o [] fl).popArray c o := by
    simp only [State.plainArray, hi]
    exact ⟨_, rfl⟩
  obtain ⟨fl, hplain⟩ := hplain
  rw [hplain]
  refine ⟨⟨fl, ?_⟩, ?_⟩
  · rw [core_popArray, core_landArray, State.ctx, State.core_modCore]
    rfl
  · rw [mem_popArray, mem_landArray, State.modCore_mem]

omit h in
/-- 09 R219: ACCCLR clears the working bank. -/
theorem plainArray_accclr {g : Head} {f : FX} (hi : o.instr = .accclr g f) :
    (s.plainArray c o).core c = ({ s.core c with work := Vector.replicate 64 0, workPoison := 0 } : Core).unqueued o ∧
    (s.plainArray c o).mem = s.mem := by
  simp only [State.plainArray, hi]
  refine ⟨?_, rfl⟩
  rw [core_popArray, State.core_modCore]

end

end Sys2Proof.Machine
end

section
/-! Plain array operations execute (09 R215 to R219): the obligation. -/
namespace Sys2Proof.Machine
open Sys2Proof.Claims

/-- A row of the working bank after an MMV. -/
theorem mmv_row (g : Nat → BitVec 4096 × Flags) {r : Nat} (hr : r < 64) :
    (Vector.ofFn fun i : Fin 64 => (((List.range 64).map g).getD i.val (0, 0)).1).getD r 0 = (g r).1 := by
  simp [Vector.getD, hr]

/-- 09 R217: poison joins rows 0 to `m`. -/
theorem marked_getLsbD (x : BitVec 64) {m r : Nat} (b : Bool) (hr : r < 64) :
    (if b then x ||| rowBits m else x).getLsbD r = (x.getLsbD r || (decide (r ≤ m) && b)) := by
  cases b
  · simp
  · rw [if_pos rfl, BitVec.getLsbD_or, getLsbD_rowBits hr, Bool.and_true]

theorem map_row (g : BitVec 4096 → BitVec 4096 × Flags) (v : Vector (BitVec 4096) 64) {r : Nat} (hr : r < 64) :
    ((v.map g).map (·.1)).getD r 0 = (g (v.getD r 0)).1 := by
  simp [Vector.getD, hr]

theorem setCtx_getReg (k : Core) (o : ArrayOp) (x : Ctx) (r : Reg) : (((k.setCtx o.ctx x).unqueued o).getCtx o.ctx).getReg r = x.getReg r := by
  rw [unqueued_getReg, Core.getCtx_setCtx]

/-- 09 R216: what an MMS or MMSP without poison leaves. -/
theorem mms_answers {s : State} {c : CoreRef} {o : ArrayOp} {rest : List ArrayOp} {g : Head} {f : FX} {sparse : Bool} (h : AtHead s c o rest)
    (hi : o.instr = if sparse then .mmsp g f else .mms g f) (hlen : f.cnt.toNat + 1 ≤ (s.core c).fa.length)
    (hv : f.vec.toNat + f.cnt.toNat ≤ 31) (hm : ∀ j, j < f.cnt.toNat + 1 → markedAt (s.core c).fa j = false)
    (ht : (s.core c).tile.poison = 0) :
    answers (.arrayOpExecute c) s fun t =>
      (∀ j r, j < f.cnt.toNat + 1 → r < 64 →
        bitsAt 32 ((t.ctx c o.ctx).getReg (.v (BitVec.ofNat 5 (f.vec.toNat + j)))) r =
          BitVec.ofNat 32 (mmsLane o (s.core c).tile sparse (f.imm.getLsbD 0) (entryAt (s.core c).fa j) (o.vs.getD j 0) r).1) ∧
      (t.core c).fa = (s.core c).fa.drop (f.cnt.toNat + 1) ∧ (t.core c).arrayQ = rest ∧ t.mem = s.mem := by
  obtain ⟨⟨fl, hcore⟩, hmem⟩ := plainArray_mms h hi hlen hm ht
  refine ⟨_, exec_headOp h (by rw [hi]; cases sparse <;> rfl), ?_⟩
  dsimp only
  rw [State.ctx, hcore]
  refine ⟨fun j r hj hr => ?_, rfl, unqueued_arrayQ h rfl, hmem⟩
  have hmemb : mmsOut (s.core c) o f sparse j ∈ (List.range (f.cnt.toNat + 1)).map (mmsOut (s.core c) o f sparse) :=
    List.mem_map.mpr ⟨j, List.mem_range.mpr hj, rfl⟩
  rw [setCtx_getReg, raiseFlags_getReg_v, landVecs_of_mem _ (mmsOut_distinct _ o f sparse hv) hmemb]
  exact (bitsAt_ofLanes _ (by omega)).trans (congrArg (BitVec.ofNat 32) (getD_range_map _ _ hr))

end Sys2Proof.Machine

open Sys2Proof Sys2Proof.Machine Sys2Proof.Claims

/-- Settles O34, instruction by instruction: what the core is after the operation stands in the lemmas `plainArray_…`. -/
theorem plainArrayOperationsExecute : Obligations.PlainArrayOperationsExecute := by
  unfold Obligations.PlainArrayOperationsExecute
  intro s c o rest hat k m aty
  have hexec (hp : headOp o.instr = some State.plainArray) : exec (.arrayOpExecute c) s = .next (s.plainArray c o) := exec_headOp hat hp
  refine ⟨fun g f hi hlen => ?mlds, fun g f hi hlen hv hm ht => ?mms, fun g f hi hc hb => ?mmv, fun g f hi hw hch => ?accrd,
    fun g f hi => ?accclr, fun g f hi => ?accscl⟩
  case mlds =>
    obtain ⟨hcore, hmem⟩ := plainArray_mlds hat hi hlen
    refine ⟨_, hexec (by rw [hi]; rfl), ?_⟩
    dsimp only
    rw [hcore]
    exact ⟨fun r hr => ⟨tileOf_row o _ _ hr, tileOf_poison o _ _ hr⟩, rfl, rfl, rfl, rfl, unqueued_arrayQ hat rfl, hmem⟩
  case mms =>
    rcases hi with hi | hi
    · have hmms := mms_answers (sparse := false) hat hi hlen hv hm ht
      simp only [hi]
      exact hmms
    · have hmms := mms_answers (sparse := true) hat hi hlen hv hm ht
      simp only [hi]
      exact hmms
  case mmv =>
    obtain ⟨⟨fl, hcore⟩, hmem⟩ := plainArray_mmv hat hi hc hb
    refine ⟨_, hexec (by rw [hi]; rfl), ?_⟩
    dsimp only
    rw [hcore]
    refine ⟨fun r hr => mmv_row _ hr, fun r hr => ?_, rfl, rfl, unqueued_arrayQ hat rfl, hmem⟩
    exact marked_getLsbD k.workPoison _ hr
  case accrd =>
    obtain ⟨⟨fl, hcore⟩, hmem⟩ := plainArray_accrd hi hw hch
    refine ⟨_, hexec (by rw [hi]; rfl), ?_⟩
    dsimp only
    rw [State.ctx, hcore]
    have hreg {n : BitVec 5} {v : Vec} (hv : (.v n, v) ∈ accrdOuts k o f) :
        ((((k.setCtx o.ctx (((s.ctx c o.ctx).landVecs o.id (accrdOuts k o f)).raiseFlags fl)).unqueued o).getCtx o.ctx).getReg (.v n)) = v := by
      rw [setCtx_getReg, raiseFlags_getReg_v, landVecs_of_mem _ (accrdOuts_distinct k o f) hv]
    refine ⟨fun hbf i p hi hp hlt => ?f32, fun hbf i j hi hlt hj => ?bf16, unqueued_arrayQ hat rfl, hmem⟩
    case f32 =>
      have hpart := mem_accrdOuts (k := k) (o := o) (f := f) (i := i) (x := (f.vec.toNat + 2 * i + p, p)) hi
        (by rw [hbf]; interval_cases p <;> simp) hlt
      rw [hbf] at hpart
      rw [hreg hpart, drainPart_f32]
      rfl
    case bf16 =>
      have hpart := mem_accrdOuts (k := k) (o := o) (f := f) (i := i) (x := (f.vec.toNat + i, 0)) hi (by rw [hbf]; simp) hlt
      rw [hbf] at hpart
      rw [hreg hpart, drainPart_bf16 _ _ hj]
      rfl
  case accclr =>
    obtain ⟨hcore, hmem⟩ := plainArray_accclr hi
    refine ⟨_, hexec (by rw [hi]; rfl), ?_⟩
    dsimp only
    rw [hcore]
    exact ⟨rfl, rfl, unqueued_arrayQ hat rfl, hmem⟩
  case accscl =>
    obtain ⟨⟨fl, hcore⟩, hmem⟩ := plainArray_accscl hi
    refine ⟨_, hexec (by rw [hi]; rfl), ?_⟩
    dsimp only
    rw [hcore]
    refine ⟨fun r j hr hj => ?_, unqueued_arrayQ hat rfl, hmem⟩
    rw [← sclRow_cell o.sA _ hj]
    exact congrArg (·.extractLsb' (32 * j) 32) (map_row (sclRow o.sA) k.work hr)
end

section
/-! SUPPORT. What the accesses of chain operations leave (09 R221 to R228, 10 R266, 18 R410). -/
namespace Sys2Proof.Machine
open Sys2Proof.Claims

/-! ### Reads and writes of device memory, through walks and records -/

theorem Noted.core {s t : State} (h : Noted s t) (c : CoreRef) : t.core c = s.core c := by simp only [State.core, h.cores]

theorem Noted.readDev {s t : State} (h : Noted s t) (p : Place) (n : Nat) : t.readDev p n = s.readDev p n := by
  simp only [State.readDev, h.mem, h.poison]

theorem Noted.poisonAt {s t : State} (h : Noted s t) (p : Place) (n : Nat) : t.poisonAt p n = s.poisonAt p n := by
  simp only [State.poisonAt, h.poison]

theorem Noted.spanRead {s t : State} (h : Noted s t) (l : List (Place × Nat)) : t.spanRead l = s.spanRead l := by
  simp only [State.spanRead, h.readDev]

theorem Noted.spanPoisonVa {s t : State} (h : Noted s t) (l : List (Place × Nat)) (va : Word) : t.spanPoisonVa l va = s.spanPoisonVa l va := by
  induction l generalizing va with
  | nil => rfl
  | cons p l ih => rw [State.spanPoisonVa, State.spanPoisonVa, h.poisonAt, h.poison, ih]

/-- What a write of a range leaves in memory depends on what memory held. -/
theorem spanWrite_mem {s t : State} (h : t.mem = s.mem) (l : List (Place × Nat)) (b : List Byte) : (t.spanWrite l b).mem = (s.spanWrite l b).mem := by
  induction l generalizing s t b with
  | nil => exact h
  | cons p l ih => exact ih (congrArg (writeBytes · p.1.key (b.take p.2)) h) _

theorem spanWrite_cores (s : State) (l : List (Place × Nat)) (b : List Byte) : (s.spanWrite l b).cores = s.cores := by
  induction l generalizing s b with
  | nil => rfl
  | cons p l ih => exact ih _ _

theorem noted_recordMx (s : State) (c : CoreRef) (o : ArrayOp) (l : List (Nat × Nat)) (w : Bool) : Noted s (s.recordMx c o l w) :=
  noted_foldl (fun t _ => noted_recordRace t _) l s

/-- 18 R399: an array operation that reaches its range has walked to it. -/
theorem meetArray_ok {s : State} {c : CoreRef} {o : ArrayOp} {va : Word} {n : Nat} {wr : Bool} {l : List (Place × Nat)} (data : List Byte)
    (h : s.near c.die (s.stream (s.ctx c o.ctx).stream).tenant (s.stream (s.ctx c o.ctx).stream).asid va n (!wr) wr false = .ok l) :
    ∃ t, Noted s t ∧ s.meetArray c o va n wr data = (t, .ok l) := by
  refine ⟨s.fillRange (s.stream (s.ctx c o.ctx).stream).asid (s.routed c.die va) n, noted_fillRange s _ _ _, ?_⟩
  rw [State.meetArray, State.meet, h]

/-! ### Bytes that the matrix agent writes to a scratchpad -/

/-- A write that is stored, and marks its units if it has an error (18 R414). -/
def State.storePoisoned (s : State) (k : Nat) (b : List Byte) (p : Bool) : State :=
  if p then { s.storeAt k b with poison := addPoison (s.storeAt k b).poison k b.length } else s.storeAt k b

theorem storePoisoned_mem (s : State) (k : Nat) (b : List Byte) (p : Bool) : (s.storePoisoned k b p).mem = writeBytes s.mem k b := by
  unfold State.storePoisoned
  cases p <;> rfl

theorem storePoisoned_cores (s : State) (k : Nat) (b : List Byte) (p : Bool) : (s.storePoisoned k b p).cores = s.cores := by
  unfold State.storePoisoned
  cases p <;> rfl

section
variable (s : State) (c : CoreRef) (o : ArrayOp) (off : Nat) (b : List Byte) (p : Bool)

theorem mxWrite_eq : s.mxWrite c o off b p =
    (s.recordMx c o [(spadKey c.die c.core off, b.length)] true).storePoisoned (spadKey c.die c.core off) b p := by
  unfold State.mxWrite State.storePoisoned
  exact rfl

theorem mxWrite_cores : (s.mxWrite c o off b p).cores = s.cores := by
  rw [mxWrite_eq, storePoisoned_cores, (noted_recordMx s c o _ true).cores]

theorem mxWrite_mem : (s.mxWrite c o off b p).mem = writeBytes s.mem (spadKey c.die c.core off) b := by
  rw [mxWrite_eq, storePoisoned_mem, (noted_recordMx s c o _ true).mem]

end

theorem mxWrites_cores {α : Type} (c : CoreRef) (o : ArrayOp) (off : α → Nat) (b : α → List Byte) (p : α → Bool) (l : List α) (s : State) :
    (l.foldl (fun s r => s.mxWrite c o (off r) (b r) (p r)) s).cores = s.cores :=
  foldl_keeps (p := fun t : State => t.cores = s.cores) (fun t _ h => (mxWrite_cores t c o _ _ _).trans h) l s rfl

theorem mxWrites_mem {α : Type} (c : CoreRef) (o : ArrayOp) (off : α → Nat) (b : α → List Byte) (p : α → Bool) (l : List α) (s : State) :
    (l.foldl (fun s r => s.mxWrite c o (off r) (b r) (p r)) s).mem =
      l.foldl (fun m r => writeBytes m (spadKey c.die c.core (off r)) (b r)) s.mem := by
  induction l generalizing s with
  | nil => rfl
  | cons r l ih => rw [List.foldl_cons, ih, mxWrite_mem, List.foldl_cons]

theorem spadKey_add (d : BitVec 2) (c : BitVec 8) (a b : Nat) : spadKey d c (a + b) = spadKey d c a + b :=
  (Nat.add_assoc _ _ _).symm

/-- Rows of bytes, one every `w` bytes from a key. -/
def writeRows (key w : Nat) (b : Nat → List Byte) (n : Nat) (m : Memory) : Memory :=
  (List.range n).foldl (fun m r => writeBytes m (key + r * w) (b r)) m

section
variable {key w : Nat} {b : Nat → List Byte} {m : Memory}

theorem writeRows_succ (n : Nat) : writeRows key w b (n + 1) m = writeBytes (writeRows key w b n m) (key + n * w) (b n) := by
  simp [writeRows, List.range_succ]

theorem writeRows_wf (hm : m.wf = true) (n : Nat) : Memory.wf (writeRows key w b n m) = true :=
  foldl_keeps (p := fun m : Memory => m.wf = true) (fun _ _ h => writeBytes_wf _ _ h) _ m hm

/-- Each row holds its bytes: the later rows are elsewhere. -/
theorem readByte_writeRows (hm : m.wf = true) (hb : ∀ r, (b r).length ≤ w) {n r j : Nat} (hr : r < n) (hj : j < (b r).length) :
    readByte (writeRows key w b n m) (key + r * w + j) = (b r).getD j 0 := by
  induction n with
  | zero => exact absurd hr (Nat.not_lt_zero r)
  | succ n ih =>
    rw [writeRows_succ, readByte_writeBytes (writeRows_wf hm n)]
    by_cases hn : r = n
    · subst hn
      rw [if_pos (by omega)]
      exact congrArg (fun i => (b r).getD i 0) (by omega)
    · have hlt : r < n := by omega
      have hrow : r * w + w ≤ n * w := by
        rw [← Nat.succ_mul]
        exact Nat.mul_le_mul_right w hlt
      have hw := hb r
      rw [if_neg (by omega), ih hlt]

theorem readByte_writeRows_of_not {n a : Nat} (hm : m.wf = true) (h : ∀ r j, r < n → j < (b r).length → a ≠ key + r * w + j) :
    readByte (writeRows key w b n m) a = readByte m a := by
  induction n with
  | zero => rfl
  | succ n ih =>
    have hout : ¬(key + n * w ≤ a ∧ a < key + n * w + (b n).length) := fun hin =>
      h n (a - (key + n * w)) (Nat.lt_succ_self n) (by omega) (by omega)
    rw [writeRows_succ, readByte_writeBytes (writeRows_wf hm n), if_neg hout, ih fun r j hr => h r j (hr.trans (Nat.lt_succ_self n))]

end

theorem length_flatMap_const {α β : Type} {f : α → List β} {k : Nat} (h : ∀ a, (f a).length = k) (l : List α) :
    (l.flatMap f).length = k * l.length := by
  rw [List.length_flatMap, List.map_congr_left (fun a _ => h a), List.map_const', List.sum_replicate, smul_eq_mul, Nat.mul_comm]

end Sys2Proof.Machine
end

section
/-! Chain operations of the array queue but for steps (09 R221, R226 to R228): what each leaves of its core and of memory. -/
namespace Sys2Proof.Machine
open Sys2Proof.Claims

/-- The core whose Triptych has been released (09 R228). -/
def Core.released (k : Core) : Core := { k with owner := none, stepDone := 0 }

theorem core_release (s : State) (c : CoreRef) : (s.release c).core c = (s.core c).released := State.core_modCore s c _

theorem mem_release (s : State) (c : CoreRef) : (s.release c).mem = s.mem := rfl

/-! ### TXFIN (09 R226) -/

theorem finRow_length (ch : Chain) (bf : Bool) (r : Nat) :
    (finRow ch bf r).1.length = (if bf then 2 else 4) * (cfgField ch.cfg 0x10 13 7 + 1) := by
  rw [finRow]
  dsimp only
  rw [length_flatMap_const (k := if bf then 2 else 4) (fun _ => length_bytesOfNat _ _), List.length_map, List.length_range]
  rfl

theorem cfgField_lt (g : BitVec 1536) (off hi lo : Nat) : cfgField g off hi lo < 2 ^ (hi + 1 - lo) := by
  unfold cfgField bitsOf
  refine (Nat.mod_lt _ (Nat.two_pow_pos _)).trans_le ?_
  exact Nat.pow_le_pow_right two_pos (by omega)

/-- The rows that a TXFIN finds empty (09 R226). -/
def finEmpty (ch : Chain) : BitVec 64 :=
  ch.empty ||| BitVec.ofNat 64 ((List.range (cfgRows ch.cfg + 1)).foldl (fun a r => a + if ch.l.getD r 0 == 0 then 2 ^ r else 0) 0)

theorem getLsbD_finEmpty (ch : Chain) {r : Nat} (hr : r < 64) :
    (finEmpty ch).getLsbD r = (ch.empty.getLsbD r || (decide (r ≤ cfgField ch.cfg 0x10 19 14) && ch.l.getD r 0 == 0)) := by
  rw [finEmpty, BitVec.getLsbD_or, foldl_pick_eq, BitVec.getLsbD_ofNat, (bitsOfList_filter (fun r => ch.l.getD r 0 == 0) _).2, cfgRows]
  simp [hr]

/-- The block of statistics that a TXFIN may write. -/
def finStats (ch : Chain) (empty : BitVec 64) : List Byte :=
  (ch.m.toList.flatMap fun x => bytesOfNat x.toNat 4) ++ (ch.l.toList.flatMap fun x => bytesOfNat x.toNat 4) ++
    bytesOfNat ch.poison.toNat 8 ++ bytesOfNat empty.toNat 8

theorem finStats_length (ch : Chain) (empty : BitVec 64) : (finStats ch empty).length = 528 := by
  have h (v : Vector (BitVec 32) 64) : (v.toList.flatMap fun x => bytesOfNat x.toNat 4).length = 256 := by
    rw [length_flatMap_const (k := 4) (fun _ => length_bytesOfNat _ _), Vector.length_toList]
  rw [finStats, List.length_append, List.length_append, List.length_append, h, h, length_bytesOfNat, length_bytesOfNat]

section
variable (s : State) (c : CoreRef) (o : ArrayOp) (stats : Bool)

/-- The distance of a TXFIN's rows in the scratchpad. -/
def finPitch (o : ArrayOp) : Nat := if o.fmt.getLsbD 15 then 256 else 512

/-- The state in which the rows of a TXFIN are written. -/
def State.finRows : State :=
  (List.range (cfgRows (s.core c).chain.cfg + 1)).foldl (fun t r => t.mxWrite c o (o.sA.toNat % 2 ^ 20 + r * finPitch o)
    (finRow (s.core c).chain (o.fmt.getLsbD 15) r).1 ((s.core c).chain.poison.getLsbD r)) s

/-- And the one in which its statistics are written too, if they are asked for. -/
def State.finWrites : State :=
  let t := (s.finRows c o).modCore c fun k => { k with chain := { k.chain with empty := finEmpty (s.core c).chain } }
  if stats then t.mxWrite c o (o.sA.toNat % 2 ^ 20 + 64 * finPitch o) (finStats (s.core c).chain (finEmpty (s.core c).chain)) false else t

theorem doTxfin_eq : ∃ fl, s.doTxfin c o stats = (((s.finWrites c o stats).landArray c o [] fl).release c).popArray c o := by
  rw [State.doTxfin]
  dsimp only
  simp only [List.foldl_map]
  exact ⟨_, rfl⟩

theorem core_finWrites : (s.finWrites c o stats).core c =
    { s.core c with chain := { (s.core c).chain with empty := finEmpty (s.core c).chain } } := by
  have hrows : (s.finRows c o).core c = s.core c := congrArg (lookupCore · (coreKey c)) (mxWrites_cores c o _ _ _ _ s)
  have hmod : ((s.finRows c o).modCore c fun k => { k with chain := { k.chain with empty := finEmpty (s.core c).chain } }).core c =
      { s.core c with chain := { (s.core c).chain with empty := finEmpty (s.core c).chain } } := by
    rw [State.core_modCore, hrows]
  rw [State.finWrites]
  dsimp only
  split
  · exact (congrArg (lookupCore · (coreKey c)) (mxWrite_cores _ c o _ _ _)).trans hmod
  · exact hmod

/-- 09 R226: what a TXFIN leaves of its core. -/
theorem core_doTxfin : ∃ fl, (s.doTxfin c o stats).core c =
    (Core.released (Core.setCtx { s.core c with chain := { (s.core c).chain with empty := finEmpty (s.core c).chain } } o.ctx
      ((s.ctx c o.ctx).raiseFlags fl))).unqueued o := by
  obtain ⟨fl, hfin⟩ := doTxfin_eq s c o stats
  refine ⟨fl, ?_⟩
  rw [hfin, core_popArray, core_release, core_landArray, State.ctx, core_finWrites]
  rfl

/-- 09 R226: the bytes that a TXFIN writes: its rows, and then its statistics. -/
theorem mem_doTxfin :
    let ch := (s.core c).chain
    let key := spadKey c.die c.core (o.sA.toNat % 2 ^ 20)
    let rows := writeRows key (finPitch o) (fun r => (finRow ch (o.fmt.getLsbD 15) r).1) (cfgRows ch.cfg + 1) s.mem
    (s.doTxfin c o stats).mem = if stats then writeBytes rows (key + 64 * finPitch o) (finStats ch (finEmpty ch)) else rows := by
  intro ch key rows
  have hrows : (s.finRows c o).mem = rows := by
    rw [State.finRows, mxWrites_mem]
    simp only [spadKey_add]
    rfl
  obtain ⟨fl, hfin⟩ := doTxfin_eq s c o stats
  rw [hfin, mem_popArray, mem_release, mem_landArray, State.finWrites]
  cases stats
  · exact hrows
  · dsimp only
    rw [if_pos rfl, if_pos rfl, mxWrite_mem, State.modCore_mem, hrows, spadKey_add]

end

/-! ### TXBIND, TXSAVE, TXREST and TXABORT (09 R221, R227, R228) -/

section
variable {s : State} {c : CoreRef} {o : ArrayOp} {rest : List ArrayOp}

/-- 09 R221: a TXBIND whose entries have come binds the chain. -/
theorem exec_txbind {g : Head} {f : FX} (h : AtHead s c o rest) (hi : o.instr = .txbind g f)
    (hlen : cfgRows (bindCfg o) + 1 ≤ (s.core c).fs.length) :
    let n := cfgRows (bindCfg o) + 1
    ∃ t, exec (.arrayOpExecute c) s = .next t ∧ t.mem = s.mem ∧ t.core c = ({ s.core c with
      fs := (s.core c).fs.drop n
      chain := bindChain (bindCfg o) ((s.core c).fs.take n)
      tile := Tile.empty } : Core).unqueued o := by
  intro n
  obtain ⟨hq, -, -, -, -, hw⟩ := id h
  refine ⟨(((s.modCore c fun k => { k with fs := (s.core c).fs.drop n }).modCore c fun k => { k with
    chain := bindChain (bindCfg o) ((s.core c).fs.take n), tile := Tile.empty }).dropPins ((s.core c).fs.take n)).popArray c o, ?_, ?_, ?_⟩
  · show execArrayOpExecute c s = _
    simp only [execArrayOpExecute, hq, hw, hi, takeFrom_got h, Bool.false_eq_true, if_false]
    rw [if_neg (by simp [hlen])]
  · rw [mem_popArray, State.dropPins_mem]
    rfl
  · rw [core_popArray, core_dropPins, State.core_modCore, State.core_modCore]

/-- 09 R227: a TXSAVE to the scratchpad. -/
theorem doTxsave_spad : (s.doTxsave c o false).mem = writeBytes s.mem (spadKey c.die c.core o.sA.toNat) (chainImage (s.core c).chain) ∧
    (s.doTxsave c o false).core c = (s.core c).released.unqueued o := by
  have hsave : s.doTxsave c o false = ((s.mxWrite c o o.sA.toNat (chainImage (s.core c).chain) false).release c).popArray c o := rfl
  rw [hsave]
  refine ⟨by rw [mem_popArray, mem_release, mxWrite_mem], ?_⟩
  rw [core_popArray, core_release, State.core, mxWrite_cores]
  rfl

/-- 09 R227: a TXSAVE to device space that it reaches. -/
theorem doTxsave_dev {l : List (Place × Nat)}
    (hl : s.near c.die (s.stream (s.ctx c o.ctx).stream).tenant (s.stream (s.ctx c o.ctx).stream).asid o.sA imageBytes false true false = .ok l) :
    (s.doTxsave c o true).mem = (s.spanWrite l (chainImage (s.core c).chain)).mem ∧
    (s.doTxsave c o true).core c = (s.core c).released.unqueued o := by
  obtain ⟨t, ht, hmeet⟩ := meetArray_ok (wr := true) (chainImage (s.core c).chain) hl
  have hrec := ht.trans (noted_recordMx t c o (racedPieces l) true)
  have hsave : s.doTxsave c o true =
      (((t.recordMx c o (racedPieces l) true).spanWrite l (chainImage (s.core c).chain)).release c).popArray c o := by
    rw [State.doTxsave]
    dsimp only
    rw [if_pos rfl, hmeet]
  rw [hsave]
  refine ⟨by rw [mem_popArray, mem_release, spanWrite_mem hrec.mem], ?_⟩
  rw [core_popArray, core_release, State.core, spanWrite_cores, hrec.cores]
  rfl

/-- 09 R227: a good image becomes the chain. -/
theorem bindImage_good {t : State} {img : List Byte} {x : Chain} (ht : Noted s t) (hx : chainOfImage img (o.fmt.extractLsb' 8 4) = some x) :
    (t.bindImage c o img).mem = s.mem ∧ (t.bindImage c o img).core c = ({ s.core c with chain := x } : Core).unqueued o := by
  have hbind : t.bindImage c o img = (t.modCore c fun k => { k with chain := x }).popArray c o := by
    unfold State.bindImage
    generalize chainOfImage img (o.fmt.extractLsb' 8 4) = y at hx ⊢
    subst hx
    rfl
  rw [hbind]
  refine ⟨?_, ?_⟩
  · rw [mem_popArray, State.modCore_mem, ht.mem]
  · rw [core_popArray, State.core_modCore, ht.core]

theorem doTxrest_spad {x : Chain} (hp : isPoisoned s.poison (spadKey c.die c.core o.sA.toNat) imageBytes = false)
    (hx : chainOfImage (readBytes s.mem (spadKey c.die c.core o.sA.toNat) imageBytes) (o.fmt.extractLsb' 8 4) = some x) :
    (s.doTxrest c o false).mem = s.mem ∧ (s.doTxrest c o false).core c = ({ s.core c with chain := x } : Core).unqueued o := by
  have hrest : s.doTxrest c o false = (s.recordMx c o [(spadKey c.die c.core o.sA.toNat, imageBytes)] false).bindImage c o
      (readBytes s.mem (spadKey c.die c.core o.sA.toNat) imageBytes) := by
    rw [State.doTxrest]
    dsimp only
    rw [if_neg (by decide), if_neg (by rw [hp]; decide)]
  rw [hrest]
  exact bindImage_good (noted_recordMx s c o _ _) hx

theorem doTxrest_dev {x : Chain} {l : List (Place × Nat)}
    (hl : s.near c.die (s.stream (s.ctx c o.ctx).stream).tenant (s.stream (s.ctx c o.ctx).stream).asid o.sA imageBytes true false false = .ok l)
    (hp : s.spanPoisonVa l o.sA = none) (hx : chainOfImage (s.spanRead l) (o.fmt.extractLsb' 8 4) = some x) :
    (s.doTxrest c o true).mem = s.mem ∧ (s.doTxrest c o true).core c = ({ s.core c with chain := x } : Core).unqueued o := by
  obtain ⟨t, ht, hmeet⟩ := meetArray_ok (wr := false) [] hl
  rw [← ht.spanPoisonVa] at hp
  rw [← ht.spanRead] at hx
  have hrest : ∃ u, Noted s u ∧ s.doTxrest c o true = u.bindImage c o (t.spanRead l) := by
    refine ⟨(t.recordMx c o (racedPieces l) false).countSubst (t.stream (t.ctx c o.ctx).stream).asid l,
      ht.trans ((noted_recordMx t c o (racedPieces l) false).trans (noted_countSubst _ _ _)), ?_⟩
    rw [State.doTxrest]
    dsimp only
    rw [if_pos rfl, hmeet]
    dsimp only
    rw [hp]
  obtain ⟨u, hu, hrest⟩ := hrest
  rw [hrest]
  exact bindImage_good hu hx

/-- 09 R228: a TXABORT releases the Triptych. -/
theorem doTxabort_release : (s.doTxabort c o false).mem = s.mem ∧ (s.doTxabort c o false).core c = (s.core c).released.unqueued o := by
  have habort : s.doTxabort c o false = (s.release c).popArray c o := rfl
  rw [habort]
  refine ⟨rfl, ?_⟩
  rw [core_popArray, core_release]

/-- 09 R228: or it empties the FIFOs. -/
theorem doTxabort_empty : (s.doTxabort c o true).mem = s.mem ∧
    (s.doTxabort c o true).core c = ({ s.core c with fs := [], fa := [], fb := [], fc := [] } : Core).unqueued o := by
  have habort : s.doTxabort c o true = (((s.dropPins ((s.core c).fs ++ (s.core c).fa ++ (s.core c).fb ++ (s.core c).fc)).modCore c fun k =>
      { k with fs := [], fa := [], fb := [], fc := [] }).freeLinks c fun _ => true).popArray c o := rfl
  have hlinks (u : State) : (u.freeLinks c fun _ => true).core c = u.core c :=
    congrArg (lookupCore · (coreKey c)) (offDie_cores (offDie_freeLinks u c _))
  rw [habort]
  refine ⟨?_, ?_⟩
  · rw [mem_popArray, State.freeLinks_mem, State.modCore_mem, State.dropPins_mem]
  · rw [core_popArray, hlinks, State.core_modCore, core_dropPins]

end

end Sys2Proof.Machine
end

section
/-! Chain steps (09 R222, R223): the block that commits, and the step that ends. -/
namespace Sys2Proof.Machine
open Sys2Proof.Claims

/-- The state in which a block has committed (09 R222). -/
def State.committed (s : State) (c : CoreRef) (o : ArrayOp) (b : BlockIn) : State :=
  let ch := (s.core c).chain
  let t := txBlock ch b
  let u := ((s.forward c ch.cfg o).freeLinks c fun e => e.held).dropPins (o.got ++ o.gotB ++ o.gotC)
  (u.modCore c fun k => { k with
    chain := t.1, stepDone := k.stepDone + 1
    work := Vector.ofFn fun r =>
      let old := k.work.getD r.val 0
      if r.val < t.2.1.length then colMerge (cfgCols ch.cfg) old (t.2.1.getD r.val 0) else old }).landArray c o [] t.2.2

/-- How the TXSTEP goes on after a block: one with new poison, and the last one, end it (09 R223, R224, 12 R298). -/
def State.afterBlock (s : State) (c : CoreRef) (o : ArrayOp) (f : FX) (fresh last : Bool) : State :=
  let n := o.sA.toNat % 2 ^ 32
  let x := s.ctx c o.ctx
  if fresh then (s.endStep c o f true).reportArray c o 0x111 0 (kindInfo 3)
  else if last || (n != 0 && (s.core c).stepDone == n) then s.endStep c o f true
  else if !x.takable.isEmpty then s.endStep c o f false
  else if x.preempt && !x.hmode then
    ((s.modCore c fun k => { k with work := s.freeBank c }).endStep c o f false).modCtx c o.ctx fun x =>
      { x with life := .saving, resumePc := o.pc }
  else s.keepGot c o

theorem commitBlock_eq (s : State) (c : CoreRef) (o : ArrayOp) (f : FX) (b : BlockIn) :
    s.commitBlock c o f b = (s.committed c o b).afterBlock c { o with got := [], gotB := [], gotC := [] } f
      ((txBlock (s.core c).chain b).1.poison != (s.core c).chain.poison) ((txBlock (s.core c).chain b).1.left == 0) := by
  unfold State.commitBlock State.afterBlock State.committed
  exact rfl

/-- The chain of a core, what stands in its FA and FB, and memory. -/
structure Fed (t : State) (c : CoreRef) (ch : Chain) (fa fb : List FifoEntry) (m : Memory) : Prop where
  chain : (t.core c).chain = ch
  fa : (t.core c).fa = fa
  fb : (t.core c).fb = fb
  mem : t.mem = m

namespace Fed

theorem refl (s : State) (c : CoreRef) : Fed s c (s.core c).chain (s.core c).fa (s.core c).fb s.mem := ⟨rfl, rfl, rfl, rfl⟩

section
variable {t : State} {c : CoreRef} {ch : Chain} {fa fb : List FifoEntry} {m : Memory} (h : Fed t c ch fa fb m)
include h

theorem of_cores {u : State} (hc : u.cores = t.cores) (hm : u.mem = t.mem) : Fed u c ch fa fb m := by
  have hcore : u.core c = t.core c := congrArg (lookupCore · (coreKey c)) hc
  exact ⟨by rw [hcore, h.chain], by rw [hcore, h.fa], by rw [hcore, h.fb], hm.trans h.mem⟩

/-- A change of the core that leaves the chain, FA and FB. -/
theorem modCore {f : Core → Core} (hch : (f (t.core c)).chain = (t.core c).chain) (hfa : (f (t.core c)).fa = (t.core c).fa)
    (hfb : (f (t.core c)).fb = (t.core c).fb) : Fed (t.modCore c f) c ch fa fb m := by
  refine ⟨?_, ?_, ?_, h.mem⟩
  · rw [State.core_modCore, hch, h.chain]
  · rw [State.core_modCore, hfa, h.fa]
  · rw [State.core_modCore, hfb, h.fb]

theorem modCtx (x : BitVec 2) (f : Ctx → Ctx) : Fed (t.modCtx c x f) c ch fa fb m :=
  h.modCore (f := fun k => k.setCtx x (f (t.ctx c x))) rfl rfl rfl

theorem dropPins (l : List FifoEntry) : Fed (t.dropPins l) c ch fa fb m :=
  h.of_cores (offDie_cores (offDie_dropPins t l)) (State.dropPins_mem t l)

theorem freeLinks (g : LinkEntry → Bool) : Fed (t.freeLinks c g) c ch fa fb m :=
  h.of_cores (offDie_cores (offDie_freeLinks t c g)) (State.freeLinks_mem t c g)

theorem landArray (o : ArrayOp) (l : List (Reg × Vec)) (fl : Flags) : Fed (t.landArray c o l fl) c ch fa fb m := h.modCtx _ _

theorem popArray (o : ArrayOp) : Fed (t.popArray c o) c ch fa fb m := by
  refine ⟨?_, ?_, ?_, h.mem⟩
  · rw [core_popArray]
    exact h.chain
  · rw [core_popArray]
    exact h.fa
  · rw [core_popArray]
    exact h.fb

theorem endStep (o : ArrayOp) (f : FX) (adv : Bool) : Fed (t.endStep c o f adv) c ch fa fb m :=
  ((h.modCtx _ _).modCore (f := fun k => { k with stepDone := 0 }) rfl rfl rfl).popArray o

theorem reportArray (o : ArrayOp) (code : Nat) (a i : Word) : Fed (t.reportArray c o code a i) c ch fa fb m := h.modCtx _ _

theorem keepGot (o : ArrayOp) : Fed (t.keepGot c o) c ch fa fb m :=
  h.modCore (f := fun k => { k with arrayQ := k.arrayQ.map fun x => if x.id == o.id then o else x }) rfl rfl rfl

/-- 12 R301: entries for a block from the core's FA. -/
theorem feedA (hk : cfgKChan ch.cfg = none) (got : List FifoEntry) (n : Nat) :
    ∃ u, t.feedA c got n = (u, (takeFrom fa got n).1) ∧ Fed u c ch (takeFrom fa got n).2 fb m := by
  refine ⟨t.modCore c fun k => { k with fa := (takeFrom fa got n).2 }, ?_, ?_⟩
  · rw [State.feedA, h.chain, hk]
    dsimp only
    rw [h.fa]
  · refine ⟨?_, ?_, ?_, h.mem⟩
    · rw [State.core_modCore]; exact h.chain
    · rw [State.core_modCore]
    · rw [State.core_modCore]; exact h.fb

theorem feedB (hv : cfgVChan ch.cfg = none) (got : List FifoEntry) (n : Nat) :
    ∃ u, t.feedB c got n = (u, (takeFrom fb got n).1) ∧ Fed u c ch fa (takeFrom fb got n).2 m := by
  refine ⟨t.modCore c fun k => { k with fb := (takeFrom fb got n).2 }, ?_, ?_⟩
  · rw [State.feedB, h.chain, hv]
    dsimp only
    rw [h.fb]
  · refine ⟨?_, ?_, ?_, h.mem⟩
    · rw [State.core_modCore]; exact h.chain
    · rw [State.core_modCore]; exact h.fa
    · rw [State.core_modCore]

/-- 09 R222: the chain after a block. -/
theorem committed (hf : cfgField ch.cfg 0 18 18 = 0) (o : ArrayOp) (b : BlockIn) : Fed (t.committed c o b) c (txBlock ch b).1 fa fb m := by
  have hforward : t.forward c ch.cfg o = t := by
    rw [State.forward, hf]
    rfl
  have hpins : Fed ((t.freeLinks c fun e => e.held).dropPins (o.got ++ o.gotB ++ o.gotC)) c ch fa fb m := (h.freeLinks _).dropPins _
  rw [State.committed, h.chain, hforward]
  refine Fed.landArray ⟨?_, ?_, ?_, ?_⟩ o [] _
  · rw [State.core_modCore]
  · rw [State.core_modCore]
    exact hpins.fa
  · rw [State.core_modCore]
    exact hpins.fb
  · rw [State.modCore_mem]
    exact hpins.mem

/-- 09 R223: the TXSTEP goes on or ends with the chain as it is. -/
theorem afterBlock (o : ArrayOp) (f : FX) (fresh last : Bool) : Fed (t.afterBlock c o f fresh last) c ch fa fb m := by
  unfold State.afterBlock
  dsimp only
  split
  · exact (h.endStep o f true).reportArray o _ _ _
  split
  · exact h.endStep o f true
  split
  · exact h.endStep o f false
  split
  · have hbank : Fed (t.modCore c fun k => { k with work := t.freeBank c }) c ch fa fb m :=
      h.modCore (f := fun k => { k with work := t.freeBank c }) rfl rfl rfl
    exact (hbank.endStep o f false).modCtx _ _
  · exact h.keepGot o

/-- 09 R222: a block that commits leaves its chain, however its TXSTEP goes on. -/
theorem commitBlock (hf : cfgField ch.cfg 0 18 18 = 0) (o : ArrayOp) (f : FX) (b : BlockIn) :
    Fed (t.commitBlock c o f b) c (txBlock ch b).1 fa fb m := by
  rw [commitBlock_eq]
  exact (h.committed hf o b).afterBlock _ _ _ _

end

end Fed

/-- Entries taken in two goes are the entries taken in one. -/
theorem takeFrom_take {l : List FifoEntry} {i n : Nat} (hi : i ≤ n) (hl : i ≤ l.length) :
    takeFrom (l.drop i) (l.take i) n = (l.take n, l.drop n) := by
  obtain ⟨k, rfl⟩ := Nat.exists_eq_add_of_le hi
  rw [takeFrom, List.length_take, Nat.min_eq_left hl, Nat.add_sub_cancel_left, List.take_add, List.drop_drop]

theorem isEmpty_take_false {l : List FifoEntry} {n : Nat} (hn : 0 < n) (hl : 0 < l.length) : (l.take n).isEmpty = false :=
  List.isEmpty_eq_false_iff.mpr (List.ne_nil_of_length_pos (by rw [List.length_take]; omega))

section
variable {s : State} {c : CoreRef} {o : ArrayOp} {rest : List ArrayOp} (h : AtHead s c o rest)
include h

theorem exec_chainBlockCommit {g : Head} {f : FX} (hi : o.instr = .txstep g f)
    (hs : ((s.ctx c o.ctx).score.any fun e => decide (e.id < o.id) && e.reg == .s f.cnt) = false) :
    exec (.chainBlockCommit c) s = .next (s.stepChain c o f) := by
  obtain ⟨hq, -⟩ := h
  show execChainBlockCommit c s = _
  simp only [execChainBlockCommit, hq, hi, hs, Bool.false_eq_true, if_false]

/-- 12 R301: a block of SCMODE 0 whose 32 entries stand in FA and in FB commits. -/
theorem stepChain_commits {f : FX} (hsc : cfgField (s.core c).chain.cfg 8 19 18 = 0) (hbm : cfgField (s.core c).chain.cfg 8 20 20 = 0)
    (hk : cfgKChan (s.core c).chain.cfg = none) (hv : cfgVChan (s.core c).chain.cfg = none)
    (hf : cfgField (s.core c).chain.cfg 0 18 18 = 0) (hl : (s.core c).chain.left ≠ 0)
    (ha : 32 ≤ (s.core c).fa.length) (hb : 32 ≤ (s.core c).fb.length)
    (ht : (s.ctx c o.ctx).takable.any (feedError (s.core c).chain.cfg) = false) :
    ∃ u o', s.stepChain c o f = u.commitBlock c o' f ⟨32, (s.core c).chain.kpos + 32 * (s.core c).chain.blk, 0x3F800000, 0x3F800000,
        ((s.core c).fa.take 32).map (·.val), ((s.core c).fb.take 32).map (·.val), none,
        ((s.core c).fa.take 32 ++ (s.core c).fb.take 32).any (·.poison)⟩ ∧
      Fed u c (s.core c).chain ((s.core c).fa.drop 32) ((s.core c).fb.drop 32) s.mem := by
  obtain ⟨-, -, -, -, hgC, -⟩ := id h
  have hone : (1 : Nat) ≤ 32 := by decide
  obtain ⟨t, htake, htf⟩ := (Fed.refl s c).feedA hk o.got 1
  rw [takeFrom_got h] at htake htf
  obtain ⟨a, hatake, haf⟩ := htf.feedA hk ((s.core c).fa.take 1) 32
  rw [takeFrom_take hone (hone.trans ha)] at hatake haf
  obtain ⟨u, hutake, huf⟩ := haf.feedB hv o.gotB 1
  rw [takeFrom_gotB h] at hutake huf
  obtain ⟨a', hatake', haf'⟩ := huf.feedA hk ((s.core c).fa.take 32) 32
  rw [takeFrom_take le_rfl ha] at hatake' haf'
  obtain ⟨b, hbtake, hbf⟩ := haf'.feedB hv ((s.core c).fb.take 1) 32
  rw [takeFrom_take hone (hone.trans hb)] at hbtake hbf
  have hleft : ((s.core c).chain.left == 0) = false := beq_eq_false_iff_ne.mpr hl
  have hfb1 : ((s.core c).fb.take 1).isEmpty = false := isEmpty_take_false (by decide) (by omega)
  have hfa32 : ((s.core c).fa.take 32).isEmpty = false := isEmpty_take_false (by decide) (by omega)
  have hla : ((s.core c).fa.take 32).length = 32 := by rw [List.length_take, Nat.min_eq_left ha]
  have hlb : ((s.core c).fb.take 32).length = 32 := by rw [List.length_take, Nat.min_eq_left hb]
  have hband : (cfgScMode (s.core c).chain.cfg == 2) = false := by rw [cfgScMode, hsc]; rfl
  have hmode : (cfgScMode (s.core c).chain.cfg == 0) = true := by rw [cfgScMode, hsc]; rfl
  have hmap : (cfgField (s.core c).chain.cfg 8 20 20 == 1) = false := by rw [hbm]; rfl
  have hfwd : (cfgField (s.core c).chain.cfg 0 18 18 == 1) = false := by rw [hf]; rfl
  refine ⟨b.modCore c fun k => { k with fc := (b.core c).fc },
    { o with got := (s.core c).fa.take 32, gotB := (s.core c).fb.take 32, gotC := [] }, ?_, hbf.modCore rfl rfl rfl⟩
  simp only [State.stepChain, hleft, ht, hband, hmode, hmap, hfwd, htake, hatake, hutake, hatake', hfb1, hbtake, hgC, takeFrom, hfa32, hla,
    hlb, Bool.false_eq_true, if_false, if_true, Bool.false_and, Bool.or_false, lt_irrefl, decide_false, List.append_nil, List.take_zero,
    List.drop_zero, List.length_nil, Nat.sub_self]
  rfl

/-! ### The end of a step (09 R223) -/

omit h in
theorem advance_getReg_s (x : Ctx) (acc : Bool) (d : BitVec 6) : (x.advance acc).getReg (.s d) = x.getReg (.s d) := by
  unfold Ctx.advance
  dsimp only
  repeat' split
  all_goals rfl

/-- What a TXSTEP's scalar is when it ends: the blocks that it has not done. -/
def stepLeft (k : Core) (o : ArrayOp) : Nat := if o.sA.toNat % 2 ^ 32 = 0 then 0 else o.sA.toNat % 2 ^ 32 - k.stepDone

omit h in
theorem core_endStep (f : FX) (hd : f.cnt ≠ 0) : ∃ x : Ctx, x.getReg (.s f.cnt) = BitVec.ofNat 2048 (stepLeft (s.core c) o) ∧
    (s.endStep c o f true).core c = Core.unqueued { (s.core c).setCtx o.ctx x with stepDone := 0 } o := by
  refine ⟨((s.ctx c o.ctx).landScore o.id (.s f.cnt) (BitVec.ofNat 2048 (stepLeft (s.core c) o)) allBits).advance false, ?_, ?_⟩
  · rw [advance_getReg_s, landScore_s_getReg _ _ hd]
    have hlt : stepLeft (s.core c) o < 2 ^ 32 := by
      unfold stepLeft
      split <;> omega
    have hwide : stepLeft (s.core c) o < 2 ^ 2048 := hlt.trans (Nat.pow_lt_pow_right (by decide) (by decide))
    have hword : stepLeft (s.core c) o < 2 ^ 64 := hlt.trans (by decide)
    apply BitVec.eq_of_toNat_eq
    rw [BitVec.toNat_setWidth, BitVec.toNat_setWidth, BitVec.toNat_ofNat, Nat.mod_eq_of_lt hwide, Nat.mod_eq_of_lt hword,
      Nat.mod_eq_of_lt hwide]
  · rw [State.endStep]
    dsimp only
    rw [core_popArray, State.core_modCore, core_modCtx, stepLeft]
    simp only [beq_iff_eq]
    rfl

end

end Sys2Proof.Machine
end

section
/-! Chain operations execute (09 R221 to R228): the obligation. -/
namespace Sys2Proof.Machine
open Sys2Proof.Claims

variable {s : State} {c : CoreRef} {o : ArrayOp} {rest : List ArrayOp}

theorem finPitch_eq (o : ArrayOp) : finPitch o = 128 * (if o.fmt.getLsbD 15 then 2 else 4) := by
  unfold finPitch
  split <;> rfl

/-- 09 R226: what memory holds after a TXFIN: in its rows, in its statistics, and elsewhere. -/
theorem readByte_doTxfin (hm : s.memOk = true) (stats : Bool) :
    let ch := (s.core c).chain
    let bf := o.fmt.getLsbD 15
    let e := if bf then 2 else 4
    let base := spadKey c.die c.core (o.sA.toNat % 2 ^ 20)
    let inRow := fun (a r j : Nat) => r ≤ cfgField ch.cfg 0x10 19 14 ∧ j < e * (cfgField ch.cfg 0x10 13 7 + 1) ∧ a = base + r * (128 * e) + j
    let m := (s.doTxfin c o stats).mem
    (∀ a r j, inRow a r j → readByte m a = (finRow ch bf r).1.getD j 0) ∧
    (stats = true → ∀ j, j < 528 → readByte m (base + 64 * (128 * e) + j) = (finStats ch (finEmpty ch)).getD j 0) ∧
    (∀ a, (∀ r j, ¬inRow a r j) → (stats = true → a < base + 64 * (128 * e) ∨ base + 64 * (128 * e) + 528 ≤ a) →
      readByte m a = readByte s.mem a) := by
  intro ch bf e base inRow m
  have hwf₀ : Memory.wf s.mem = true := hm
  have hrow (r : Nat) : (finRow ch bf r).1.length = e * (cfgField ch.cfg 0x10 13 7 + 1) := finRow_length ch bf r
  have hcols : cfgField ch.cfg 0x10 13 7 < 128 := cfgField_lt ch.cfg 0x10 13 7
  have hrows : cfgField ch.cfg 0x10 19 14 < 64 := cfgField_lt ch.cfg 0x10 19 14
  have hfit (r : Nat) : (finRow ch bf r).1.length ≤ 128 * e := by
    rw [hrow, Nat.mul_comm 128]
    exact Nat.mul_le_mul_left e hcols
  let rows := writeRows base (128 * e) (fun r => (finRow ch bf r).1) (cfgField ch.cfg 0x10 19 14 + 1) s.mem
  have hmem : m = if stats then writeBytes rows (base + 64 * (128 * e)) (finStats ch (finEmpty ch)) else rows := by
    have h := mem_doTxfin s c o stats
    rw [finPitch_eq] at h
    exact h
  have hwf : Memory.wf rows = true := writeRows_wf hwf₀ _
  have hin (a r j : Nat) (h : inRow a r j) : a < base + 64 * (128 * e) ∧
      readByte rows a = (finRow ch bf r).1.getD j 0 := by
    obtain ⟨hr, hj, rfl⟩ := h
    rw [← hrow r] at hj
    refine ⟨?_, readByte_writeRows hwf₀ hfit (Nat.lt_succ_of_le hr) hj⟩
    have hlast : (r + 1) * (128 * e) ≤ 64 * (128 * e) := Nat.mul_le_mul_right _ (by omega)
    rw [Nat.succ_mul] at hlast
    have hfitr := hfit r
    omega
  have hout (a : Nat) (h : ∀ r j, ¬inRow a r j) :
      readByte rows a = readByte s.mem a :=
    readByte_writeRows_of_not hwf₀ fun r j hr hj ha => h r j ⟨Nat.le_of_lt_succ hr, hrow r ▸ hj, ha⟩
  cases stats with
  | false =>
    rw [hmem]
    exact ⟨fun a r j h => (hin a r j h).2, nofun, fun a h _ => hout a h⟩
  | true =>
    have hread (a : Nat) : readByte m a = if base + 64 * (128 * e) ≤ a ∧ a < base + 64 * (128 * e) + 528 then
        (finStats ch (finEmpty ch)).getD (a - (base + 64 * (128 * e))) 0
        else readByte rows a := by
      rw [hmem, if_pos rfl, readByte_writeBytes hwf, finStats_length]
    refine ⟨fun a r j h => ?_, fun _ j hj => ?_, fun a h hs => ?_⟩
    · have hlt := (hin a r j h).1
      rw [hread, if_neg (by omega), (hin a r j h).2]
    · rw [hread, if_pos (by omega), Nat.add_sub_cancel_left]
    · have hs := hs rfl
      rw [hread, if_neg (by omega), hout a h]

end Sys2Proof.Machine

open Sys2Proof Sys2Proof.Machine Sys2Proof.Claims

/-- Settles O35, operation by operation. -/
theorem chainOperationsExecute : Obligations.ChainOperationsExecute := by
  unfold Obligations.ChainOperationsExecute
  intro s c o rest hat k ch key tn
  refine ⟨fun g f v hi hvs hlen => ?txbind, fun g f hi hm => ?txfin, fun g f hi hm => ⟨fun hb => ?saveSpad, fun l hb hl => ?saveDev⟩,
    fun g f x hi hb hp hx => ?restSpad, fun g f x l hi hb hl hp hx => ?restDev, fun g f hi => ?txabort,
    fun g f hi hl hd hs => ?stepEnd, fun g f hi hsc hbm hk hv hf hl ha hb hs ht => ?block⟩
  case txbind =>
    have hcfg : bindCfg o = cfgResolve (v.setWidth 1536) (o.fmt.extractLsb' 8 4) := by rw [bindCfg, hvs]; rfl
    rw [← hcfg] at hlen ⊢
    obtain ⟨t, hexec, hmem, hcore⟩ := exec_txbind hat hi hlen
    refine ⟨t, hexec, ?_⟩
    dsimp only
    rw [hcore]
    exact ⟨rfl, rfl, rfl, rfl, rfl, rfl, rfl, rfl, rfl, rfl, rfl, unqueued_arrayQ hat rfl, hmem⟩
  case txfin =>
    obtain ⟨fl, hcore⟩ := core_doTxfin s c o (f.imm.getLsbD 0)
    obtain ⟨hrows, hstats, hrest⟩ := readByte_doTxfin (c := c) (o := o) hm (f.imm.getLsbD 0)
    refine ⟨_, exec_headOp hat (by rw [hi]; rfl), ?_⟩
    dsimp only
    rw [hcore]
    refine ⟨hrows, fun r hr => getLsbD_finEmpty ch hr, fun h j hj => (hstats h j hj).trans ?_, hrest, rfl, unqueued_arrayQ hat rfl⟩
    rw [finStats, List.flatMap_append]
    rfl
  case saveSpad =>
    obtain ⟨hmem, hcore⟩ := doTxsave_spad (s := s) (c := c) (o := o)
    refine ⟨_, exec_headOp hat (by rw [hi]; rfl), ?_⟩
    dsimp only
    rw [hb, hcore, hmem]
    exact ⟨fun a => readByte_writeBytes hm _ _ _, rfl, rfl, unqueued_arrayQ hat rfl⟩
  case saveDev =>
    obtain ⟨hmem, hcore⟩ := doTxsave_dev hl
    refine ⟨_, exec_headOp hat (by rw [hi]; rfl), ?_⟩
    dsimp only
    rw [hb, hcore]
    exact ⟨hmem, rfl, rfl, unqueued_arrayQ hat rfl⟩
  case restSpad =>
    obtain ⟨hmem, hcore⟩ := doTxrest_spad hp hx
    refine ⟨_, exec_headOp hat (by rw [hi]; rfl), ?_⟩
    dsimp only
    rw [hb, hcore]
    exact ⟨rfl, rfl, unqueued_arrayQ hat rfl, hmem⟩
  case restDev =>
    obtain ⟨hmem, hcore⟩ := doTxrest_dev hl hp hx
    refine ⟨_, exec_headOp hat (by rw [hi]; rfl), ?_⟩
    dsimp only
    rw [hb, hcore]
    exact ⟨rfl, rfl, unqueued_arrayQ hat rfl, hmem⟩
  case txabort =>
    refine ⟨_, exec_headOp hat (by rw [hi]; rfl), ?_⟩
    cases hb : f.imm.getLsbD 0 with
    | false =>
      obtain ⟨hmem, hcore⟩ := doTxabort_release (s := s) (c := c) (o := o)
      rw [hcore]
      exact ⟨fun _ => ⟨rfl, rfl⟩, nofun, rfl, unqueued_arrayQ hat rfl, hmem⟩
    | true =>
      obtain ⟨hmem, hcore⟩ := doTxabort_empty (s := s) (c := c) (o := o)
      rw [hcore]
      exact ⟨nofun, fun _ => ⟨rfl, rfl, rfl, rfl, rfl⟩, rfl, unqueued_arrayQ hat rfl, hmem⟩
  case stepEnd =>
    obtain ⟨x, hx, hcore⟩ := core_endStep (s := s) (c := c) (o := o) f hd
    have hstep : s.stepChain c o f = s.endStep c o f true := by
      rw [State.stepChain]
      exact if_pos (beq_iff_eq.mpr hl)
    refine ⟨_, exec_chainBlockCommit hat hi hs, ?_⟩
    dsimp only
    rw [hstep, State.ctx, hcore]
    refine ⟨?_, rfl, unqueued_arrayQ hat rfl, ((Fed.refl s c).endStep o f true).mem⟩
    rw [unqueued_getReg]
    exact (congrArg (Ctx.getReg · (.s f.cnt)) (Core.getCtx_setCtx _ _ _)).trans hx
  case block =>
    obtain ⟨u, o', hstep, hfed⟩ := stepChain_commits (f := f) hat hsc hbm hk hv hf hl ha hb ht
    have hcommit := hfed.commitBlock hf o' f
      ⟨32, ch.kpos + 32 * ch.blk, 0x3F800000, 0x3F800000, (k.fa.take 32).map (·.val), (k.fb.take 32).map (·.val), none,
        (k.fa.take 32 ++ k.fb.take 32).any (·.poison)⟩
    refine ⟨_, exec_chainBlockCommit hat hi hs, ?_⟩
    dsimp only
    rw [hstep, hcommit.chain]
    exact ⟨rfl, rfl, rfl, hcommit.fa, hcommit.fb, hcommit.mem⟩
end
